-- ==== Sys2Proof/Word.lean ====
section
/-! DEFINITION. The word types of the module: bytes, 32-bit elements and 64-bit registers (R4, R568). -/

namespace Sys2Proof

/-- One byte of a memory, a frame or a descriptor. -/
abbrev Byte := BitVec 8

/-- A 32-bit element, tally or FP32 encoding. -/
abbrev W32 := BitVec 32

/-- A register of a register page (R568). -/
abbrev Word := BitVec 64

/-- A run of bytes, lowest address first. -/
abbrev Bytes := List Byte

end Sys2Proof
end

