-- ==== Sys2Proof/Syntax.lean ====
section
/-! DEFINITION. The commands of the module: one constructor of `Instr` for each row of spec/opcode_table.json,
with the operands the row's rules look at. -/

namespace Sys2Proof

/-- A macro-op of a request: the request's number in the model and the macro-op's index in its list (R115). -/
structure MopRef where
  req : Nat
  idx : Nat
  deriving DecidableEq, Repr

/-- Who waits on a read from flash: a request, or a session whose MEM_READ or MEM_WRITE needs a page of the flash tier (R274, R277, R505). -/
inductive TierWait where
  | request (id : Nat)
  | session (i : Nat)
  deriving DecidableEq, Repr

/-- The IVT header fields of a frame that arrives (R492), with the address it comes from (R491). -/
structure Hdr where
  version : Nat
  flagsReserved : Bool
  session : Nat
  tag : Nat
  seq : Nat
  ack : Nat
  sack : Option Nat
  length : Nat
  window : Nat
  msg : Nat
  offset : Nat
  last : Bool
  srcIp : Nat
  srcPort : Nat
  srcMac : Nat
  deriving DecidableEq, Repr

/-- What a sequenced frame of a host carries (R492). -/
inductive FrameBody where
  | regRead (addrs : List Nat)
  | regWrite (entries : List (Nat × Word))
  | memWrite (part : Nat) (reserved : Bool) (addr : Nat) (data : Bytes)
  | memRead (part : Nat) (reserved : Bool) (addr : Nat) (len : Nat)
  | submit (payload : Bytes)
  | attest (nonce : Bytes)
  | close
  deriving DecidableEq, Repr

/-- The addressing and checks of a datagram inside an Ethernet frame (R489, R490). -/
structure EthFacts where
  fcsOk : Bool
  length : Nat
  vlan : Option Nat
  priority : Nat
  macsec : Bool
  isMka : Bool
  isPfc : Bool
  isAnswered : Bool
  isUdp : Bool
  ipv6 : Bool
  dstIp : Nat
  dstPort : Nat
  fragment : Bool
  optionsOrExt : Bool
  checksum : Option Bool
  deriving DecidableEq, Repr

/-- A HELLO frame (R499). -/
structure HelloFacts where
  wanted : Nat
  keySlot : Nat
  maxPayload : Nat
  nonce : Bytes
  srcIp : Nat
  srcPort : Nat
  srcMac : Nat
  dstIp : Nat
  deriving DecidableEq, Repr

/-- A flit as a port receives it (R349, R355, R356): its partition tag, its channel (0 collective, 1 haulage, 2 service), the coordinates
it is meant for, its number on its channel, whether its CRC is right, the credits that come with it for the three channels, and what the peer
asks for again: a channel, or 3 for the bell lanes, and a number. -/
structure Flit where
  tag : Nat
  channel : Nat
  dstX : Nat
  dstY : Nat
  dstZ : Nat
  bytes : Nat
  crcOk : Bool
  seq : Nat
  credits : List Nat
  ask : Option (Nat × Nat)
  body : Nat
  deriving DecidableEq, Repr

/-- A tub chunk's header (R324) with the partition tag of its slice. -/
structure TubHdr where
  tag : Nat
  haulId : Nat
  srcRank : Nat
  layer : Nat
  exec : Nat
  dir : Nat
  chunk : Nat
  segs : Nat
  deriving DecidableEq, Repr

/-- The peer's report at step 4 of a bring-up (R352), and what the port found before it: light, the lanes of each group that failed their test
(R347, R348), and the flits that the peer has room for on each channel (R355). -/
structure BringupFacts where
  light : Bool
  badBulk : Nat
  badBell : Nat
  badSpare : Nat
  credits : List Nat
  peerPlane : Nat
  peerX : Nat
  peerY : Nat
  peerZ : Nat
  peerPort : Nat
  deriving DecidableEq, Repr

/-- What a flash stack has left: its spare blocks in hundredths of a percent and the rated writes used, in percent (R260). -/
structure FlashLife where
  spare : Nat
  wear : Nat
  deriving DecidableEq, Repr

/-- A lane of a port in service: its bit error rate before correction over the last millisecond, in parts of 10^15 (R347). -/
structure LaneRate where
  port : Nat
  ber : Nat
  deriving DecidableEq, Repr

/-- The supplies of the regions, and of the edge dies with the uncores, over a microsecond, in mW at the connector (R517). -/
structure Supply where
  regions : List Nat
  edge : Nat
  deriving DecidableEq, Repr

/-- The atomic operations of a cluster store (R228). -/
inductive AtomKind where
  | addInt32 | addInt64 | addFp32 | addBf16 | swap4 | swap8
  deriving DecidableEq, Repr

/-- What a port asks of a word of a bank (R221, R228): a read, a write of the bytes that `enable` has a bit for, or an atomic on the elements that
`mask` has a bit for. -/
inductive BankOp where
  | read
  | write (enable : Nat) (data : Bytes)
  | atomic (kind : AtomKind) (mask : Nat) (operand : Bytes)
  deriving DecidableEq, Repr

/-- What the error correction of a word finds when it is read (R242-R245). -/
inductive Ecc where
  | clean | corrected | bad
  deriving DecidableEq, Repr

/-- A port's access to a word of a bank (R222-R230): the cycles that it has waited there, and whether it is one of the module's own that reissues
a write or an add that loses under WW_MODE 1 (R227). -/
structure PortAcc where
  port : Nat
  waited : Nat
  word : Nat
  op : BankOp
  engine : Bool
  ecc : Ecc
  deriving DecidableEq, Repr

/-- A window access as its bank sees it: what other ports ask of the bank in the cycle, and what error correction finds in its word. -/
structure BankCycle where
  others : List PortAcc
  ecc : Ecc
  deriving DecidableEq, Repr

/-- A window read: its session and its cycle. -/
structure WindowAsk where
  sess : Nat
  cycle : BankCycle
  deriving DecidableEq, Repr

/-- What a background test finds in its test region: the words that fail the march, and the single-bit errors corrected (R236, R243). -/
structure MarchFacts where
  failing : List Nat
  corrected : Nat
  deriving DecidableEq, Repr

/-- Where an uncorrectable error of an on-chip memory lies (R242, R245, R246): at an address, in the side array of a unit, in the spare bank of a
cluster store, or in the secure store. -/
inductive SramSite where
  | at (pa : Nat)
  | side (unit : Nat)
  | spare (cluster : Nat)
  | secure
  deriving DecidableEq, Repr

/-- A catch entry: its cluster, and its place there from the oldest on (R234, R244). -/
structure CatchSite where
  cluster : Nat
  entry : Nat
  deriving DecidableEq, Repr

/-- The 209 commands, in the order of spec/opcode_table.json. -/
inductive Instr where
  -- start-up, resets, training
  | powerOn
  | bladeUndervoltage
  | resetHoldExpiry (loopOpen : Bool)
  | coldReset
  | refclkValidWaitEnd
  | earlyService
  | fullService
  | regionCalibration (region : Nat) (ok : Bool) (trim : Int)
  | hbmTrainingDone (stack : Nat) (lanesOk : Bool) (repairs spares : Nat)
  | hbmTempRead (stack temp : Nat)
  | hbmUncorrectable (pa : Nat)
  | sramUncorrectable (site : SramSite)
  | catchEccDiscard (site : CatchSite)
  | sftEcc (region : Nat)
  | csTestRegion (cluster : Nat) (facts : MarchFacts)
  | regionWake (region : Nat) (failing : List Nat)
  | regionPowerOff (region : Nat)
  | flashWear (stack : Nat) (life : FlashLife)
  | flashReadFail (who : TierWait) (stack : Nat)
  | tierDeadlineExpiry (who : TierWait) (stack : Nat)
  | poolEviction (part : Nat)
  | allocationWaitEnd (req : Nat)
  | frameZeroing (pa : Nat)
  -- leave to draw, heat, clocks
  | powerSample (draw : Nat) (supply : Supply) (avg : Nat)
  | clampPaceRise
  | leaveRequest (m : MopRef)
  | leaveGrant
  | grantRelease (m : MopRef) (o heldUs : Nat)
  | depWaitLong (m : MopRef)
  | depEnvelopeWrite (sess : Nat) (value : Word)
  | dieTempRead (die temp : Nat)
  | tripResume (die : Nat)
  | coolantRead (inlet outlet : Nat)
  | sscUpdate
  | refclkLost
  | clkRefBack
  | tamper
  -- resets by command
  | warmReset
  | partitionReset (part : Nat)
  | blockSoftReset (page : Nat)
  | modResetDone
  -- security and calibration commands
  | keyWrite (sess arg : Nat)
  | keyErase (sess arg : Nat)
  | cakWrite (sess : Nat)
  | fwCommit (sess : Nat)
  | svnBurn (sess : Nat)
  | transition (sess arg : Nat)
  | exportRecord (sess : Nat)
  | importRecord (sess : Nat)
  | selfCal (sess : Nat)
  -- links
  | linkBringup (port : Nat) (f : BringupFacts)
  | lnkRetrain (sess port : Nat)
  | laneSpared (lane : LaneRate)
  | linkDegraded (port : Nat) (bellLane : Bool)
  | flitReceive (port : Nat) (f : Flit)
  | linkUncorrectable (port : Nat)
  | bellFault (port tag rank : Nat)
  | bellAbort (port tag rank status : Nat) (hauls : List Nat)
  | bellHeld (port tag rank : Nat) (set : Bool)
  | bellVerdict (port tag rank : Nat) (bit : Bool)
  | bellColl (port tag collId axis offset : Nat) (payload : List W32)
  | rtrCoordWrite (sess : Nat) (plane : Bool) (value : Word)
  | rtrSliceWrite (sess part : Nat) (value : Word)
  -- host port
  | ethFrameReceive (f : EthFacts)
  | pfcFrameReceive (pauses : List (Nat × Bool))
  | mkaFrameReceive (ok : Bool)
  | arpRequest (ip mac : Nat)
  | neighbourSolicitation (ip mac : Nat)
  | echoRequest (ipv6 : Bool) (ip token : Nat)
  | hostPortStateChange (linkUp training : Bool) (lanes : Nat)
  | hello (f : HelloFacts)
  | proof (sess tag : Nat) (sig : Bytes) (srcIp srcPort : Nat)
  | proofTimeout (sess : Nat)
  | close (h : Hdr)
  | regRead (h : Hdr) (addrs : List Nat)
  | regWrite (h : Hdr) (entries : List (Nat × Word))
  | memWrite (h : Hdr) (part : Nat) (reserved : Bool) (addr : Nat) (data : Bytes)
  | memRead (h : Hdr) (part : Nat) (reserved : Bool) (addr : Nat) (len : Nat)
  | submit (h : Hdr) (payload : Bytes)
  | attest (h : Hdr) (nonce : Bytes)
  | ack (h : Hdr)
  | ackTimer (sess : Nat)
  | retransmitTimeout (sess seq : Nat)
  | sessionIdleTimeout (sess : Nat)
  | eventFrameSend (sess : Nat)
  | requestComplete (req : Nat)
  -- scheduler
  | admission (part : Nat)
  | preemption (part : Nat)
  | regionRestore (region : Nat)
  | jobFault (part : Nat)
  | schSessWrite (sess index : Nat) (value : Word)
  | schPartWrite (sess part : Nat) (value : Word)
  | schTallyWrite (sess part : Nat) (value : Word)
  | talAdd (sess page : Nat) (value : Word)
  -- the life of a macro-op
  | mopWaitMet (m : MopRef)
  | mopComplete (m : MopRef)
  | groupTake (cluster : Nat)
  | chunkCredit (unit : Nat)
  | canaryVerdict (m : MopRef)
  | canaryGrad (m : MopRef)
  -- matrix and element-wise macro-ops
  | matmul (m : MopRef)
  | matmulAdd (m : MopRef)
  | convert (m : MopRef)
  | add (m : MopRef)
  | mul (m : MopRef)
  | fma (m : MopRef)
  | max (m : MopRef)
  | min (m : MopRef)
  | fill (m : MopRef)
  | reduceSum (m : MopRef)
  | reduceMax (m : MopRef)
  | reduceMin (m : MopRef)
  | reduceSumSquares (m : MopRef)
  | chain (m : MopRef)
  -- special functions and row operations
  | sfnExp2 (m : MopRef)
  | sfnLog2 (m : MopRef)
  | sfnRcp (m : MopRef)
  | sfnRsqrt (m : MopRef)
  | sfnUser (m : MopRef)
  | softmax (m : MopRef)
  | softmaxStats (m : MopRef)
  | statsMerge (m : MopRef)
  | softmaxApply (m : MopRef)
  | layernorm (m : MopRef)
  | rmsnorm (m : MopRef)
  | normStatsLayer (m : MopRef)
  | normStatsRms (m : MopRef)
  -- attention and contexts
  | attn (m : MopRef)
  | kvAppend (m : MopRef)
  | attnGrad (m : MopRef)
  | ctxOpen (m : MopRef)
  | ctxResize (m : MopRef)
  | ctxClose (m : MopRef)
  | ctxFill (m : MopRef)
  -- haulage
  | haulSend (m : MopRef)
  | haulAttn (m : MopRef)
  | haulGrad (m : MopRef)
  | tubChunkReceive (h : TubHdr) (data : Bytes)
  | haulTimeout (part haulId : Nat)
  | haulAbort (req : Nat)
  -- window operators and detection
  | conv (m : MopRef)
  | poolMax (m : MopRef)
  | poolMin (m : MopRef)
  | poolAverage (m : MopRef)
  | boxDecodeDistances (m : MopRef)
  | boxDecodeCentre (m : MopRef)
  | nms (m : MopRef)
  -- video
  | vctxOpen (m : MopRef)
  | vctxClose (m : MopRef)
  | vctxReset (m : MopRef)
  | vdec (m : MopRef)
  | segmentStart (set : Nat)
  | parseResume (seg : Nat)
  | pictureReconstruct (set : Nat)
  | segmentEnd (seg : Nat)
  | ringWaitExpiry (seg : Nat)
  | segLimitExpiry (seg : Nat)
  | venc (m : MopRef)
  | vencStart (set : Nat)
  -- input pipeline
  | prep (m : MopRef)
  | prepJobStart (engine : Nat)
  | prepJobEnd (engine : Nat)
  | budgetExpiry (seg : Nat)
  | holdExpiry (m : MopRef)
  | step (m : MopRef)
  | placeJoinGather (m : MopRef)
  | placeJoinSlot (m : MopRef)
  | placeLeave (m : MopRef)
  -- collectives
  | reduceScatter (m : MopRef)
  | allGather (m : MopRef)
  | bellReduce (m : MopRef)
  | bellBarrier (m : MopRef)
  | bellBcast (m : MopRef)
  | reductionClaimGrant (edge : Nat)
  | redFallback (m : MopRef) (edge : Nat)
  | collPieceReceive (tag collId phase step offset : Nat) (data : Bytes)
  | collTimeout (m : MopRef)
  -- memory macro-ops
  | copy (m : MopRef)
  | prefetch (m : MopRef)
  | pin (m : MopRef)
  | unpin (m : MopRef)
  | imageWrite (m : MopRef)
  | imageSeal (m : MopRef)
  | tallySet (m : MopRef)
  | tallyAdd (m : MopRef)
  | barrier (m : MopRef)
  | ckptSave (m : MopRef)
  | ckptRestore (m : MopRef)
  | mapHbm (m : MopRef)
  | mapFlash (m : MopRef)
  | unmap (m : MopRef)
  | mapImage (m : MopRef)
  | changeProtection (m : MopRef)
  | polQuotaWrite (sess part : Nat) (value : Word)
  -- special-function tables
  | sftArm (sess region : Nat) (value : Word)
  | sftSwapped (part : Nat)
  -- pages and debug
  | pageLock (sess page : Nat) (value : Word)
  | evtClr (sess page : Nat) (value : Word)
  | traceEnable (sess : Nat) (value : Word)
  | traceRecord
  | debugHalt (sess : Nat) (value : Word)
  | debugHalted
  | windowRead (ask : WindowAsk)
  | windowWrite (sess : Nat) (value : Word) (cycle : BankCycle)
  | resetNRelease (slot : Nat)
  | secCmdDone (flashOk : Bool)
  | calDone (sections : Bytes)
  | hptMkaFail
  | pfcPauseExpiry (priority : Nat)
  deriving DecidableEq, Repr

end Sys2Proof
end

