-- ==== Sys2Proof/Decode.lean ====
section
/-! DEFINITION. The commands that words spell. The block is commanded by events and frames, and spec/opcode_table.json gives
no row any bits, so no word spells a command (log 9). -/

namespace Sys2Proof

/-- The command that a word spells by the table's bits: none, whatever the word. -/
def decodeTableWord (_nbits _w : Nat) : Option Instr := none

end Sys2Proof
end

