-- ==== Sys2Proof/Machine/Bits.lean ====
section
/-! DEFINITION. Bytes, little-endian fields and small arithmetic shared by every rule. All IVT fields are
little-endian (R492); the module's descriptors and elements are taken so too (DEDUCED from R42 and R59's example, log 6). -/

namespace Sys2Proof.Machine

/-- The number that a run of bytes stands for, lowest byte first. -/
def leNat : Bytes → Nat
  | [] => 0
  | b :: bs => b.toNat + 256 * leNat bs

/-- `n` bytes of `v`, lowest first. -/
def natLe : Nat → Nat → Bytes
  | 0, _ => []
  | n + 1, v => BitVec.ofNat 8 v :: natLe n (v / 256)

/-- The field of `size` bytes at `off`. -/
def fld (bs : Bytes) (off size : Nat) : Nat := leNat ((bs.drop off).take size)

/-- Bits [hi:lo] of a number. -/
def bits (v hi lo : Nat) : Nat := (v >>> lo) % 2 ^ (hi + 1 - lo)

/-- Bit `i` of a number. -/
def bit (v i : Nat) : Bool := v.testBit i

/-- Quotient rounded up. -/
def ceilDiv (a b : Nat) : Nat := (a + b - 1) / b

/-- `a` rounded up to a multiple of `b`. -/
def roundUp (a b : Nat) : Nat := ceilDiv a b * b

/-- Replace the run of bytes at `off` by `v`. -/
def setBytes (bs : Bytes) (off : Nat) (v : Bytes) : Bytes :=
  bs.take off ++ v ++ bs.drop (off + v.length)

/-- `n` zero bytes. -/
def zeros (n : Nat) : Bytes := List.replicate n 0

/-- Every byte of the list is zero. -/
def allZero (bs : Bytes) : Bool := bs.all (· == 0)

/-- `v` as a two's-complement number of `w` bits. -/
def signed (w v : Nat) : Int := if v < 2 ^ (w - 1) then (v : Int) else (v : Int) - (2 ^ w : Nat)

/-- A two's-complement code of `w` bits. -/
def unsigned (w : Nat) (i : Int) : Nat := (i % (2 ^ w : Nat)).toNat

/-- Element `i` of a list, or the default. -/
def nth {α : Type} (l : List α) (i : Nat) (d : α) : α := (l[i]?).getD d

/-- Replace element `i`, where it exists. -/
def setNth {α : Type} (l : List α) (i : Nat) (a : α) : List α := l.set i a

/-- Update element `i`, where it exists. -/
def updNth {α : Type} (l : List α) (i : Nat) (f : α → α) : List α := l.modify i f

/-- The sum of a list. -/
def sumNat (l : List Nat) : Nat := l.foldl (· + ·) 0

/-- The largest of a list, 0 when empty. -/
def maxNat (l : List Nat) : Nat := l.foldl Nat.max 0

/-- The first element of `l` that satisfies `p` becomes `f` of it. -/
def updFirst {α : Type} (p : α → Bool) (f : α → α) : List α → List α
  | [] => []
  | a :: as => if p a then f a :: as else a :: updFirst p f as

/-- Insert `a` after every element that `le` puts before it or beside it. -/
def insertBy {α : Type} (le : α → α → Bool) (a : α) : List α → List α
  | [] => [a]
  | b :: bs => if le b a then b :: insertBy le a bs else a :: b :: bs

/-- Stable insertion sort. -/
def sortBy {α : Type} (le : α → α → Bool) (l : List α) : List α := l.foldl (fun acc a => insertBy le a acc) []

/-- The nibble or field list of a byte string: `n` fields of `w` bits from the low bits upward (R42). -/
def unpackFields (w n v : Nat) : List Nat := (List.range n).map fun i => (v >>> (w * i)) % 2 ^ w

/-- Fields of `w` bits packed from the low bits upward (R42). -/
def packFields (w : Nat) : List Nat → Nat
  | [] => 0
  | x :: xs => x % 2 ^ w + 2 ^ w * packFields w xs

/-- A flag at bit `lo`. -/
def flag (b : Bool) (lo : Nat) : Nat := if b then 2 ^ lo else 0

/-- Every pair of distinct positions of the list holds distinct values. -/
def distinct : List Nat → Bool
  | [] => true
  | x :: xs => !xs.contains x && distinct xs

end Sys2Proof.Machine
end

