-- ==== Sys2Proof/Machine/Hash.lean ====
section
/-! DEFINITION. The digests and checks of other standards that the spec names: SHA3-512 (R262, R565; FIPS 202) and CRC-32
(R197; IEEE 802.3), PRESUMED from those standards (log 11). -/

namespace Sys2Proof.Machine

/-- Rotate a 64-bit lane left. -/
def rotl64 (x : BitVec 64) (n : Nat) : BitVec 64 := x.rotateLeft n

/-- One step of the round-constant generator of Keccak. -/
def lfsrStep (r : Nat) : Nat := let t := r * 2; if t ≥ 256 then Nat.xor (t - 256) 0x71 else t

/-- The output bit of the generator after `n` steps. -/
def lfsrBit : Nat → Nat → Bool
  | 0, r => r % 2 == 1
  | n + 1, r => lfsrBit n (lfsrStep r)

/-- The round constant of round `i`. -/
def keccakRc (i : Nat) : BitVec 64 :=
  BitVec.ofNat 64 (sumNat ((List.range 7).map fun j => if lfsrBit ((7 * i + j) % 255) 1 then 2 ^ (2 ^ j - 1) else 0))

/-- Rotation of lane (x, y), at index x + 5y. -/
def keccakRot : List Nat :=
  [0, 1, 62, 28, 27, 36, 44, 6, 55, 20, 3, 10, 43, 25, 39, 41, 45, 15, 21, 8, 18, 2, 61, 56, 14]

/-- A lane of the state. -/
def lane (a : List (BitVec 64)) (i : Nat) : BitVec 64 := nth a i 0

/-- One round of Keccak-f[1600]. -/
def keccakRound (a : List (BitVec 64)) (rc : BitVec 64) : List (BitVec 64) :=
  let c := (List.range 5).map fun x => lane a x ^^^ lane a (x + 5) ^^^ lane a (x + 10) ^^^ lane a (x + 15) ^^^ lane a (x + 20)
  let d := (List.range 5).map fun x => lane c ((x + 4) % 5) ^^^ rotl64 (lane c ((x + 1) % 5)) 1
  let a1 := (List.range 25).map fun i => lane a i ^^^ lane d (i % 5)
  -- lane (x, y) moves to (y, 2x + 3y)
  let b := (List.range 25).map fun i =>
    let x := i % 5
    let y := i / 5
    -- the source (x0, y0) with y0 = x and 2*x0 + 3*y0 = y (mod 5)
    let x0 := (x + 3 * y) % 5
    let y0 := x
    rotl64 (lane a1 (x0 + 5 * y0)) (nth keccakRot (x0 + 5 * y0) 0)
  let e := (List.range 25).map fun i =>
    let x := i % 5
    let y := i / 5
    lane b i ^^^ ((~~~ lane b ((x + 1) % 5 + 5 * y)) &&& lane b ((x + 2) % 5 + 5 * y))
  match e with
  | [] => []
  | h :: t => (h ^^^ rc) :: t

/-- Keccak-f[1600]. -/
def keccakF (a : List (BitVec 64)) : List (BitVec 64) :=
  (List.range 24).foldl (fun s i => keccakRound s (keccakRc i)) a

/-- Absorb blocks of 72 bytes, `n` of them. -/
def absorb : Nat → Bytes → List (BitVec 64) → List (BitVec 64)
  | 0, _, st => st
  | n + 1, bs, st =>
    let blk := (List.range 25).map fun i => if i < 9 then lane st i ^^^ BitVec.ofNat 64 (fld bs (8 * i) 8) else lane st i
    absorb n (bs.drop 72) (keccakF blk)

/-- SHA3-512. -/
def sha3 (m : Bytes) : Bytes :=
  let padLen := 72 - m.length % 72
  let pad : Bytes := if padLen == 1 then [0x86] else [0x06] ++ zeros (padLen - 2) ++ [0x80]
  let p := m ++ pad
  let st := absorb (p.length / 72) p (List.replicate 25 0)
  ((List.range 8).map fun i => natLe 8 (lane st i).toNat).flatten

/-- One bit of the reflected CRC-32. -/
def crcBit (c : BitVec 32) : BitVec 32 := if c.getLsbD 0 then (c >>> 1) ^^^ 0xEDB88320 else c >>> 1

/-- One byte of it. -/
def crcByte (c : BitVec 32) (b : Byte) : BitVec 32 := (List.range 8).foldl (fun c _ => crcBit c) (c ^^^ b.setWidth 32)

/-- CRC-32 with the IEEE 802.3 polynomial. -/
def crc32 (bs : Bytes) : BitVec 32 := ~~~(bs.foldl crcByte 0xFFFFFFFF)

end Sys2Proof.Machine
end

