-- ==== Sys2Proof/Machine/Dyadic.lean ====
section
/-! DEFINITION. Exact numbers and the one rounding of the module, to nearest with ties to even (R57). -/

namespace Sys2Proof.Machine

/-- An exact value as an element reads: a signed dyadic number `± m · 2^e`, an infinity or a NaN (R39). -/
inductive Num where
  | num (neg : Bool) (m : Nat) (e : Int)
  | inf (neg : Bool)
  | nan
  deriving DecidableEq, Repr

/-- Positive zero. -/
def Num.zero : Num := .num false 0 0

/-- One. -/
def Num.one : Num := .num false 1 0

/-- The value of an integer. -/
def Num.ofInt (i : Int) : Num := .num (i < 0) i.natAbs 0

/-- A zero of either sign. -/
def Num.isZero : Num → Bool
  | .num _ m _ => m == 0
  | _ => false

/-- A finite value. -/
def Num.finite : Num → Bool
  | .num _ _ _ => true
  | _ => false

/-- The signed significand of a finite value, 0 otherwise. -/
def Num.sig : Num → Int
  | .num neg m _ => if neg then -(m : Int) else m
  | _ => 0

/-- The exponent of a finite value's significand. -/
def Num.exp : Num → Int
  | .num _ _ e => e
  | _ => 0

/-- floor(log2 |v|) of a finite non-zero value. -/
def Num.log2 : Num → Int
  | .num _ m e => e + (Nat.log2 m : Int)
  | _ => 0

/-- The value of a signed significand. A zero is +0. -/
def Num.ofSig (s : Int) (e : Int) : Num := .num (s < 0) s.natAbs e

/-- `m ÷ 2^k` to nearest, ties to even (R57). -/
def rneShift (m k : Nat) : Nat :=
  if k = 0 then m
  else
    let q := m >>> k
    let r := m % 2 ^ k
    let half := 2 ^ (k - 1)
    if r > half || (r == half && q % 2 == 1) then q + 1 else q

/-- A signed number shifted right by `k` places to nearest, ties to even, and whether a non-zero bit was dropped (R63). -/
def rneShiftInt (n : Int) (k : Nat) : Int × Bool :=
  let q := rneShift n.natAbs k
  ((if n < 0 then -(q : Int) else q), n.natAbs % 2 ^ k != 0)

/-- `m · 2^e` rounded to the unit `2^q`: the significand at that unit. -/
def roundAt (m : Nat) (e q : Int) : Nat :=
  if q ≤ e then m <<< (e - q).toNat else rneShift m (q - e).toNat

/-- Two finite numbers brought to one exponent. -/
def alignSig (a b : Num) : Int × Int × Int :=
  let e := Min.min a.exp b.exp
  (a.sig * (2 ^ (a.exp - e).toNat : Nat), b.sig * (2 ^ (b.exp - e).toNat : Nat), e)

/-- Exact sum; a sum of opposite values is +0, and only two negative zeros give −0 (R39). -/
def Num.add (a b : Num) : Num :=
  match a, b with
  | .nan, _ => .nan
  | _, .nan => .nan
  | .inf x, .inf y => if x == y then .inf x else .nan
  | .inf x, _ => .inf x
  | _, .inf y => .inf y
  | .num n1 m1 _, .num n2 m2 _ =>
    if m1 == 0 && m2 == 0 then .num (n1 && n2) 0 0
    else
      let (x, y, e) := alignSig a b
      .ofSig (x + y) e

/-- The opposite value. A NaN stays one. -/
def Num.neg : Num → Num
  | .num n m e => .num (!n) m e
  | .inf n => .inf (!n)
  | .nan => .nan

/-- The magnitude. -/
def Num.abs : Num → Num
  | .num _ m e => .num false m e
  | .inf _ => .inf false
  | .nan => .nan

/-- Exact product (R39). -/
def Num.mul (a b : Num) : Num :=
  match a, b with
  | .nan, _ => .nan
  | _, .nan => .nan
  | .inf x, .inf y => .inf (x != y)
  | .inf x, .num y m _ => if m == 0 then .nan else .inf (x != y)
  | .num y m _, .inf x => if m == 0 then .nan else .inf (x != y)
  | .num n1 m1 e1, .num n2 m2 e2 => .num (n1 != n2) (m1 * m2) (e1 + e2)

/-- Comparison of values, −0 equal to +0; `none` with a NaN (R177). -/
def Num.cmp (a b : Num) : Option Ordering :=
  match a, b with
  | .nan, _ => none
  | _, .nan => none
  | .inf x, .inf y => some (compare (!x) (!y))
  | .inf x, _ => some (if x then .lt else .gt)
  | _, .inf y => some (if y then .gt else .lt)
  | .num _ _ _, .num _ _ _ =>
    let (x, y, _) := alignSig a b
    some (compare x y)

/-- a < b as values. -/
def Num.lt (a b : Num) : Bool := a.cmp b == some .lt

/-- a ≤ b as values. -/
def Num.le (a b : Num) : Bool := a.cmp b == some .lt || a.cmp b == some .eq

/-- A quotient of finite values with a sticky bit below 2^-`bitsKept` of its own size, so that one rounding of
it to any of the module's formats is the rounding of the exact quotient. Zero divisors give an infinity or a NaN (R39). -/
def Num.div (a b : Num) : Num :=
  match a, b with
  | .nan, _ => .nan
  | _, .nan => .nan
  | .inf _, .inf _ => .nan
  | .inf x, .num y _ _ => .inf (x != y)
  | .num x _ _, .inf y => .num (x != y) 0 0
  | .num n1 m1 e1, .num n2 m2 e2 =>
    if m2 == 0 then (if m1 == 0 then .nan else .inf (n1 != n2))
    else
      let s := 80 + Nat.log2 m2
      let t := m1 <<< s
      .num (n1 != n2) (2 * (t / m2) + (if t % m2 == 0 then 0 else 1)) (e1 - e2 - (s : Int) - 1)

/-- Integer square root by `fuel` bits from the top: the largest `r` with `r² ≤ n`, for `n < 4^fuel`. -/
def isqrt (n : Nat) : Nat → Nat → Nat
  | 0, r => r
  | fuel + 1, r =>
    let c := r + 2 ^ fuel
    isqrt n fuel (if c * c ≤ n then c else r)

/-- The square root of a finite value that is not negative, with a sticky bit. -/
def Num.sqrt : Num → Num
  | .nan => .nan
  | .inf n => if n then .nan else .inf false
  | .num n m e =>
    if m == 0 then .num n 0 0
    else if n then .nan
    else
      let s := if e % 2 == 0 then 120 else 121
      let t := m <<< s
      let r := isqrt t (Nat.log2 t / 2 + 1) 0
      .num false (2 * r + (if r * r == t then 0 else 1)) ((e - (s : Int)) / 2 - 1)

/-- A binary interchange format: widths of its exponent and fraction; every code beyond is as IEEE 754 has it. -/
structure FFmt where
  ebits : Nat
  mbits : Nat
  deriving DecidableEq, Repr

/-- FP32, BF16 and FP16 of the scalar table. -/
def FFmt.fp32 : FFmt := ⟨8, 23⟩
def FFmt.bf16 : FFmt := ⟨8, 7⟩
def FFmt.fp16 : FFmt := ⟨5, 10⟩

/-- The exponent bias. -/
def FFmt.bias (f : FFmt) : Int := (2 ^ (f.ebits - 1) : Nat) - 1

/-- The exponent of the unit of the subnormals. -/
def FFmt.qmin (f : FFmt) : Int := 1 - f.bias - (f.mbits : Int)

/-- The code of the largest finite value, sign 0. -/
def FFmt.maxCode (f : FFmt) : Nat := ((2 ^ f.ebits - 2) <<< f.mbits) + (2 ^ f.mbits - 1)

/-- The code of infinity, sign 0. -/
def FFmt.infCode (f : FFmt) : Nat := (2 ^ f.ebits - 1) <<< f.mbits

/-- The canonical quiet NaN (R39). -/
def FFmt.nanCode (f : FFmt) : Nat := f.infCode + 2 ^ (f.mbits - 1)

/-- The place of the sign bit. -/
def FFmt.signBit (f : FFmt) : Nat := 2 ^ (f.ebits + f.mbits)

/-- The value of a code (scalar table, R39). -/
def FFmt.decode (f : FFmt) (code : Nat) : Num :=
  let s := (code >>> (f.ebits + f.mbits)) % 2 == 1
  let ex := (code >>> f.mbits) % 2 ^ f.ebits
  let fr := code % 2 ^ f.mbits
  if ex == 2 ^ f.ebits - 1 then (if fr == 0 then .inf s else .nan)
  else if ex == 0 then .num s fr f.qmin
  else .num s (2 ^ f.mbits + fr) (f.qmin + (ex : Int) - 1)

/-- The magnitude `m · 2^e` rounded once to the format (R57): the code without its sign, or `none` when the
rounded magnitude lies above the largest finite value (R602). -/
def FFmt.roundMag (f : FFmt) (m : Nat) (e : Int) : Option Nat :=
  if m == 0 then some 0
  else
    let q := Max.max (e + (Nat.log2 m : Int) - (f.mbits : Int)) f.qmin
    let r := roundAt m e q
    -- a carry out of the significand moves to the next exponent by the encoding's own order
    let code := ((q - f.qmin).toNat <<< f.mbits) + r
    if code > f.maxCode then none else some code

/-- An exact value rounded to the format; `sat` chooses saturation (the conversions table) or infinity
(IEEE 754 arithmetic of R39) above the range. The flag says that a finite value went beyond the range (R602). -/
def FFmt.encode (f : FFmt) (sat : Bool) : Num → Nat × Bool
  | .nan => (f.nanCode, false)
  | .inf n => (f.infCode + (if n then f.signBit else 0), false)
  | .num n m e =>
    let s := if n then f.signBit else 0
    match f.roundMag m e with
    | some c => (c + s, false)
    | none => ((if sat then f.maxCode else f.infCode) + s, true)

/-- The value of an FP32 encoding. -/
def f32 (w : W32) : Num := FFmt.fp32.decode w.toNat

/-- An exact value rounded to FP32 by IEEE 754 arithmetic (R39). -/
def toF32 (v : Num) : W32 := BitVec.ofNat 32 (FFmt.fp32.encode false v).1

/-- An exact value converted to FP32 with saturation (conversions table, R57): code and saturation flag. -/
def cvtF32 (v : Num) : W32 × Bool :=
  let r := FFmt.fp32.encode true v
  (BitVec.ofNat 32 r.1, r.2)

/-- The vector engine's FP32 operations, each correctly rounded (R39, R70). -/
def fAdd (a b : W32) : W32 := toF32 ((f32 a).add (f32 b))
def fSub (a b : W32) : W32 := toF32 ((f32 a).add (f32 b).neg)
def fMul (a b : W32) : W32 := toF32 ((f32 a).mul (f32 b))
def fFma (a b c : W32) : W32 := toF32 (((f32 a).mul (f32 b)).add (f32 c))
def fFnma (a b c : W32) : W32 := toF32 (((f32 a).mul (f32 b)).neg.add (f32 c))
def fDiv (a b : W32) : W32 := toF32 ((f32 a).div (f32 b))
def fSqrt (a : W32) : W32 := toF32 (f32 a).sqrt

/-- The canonical NaN. -/
def nan32 : W32 := 0x7FC00000

/-- |s0| and −s0: a NaN gives the canonical NaN (R39). -/
def fAbs (a : W32) : W32 := toF32 (f32 a).abs
def fNeg (a : W32) : W32 := toF32 (f32 a).neg

/-- −0 lies below +0 and the canonical NaN answers any NaN (R177). -/
def fMin (a b : W32) : W32 :=
  match (f32 a).cmp (f32 b) with
  | none => nan32
  | some .lt => a
  | some .gt => b
  | some .eq => if a.msb then a else b

def fMax (a b : W32) : W32 :=
  match (f32 a).cmp (f32 b) with
  | none => nan32
  | some .lt => b
  | some .gt => a
  | some .eq => if a.msb then b else a

/-- The comparison of CMP's IMM (R177). -/
def fCmp (imm : Nat) (a b : W32) : Bool :=
  let c := (f32 a).cmp (f32 b)
  match imm with
  | 0 => c == some .eq
  | 1 => c == some .lt
  | 2 => c == some .lt || c == some .eq
  | _ => c != some .eq

/-- A value converted to an integer type of the range [lo, hi]: ties to even; a NaN gives 0; beyond the range
the extreme of that sign. Flags: saturated, NaN (conversions table, R602). -/
def toInt (lo hi : Int) : Num → Int × Bool × Bool
  | .nan => (0, false, true)
  | .inf n => ((if n then lo else hi), true, false)
  | .num n m e =>
    let r := roundAt m e 0
    let v : Int := if n then -(r : Int) else r
    if v < lo then (lo, true, false) else if v > hi then (hi, true, false) else (v, false, false)

end Sys2Proof.Machine
end

