-- ==== Sys2Proof/Machine/Formats.lean ====
section
/-! DEFINITION. The stored types: codes, block formats, scale codes and conversions (R38-R58, R602). -/

namespace Sys2Proof.Machine

/-! Type codes (R38). -/
abbrev tyFP32 : Nat := 0x01
abbrev tyBF16 : Nat := 0x02
abbrev tyFP16 : Nat := 0x03
abbrev tyE4M3 : Nat := 0x04
abbrev tyE5M2 : Nat := 0x05
abbrev tyE3M2 : Nat := 0x06
abbrev tyE2M3 : Nat := 0x07
abbrev tyE2M1 : Nat := 0x08
abbrev tyMXINT8 : Nat := 0x09
abbrev tyINT32 : Nat := 0x0A
abbrev tyINT8 : Nat := 0x0B
abbrev tyUINT8 : Nat := 0x0C
abbrev tyKX3 : Nat := 0x0D
abbrev tyKT2 : Nat := 0x0E

/-- A listed type code (R38). -/
def tyValid (t : Nat) : Bool := 1 ≤ t && t ≤ 0x0E

/-- The six MX types. -/
def tyMx (t : Nat) : Bool := 4 ≤ t && t ≤ 9

/-- The blocked types (R126). -/
def tyBlocked (t : Nat) : Bool := tyMx t || t == tyKX3 || t == tyKT2

/-- Integer types. -/
def tyInt (t : Nat) : Bool := t == tyINT32 || t == tyINT8 || t == tyUINT8

/-- Positions of the table of R38. -/
def tyMatA (t : Nat) : Bool := (2 ≤ t && t ≤ 9) || t == tyINT8 || t == tyUINT8
def tyMatB (t : Nat) : Bool := tyMatA t || t == tyKX3 || t == tyKT2
def tyMatOut (t : Nat) : Bool := 1 ≤ t && t ≤ 0x0B
def tyElem (t : Nat) : Bool := 1 ≤ t && t ≤ 0x0C

/-- Bytes of a scalar element. -/
def tyBytes (t : Nat) : Nat :=
  if t == tyFP32 || t == tyINT32 then 4 else if t == tyBF16 || t == tyFP16 then 2 else 1

/-- Element bytes of a block (storage table). -/
def blockBytes (t : Nat) : Nat :=
  if t == tyE3M2 || t == tyE2M3 then 24 else if t == tyE2M1 then 16 else if t == tyKX3 then 12
  else if t == tyKT2 then 7 else 32

/-- Exponent and fraction widths of an MX element format, with the code of its largest finite value. -/
def miniFmt (t : Nat) : FFmt :=
  if t == tyE4M3 then ⟨4, 3⟩ else if t == tyE5M2 then ⟨5, 2⟩ else if t == tyE3M2 then ⟨3, 2⟩
  else if t == tyE2M3 then ⟨2, 3⟩ else ⟨2, 1⟩

/-- The code of the largest finite magnitude (element-format table). -/
def miniMax (t : Nat) : Nat :=
  if t == tyE4M3 then 0x7E else if t == tyE5M2 then 0x7B else if t == tyE3M2 then 0x1F
  else if t == tyE2M3 then 0x1F else if t == tyE2M1 then 7 else if t == tyMXINT8 then 127
  else if t == tyKX3 then 3 else 2

/-- emax of R47, and of R56 for KX3 and KT2. -/
def tyEmax (t : Nat) : Int :=
  if t == tyE4M3 then 8 else if t == tyE5M2 then 15 else if t == tyE3M2 then 4
  else if t == tyE2M3 || t == tyE2M1 then 2 else if t == tyKX3 then 1 else 0

/-- Element values are integers in units of 2^unit: the smallest non-zero magnitude of the format. KX3 and KT2 count as
E2M1, which they are expanded to. -/
def tyUnit (t : Nat) : Int :=
  if t == tyE4M3 then -9 else if t == tyE5M2 then -16 else if t == tyE3M2 then -4 else if t == tyE2M3 then -3
  else if t == tyMXINT8 then -6 else -1

/-- The largest finite magnitude in those units. -/
def tyMaxInt (t : Nat) : Nat :=
  if t == tyE4M3 then 448 * 512 else if t == tyE5M2 then 57344 * 65536 else if t == tyE3M2 then 28 * 16
  else if t == tyE2M3 then 60 else if t == tyMXINT8 then 127 else 12

/-- The magnitude of a minifloat code without its sign, in units of the smallest subnormal. -/
def miniMag (f : FFmt) (c : Nat) : Nat :=
  let ex := c >>> f.mbits
  let fr := c % 2 ^ f.mbits
  if ex == 0 then fr else (2 ^ f.mbits + fr) <<< (ex - 1)

/-- An element code of a blocked type as an integer in units of 2^(tyUnit), and whether it was a special code that
R50 replaces. KT2 codes are base-3 digits. -/
def elemInt (t c : Nat) : Int × Bool :=
  if t == tyMXINT8 then (signed 8 c, false)
  else if t == tyKX3 then
    let m : Int := match c % 4 with | 0 => 0 | 1 => 1 | 2 => 2 | _ => 4
    ((if c ≥ 4 then -m else m), false)
  else if t == tyKT2 then (2 * ((c : Int) - 1), false)
  else
    let f := miniFmt t
    let neg := bit c (f.ebits + f.mbits)
    let mag := c % 2 ^ (f.ebits + f.mbits)
    let sgn (b : Bool) (v : Nat) : Int := if b then -(v : Int) else v
    -- NaN and infinity codes of E4M3 and E5M2 (R50)
    if mag > miniMax t then (sgn (neg && t == tyE5M2 && mag == 0x7C) (tyMaxInt t), true)
    else (sgn neg (miniMag f mag), false)

/-- The format controls that a macro-op has latched (R71). -/
structure FmtCtl where
  zbWrite : Bool
  zbRead : Bool
  skipZero : Bool
  deriving DecidableEq, Repr

/-- From the value of RGN_FMT_CTRL. -/
def fmtCtl (v : Nat) : FmtCtl := ⟨bit v 0, bit v 1, bit v 2⟩

/-- An element of a block under its scale code: integer in units of 2^(tyUnit), scale exponent, special flag
(R44, R50, R51). -/
def blockElem (c : FmtCtl) (t scale code : Nat) : Int × Int × Bool :=
  if scale == 0xFF then
    if c.zbRead then ((tyMaxIntOwn t : Int), 127, true) else (0, 0, false)
  else
    let r := elemInt t code
    (r.1, (scale : Int) - 127, r.2)
where
  /-- the largest finite value of the stored format in the same units: KX3 holds at most 2 and KT2 1 (R51) -/
  tyMaxIntOwn (t : Nat) : Nat := if t == tyKX3 then 4 else if t == tyKT2 then 2 else tyMaxInt t

/-- The value of a block element. A stored -0 reads as 0 (R52). -/
def blockVal (c : FmtCtl) (t scale code : Nat) : Num × Bool :=
  let r := blockElem c t scale code
  ((if r.1 == 0 then Num.zero else Num.ofSig r.1 (tyUnit t + r.2.1)), r.2.2)

/-- The value of a scalar element. -/
def scalarVal (t code : Nat) : Num :=
  if t == tyFP32 then FFmt.fp32.decode code else if t == tyBF16 then FFmt.bf16.decode code
  else if t == tyFP16 then FFmt.fp16.decode code
  else if t == tyINT32 then .ofInt (signed 32 code) else if t == tyINT8 then .ofInt (signed 8 code)
  else .ofInt code

/-- A value written to a scalar type by the conversions table: code, saturated (R602), NaN converted to an integer. -/
def scalarCode (t : Nat) (v : Num) : Nat × Bool × Bool :=
  if t == tyFP32 then let r := FFmt.fp32.encode true v; (r.1, r.2, false)
  else if t == tyBF16 then let r := FFmt.bf16.encode true v; (r.1, r.2, false)
  else if t == tyFP16 then let r := FFmt.fp16.encode true v; (r.1, r.2, false)
  else if t == tyINT32 then let r := toInt (-(2 ^ 31)) (2 ^ 31 - 1) v; (unsigned 32 r.1, r.2.1, r.2.2)
  else if t == tyINT8 then let r := toInt (-128) 127 v; (unsigned 8 r.1, r.2.1, r.2.2)
  else let r := toInt 0 255 v; (unsigned 8 r.1, r.2.1, r.2.2)

/-- The magnitude m * 2^e rounded to a minifloat, ties to even, saturating (R47). -/
def miniRound (t : Nat) (m : Nat) (e : Int) : Nat :=
  if m == 0 then 0
  else
    let f := miniFmt t
    let q := Max.max (e + (Nat.log2 m : Int) - (f.mbits : Int)) f.qmin
    Nat.min (((q - f.qmin).toNat <<< f.mbits) + roundAt m e q) (miniMax t)

/-- A finite value under the scale 2^x as an element code; every zero is the code of 0 (R45, R47, R49, R53, R54, R56). -/
def elemCode (t : Nat) (x : Int) (v : Num) : Nat :=
  match v with
  | .num neg m e =>
    let e := e - x
    if t == tyMXINT8 then
      let r := Nat.min (roundAt m e (-6)) 127
      unsigned 8 (if neg then -(r : Int) else r)
    else if t == tyKX3 then
      -- nearest of 0, 0.5, 1, 2; a tie goes to the even magnitude code
      let h : Num := .num false m e
      let le (a b : Num) : Bool := a.le b
      let mag := if le h (.num false 1 (-2)) then 0 else if h.lt (.num false 3 (-2)) then 1
        else if le h (.num false 3 (-1)) then 2 else 3
      if mag == 0 then 0 else mag + (if neg then 4 else 0)
    else if t == tyKT2 then
      let h : Num := .num false m e
      if h.le (.num false 1 (-1)) then 1 else if neg then 0 else 2
    else
      let c := miniRound t m e
      if c == 0 then 0 else c + (if neg then 2 ^ ((miniFmt t).ebits + (miniFmt t).mbits) else 0)
  | .inf neg =>
    if t == tyMXINT8 then (if neg then unsigned 8 (-127) else 127)
    else if t == tyKX3 then (if neg then 7 else 3)
    else if t == tyKT2 then (if neg then 0 else 2)
    else miniMax t + (if neg then 2 ^ ((miniFmt t).ebits + (miniFmt t).mbits) else 0)
  | .nan => if t == tyKX3 then 3 else if t == tyKT2 then 2 else miniMax t

/-- The code that stands for 0 (R45). -/
def zeroCode (t : Nat) : Nat := if t == tyKT2 then 1 else 0

/-- The larger magnitude of two finite values. -/
def maxMag (a b : Num) : Num := if a.abs.lt b.abs then b.abs else a.abs

/-- A block of in-bounds values converted: scale code, codes, saturated (R45, R47, R48, R56). -/
def encodeBlock (c : FmtCtl) (t : Nat) (vs : List Num) : Nat × List Nat × Bool :=
  let bad := vs.any fun v => !v.finite
  let amax := (vs.filter Num.finite).foldl maxMag Num.zero
  let zero := ((if c.zbWrite then 0 else 0xFF), vs.map fun _ => zeroCode t, false)
  if bad then (0xFE, vs.map (elemCode t 127), true)
  else if amax.isZero then zero
  else
    let x := Max.max (amax.log2 - tyEmax t) (-127)
    if x > 127 then (0xFE, vs.map (elemCode t 127), true)
    else
      let codes := vs.map (elemCode t x)
      if codes.all (· == zeroCode t) then zero else ((x + 127).toNat, codes, false)

/-- Base-3 digits of the KT2 elements of a block, five to a byte; missing digits are 1 (R54). -/
def packKt2 : Nat → List Nat → Bytes
  | 0, _ => []
  | n + 1, cs =>
    let d (i : Nat) : Nat := nth cs i 1
    BitVec.ofNat 8 (d 0 + 3 * d 1 + 9 * d 2 + 27 * d 3 + 81 * d 4) :: packKt2 n (cs.drop 5)

/-- The element bytes of a whole block, the elements beyond `cs` being the code of 0 (R42, R43, R53, R54). -/
def packBlock (t : Nat) (cs : List Nat) : Bytes :=
  if t == tyKT2 then packKt2 7 (cs ++ List.replicate (32 - cs.length) 1)
  else
    let w := if t == tyE2M1 then 4 else if t == tyE3M2 || t == tyE2M3 then 6 else if t == tyKX3 then 3 else 8
    natLe (blockBytes t) (packFields w (cs ++ List.replicate (32 - cs.length) 0))

/-- Element `i` of the bytes of a block, and whether it lies in an invalid KT2 byte (R55). -/
def blockCode (t : Nat) (bs : Bytes) (i : Nat) : Nat × Bool :=
  if t == tyKT2 then
    let b := (nth bs (i / 5) 121).toNat
    if b ≥ 243 then (1, true) else (b / 3 ^ (i % 5) % 3, false)
  else if t == tyE2M1 then (bits (nth bs (i / 2) 0).toNat (4 * (i % 2) + 3) (4 * (i % 2)), false)
  else if t == tyE3M2 || t == tyE2M3 then (fld bs (3 * (i / 4)) 3 >>> (6 * (i % 4)) % 64, false)
  else if t == tyKX3 then (fld bs (3 * (i / 8)) 3 >>> (3 * (i % 8)) % 8, false)
  else ((nth bs i 0).toNat, false)

/-- The pairings of the table of R59. -/
def pairingOk (a b : Nat) : Bool :=
  let mxB := tyMx b || b == tyKX3 || b == tyKT2
  if tyMx a then mxB
  else if a == tyINT8 || a == tyUINT8 then b == tyINT8 || b == tyUINT8
  else (a == tyBF16 && b == tyBF16) || (a == tyFP16 && b == tyFP16)

/-- MAC per unit per cycle of a pairing (R59). -/
def pairingRate (a b : Nat) : Nat :=
  if a == tyBF16 || a == tyFP16 then 256
  else if a == tyE2M1 && (b == tyE2M1 || b == tyKX3 || b == tyKT2) then 1024
  else 512

/-- The K chunk of a pairing (R13). -/
def kChunk (a b : Nat) : Nat := pairingRate a b / 2

end Sys2Proof.Machine
end

