-- ==== Sys2Proof/Config.lean ====
section
/-! DEFINITION. The module's fixed sizes, and the values that the spec leaves open as constants without a body: no proof
can see what they are. -/

namespace Sys2Proof.Config

/-! Sizes (R8, R10, R29, R467). -/
abbrev numRegions : Nat := 48
abbrev numDies : Nat := 12
abbrev numClusters : Nat := 576
abbrev numUnits : Nat := 9216
abbrev numPartitions : Nat := 16
abbrev numSessions : Nat := 16
abbrev numTallies : Nat := 16384
abbrev numContexts : Nat := 65536

/-- Large and small pages (R265). -/
abbrev pageLarge : Nat := 0x200000
abbrev pageSmall : Nat := 0x10000

/-- An open value: the first number says which use of the machine's counter, the second which value of that use. -/
opaque free : Nat → Nat → Nat

/-- Which frame of those that the pool keeps for its tables holds a table (R265, R270): space, level, index. -/
opaque tableFrame : Nat → Nat → Nat → Nat

/-- Bytes of working space that a macro-op's halos, partials and keys need in a cluster store (R233): opcode, macro-op, cluster. The spec gives no
formula for it. -/
opaque workBytes : Nat → Nat → Nat → Nat

/-- The header of the fixed special-function image (R196), whose layout the spec does not give: byte `i` of the image that the firmware of a body
hash carries. -/
opaque fixedHeader : Bytes → Nat → Byte

/-- Its segment entries as the firmware carries them: segment 0-159 of EXP2, LOG2, RCP and RSQRT in turn, coefficient 0-3. -/
opaque fixedRaw : Bytes → Nat → Nat → W32

/-- The identity public key (R558), derived from the device secret. -/
opaque identityKey : Bytes

/-- The boot ROM's own fixed digest (R565). -/
opaque romDigest : Bytes

/-- Public keys of the boot ROM: 0-3 the firmware keys (R552), 4 the factory key, 5 the service key (R559), 6 the key that
signs tokens (R561). -/
opaque romKey : Nat → Bytes

/-- ML-DSA-87 verification with the empty context (FIPS 204): key, message, signature. -/
opaque verify : Bytes → Bytes → Bytes → Bool

/-- ML-DSA-87 signature by the identity key: 4,627 bytes. -/
opaque identitySign : Bytes → Bytes

/-- SHA3-512 of the life-cycle record, whose layout is not given (R565): byte `i`, from its counter, state, tamper count and owner key. -/
opaque lifeDigest : Nat → Nat → Nat → Bytes → Nat → Byte

/-- KMAC256 under the device key (R555): byte `i` of the code of a message. -/
opaque kmac : Bytes → Nat → Byte

/-- The identity key of a reply is written as 4,627 bytes whatever the opaque signature is. -/
abbrev sigBytes : Nat := 4627

/-- Where USER's result lies within the last places that R187 leaves to the unit, from the input code. -/
opaque sfnRaw : W32 → W32

/-- What decoding a segment finds (R402-R404, R414-R422): from the codec and the state that its context keeps, the bytes of the segment at hand, the
question and a picture's or frame's number. The standards that the spec names give the answers. -/
opaque vdecFact : List Nat → Bytes → Nat → Nat → Nat

/-- A decoded sample: frame, plane (0 luma, 1 Cb, 2 Cr), column, row. -/
opaque vdecSample : List Nat → Bytes → Nat → Nat → Nat → Nat → Nat

/-- What a stream context keeps once its reference pictures are discarded and its parameter sets are not (R412). -/
opaque vdecNoRefs : Nat → Nat

/-- What encoding a frame gives (R404, R426-R431): from the coding fields of the record, what the encoder sees of the frame and the region table,
the question, a frame and a byte. -/
opaque vencFact : Bytes → List (List Nat) → Bytes → Nat → Nat → Nat → Nat

/-- The motion vector that an encoder chooses (R428): from what it sees of a block and its windows, the reference and the axis. -/
opaque vencVector : List Nat → Nat → Nat → Nat

/-- A sample of the reconstruction of the last frame of a bitstream: its frames' bytes, plane, column, row (R404, R428). -/
opaque vencRecon : List Bytes → Nat → Nat → Nat → Nat

/-- The rounding of bilinear interpolation, whose order of steps is not given (R440): four samples and the fractions across and down. -/
opaque bilinear : Nat → Nat → Nat → Nat → W32 → W32 → W32

end Sys2Proof.Config
end

