-- ==== Sys2Proof/Machine/Regs.lean ====
section
/-! DEFINITION. The register table of every page: offsets, fields, access codes and reset values, as the register
tables of the chapters give them (R6, R570-R577). -/

namespace Sys2Proof.Machine

/-- Access codes (R6). -/
inductive Acc where
  | ro | rw | wo | w1c | rc | rwl | rws
  deriving DecidableEq, Repr

/-- What a field holds after a warm reset (R575): a number, or what it held before. "current" fields keep their last
reading until the next one. -/
inductive Warm where
  | val (n : Nat)
  | keep
  deriving DecidableEq, Repr

/-- A field of a register. -/
structure Fld where
  hi : Nat
  lo : Nat
  acc : Acc
  cold : Nat
  warm : Warm
  deriving DecidableEq, Repr

/-- A run of `count` like registers at `off`, `off` + 8, ... on each of `pages` pages from `first`. -/
structure RegDesc where
  first : Nat
  pages : Nat
  off : Nat
  count : Nat
  flds : List Fld
  deriving DecidableEq, Repr

/-- A counter: one RC field of 64 bits (R72). -/
def counterFld : List Fld := [⟨63, 0, .rc, 0, .val 0⟩]

/-! First pages of the directory (R576). -/
abbrev pgMOD : Nat := 0x0010
abbrev pgCLK : Nat := 0x0011
abbrev pgDEP : Nat := 0x0012
abbrev pgTHM : Nat := 0x0013
abbrev pgSEC : Nat := 0x0014
abbrev pgCAL : Nat := 0x0015
abbrev pgSCH : Nat := 0x0016
abbrev pgHPT : Nat := 0x0020
abbrev pgIVT : Nat := 0x0021
abbrev pgLNK : Nat := 0x0028
abbrev pgRTR : Nat := 0x002E
abbrev pgDIE : Nat := 0x0030
abbrev pgRGN : Nat := 0x0040
abbrev pgHBM : Nat := 0x0070
abbrev pgFLS : Nat := 0x0080
abbrev pgPOL : Nat := 0x0088
abbrev pgVDC : Nat := 0x0090
abbrev pgVEN : Nat := 0x0092
abbrev pgINP : Nat := 0x0098
abbrev pgDBG : Nat := 0x00F0
abbrev pgTAL : Nat := 0x0100
abbrev pgDIR : Nat := 0x0000
abbrev pgSFT : Nat := 0x0200

/-! Offsets. -/
abbrev oMOD_RESET_REFUSED : Nat := 0x040
abbrev oMOD_WARM_RESETS : Nat := 0x080
abbrev oMOD_PART_RESETS : Nat := 0x088
abbrev oMOD_BLOCK_RESETS : Nat := 0x090
abbrev oMOD_RESET : Nat := 0x100
abbrev oMOD_RESET_STAT : Nat := 0x108
abbrev oMOD_INFO : Nat := 0x110
abbrev oMOD_SERIAL : Nat := 0x118
abbrev oMOD_SLOT : Nat := 0x120
abbrev oMOD_TIME : Nat := 0x128
abbrev oMOD_ALERT : Nat := 0x130
abbrev oCLK_REF_LOSSES : Nat := 0x040
abbrev oCLK_CTRL : Nat := 0x100
abbrev oCLK_STAT : Nat := 0x108
abbrev oDEP_CLAMP_US : Nat := 0x040
abbrev oDEP_GRANTS : Nat := 0x080
abbrev oDEP_PARTIALS : Nat := 0x088
abbrev oDEP_WAIT_US : Nat := 0x090
abbrev oDEP_ENVELOPE : Nat := 0x100
abbrev oDEP_CTRL : Nat := 0x108
abbrev oDEP_STAT : Nat := 0x110
abbrev oDEP_DRAW : Nat := 0x118
abbrev oDEP_EST_RGN : Nat := 0x200
abbrev oDEP_EST_MOD : Nat := 0x280
abbrev oTHM_TRIPS : Nat := 0x040
abbrev oTHM_STRETCH_US : Nat := 0x080
abbrev oTHM_CTRL : Nat := 0x100
abbrev oTHM_STAT : Nat := 0x108
abbrev oTHM_COOLANT : Nat := 0x110
abbrev oTHM_DIE : Nat := 0x200
abbrev oSEC_BOOT_FAILS : Nat := 0x040
abbrev oSEC_CMD_FAILS : Nat := 0x048
abbrev oSEC_CTRL : Nat := 0x100
abbrev oSEC_STAT : Nat := 0x108
abbrev oSEC_CMD : Nat := 0x110
abbrev oSEC_CMD_STAT : Nat := 0x118
abbrev oSEC_SRC : Nat := 0x120
abbrev oSEC_KEY : Nat := 0x200
abbrev oSEC_STAGE : Nat := 0x400
abbrev oCAL_KAT_FAILS : Nat := 0x040
abbrev oCAL_SELFCALS : Nat := 0x080
abbrev oCAL_CMD : Nat := 0x100
abbrev oCAL_STAT : Nat := 0x108
abbrev oCAL_SRC : Nat := 0x110
abbrev oCAL_FENCED : Nat := 0x118
abbrev oSCH_SAVE_FULL : Nat := 0x040
abbrev oSCH_ADMITS : Nat := 0x080
abbrev oSCH_PREEMPTS : Nat := 0x088
abbrev oSCH_RESTORES : Nat := 0x090
abbrev oSCH_SAVE_BYTES : Nat := 0x098
abbrev oSCH_SESS : Nat := 0x100
abbrev oSCH_PART : Nat := 0x180
abbrev oSCH_TALLY : Nat := 0x200
abbrev oSCH_PART_STAT : Nat := 0x280
abbrev oSCH_RGN : Nat := 0x300
abbrev oSCH_LAST_PREEMPT : Nat := 0x480
abbrev oHPT_FEC_UNCORR : Nat := 0x040
abbrev oHPT_RX_DROPS : Nat := 0x048
abbrev oHPT_MACSEC_DROPS : Nat := 0x050
abbrev oHPT_FEC_CORR : Nat := 0x080
abbrev oHPT_RX_FRAMES : Nat := 0x088
abbrev oHPT_TX_FRAMES : Nat := 0x090
abbrev oHPT_PFC_RX : Nat := 0x098
abbrev oHPT_PFC_TX : Nat := 0x0A0
abbrev oHPT_CTRL : Nat := 0x100
abbrev oHPT_STAT : Nat := 0x108
abbrev oHPT_MAC : Nat := 0x110
abbrev oHPT_VLAN : Nat := 0x118
abbrev oHPT_IPV4 : Nat := 0x120
abbrev oHPT_IPV6 : Nat := 0x128
abbrev oIVT_ADDR_ERR : Nat := 0x040
abbrev oIVT_BAD_FRAMES : Nat := 0x048
abbrev oIVT_AUTH_FAILS : Nat := 0x050
abbrev oIVT_EVENTS_LOST : Nat := 0x058
abbrev oIVT_RETX : Nat := 0x080
abbrev oIVT_RX_BYTES : Nat := 0x088
abbrev oIVT_TX_BYTES : Nat := 0x090
abbrev oIVT_CTRL : Nat := 0x100
abbrev oIVT_SUB : Nat := 0x200
abbrev oIVT_SESS : Nat := 0x280
abbrev oLNK_FEC_CORR : Nat := 0x040
abbrev oLNK_RETRY : Nat := 0x048
abbrev oLNK_BELL_RETRY : Nat := 0x050
abbrev oLNK_TX_BYTES : Nat := 0x080
abbrev oLNK_RX_BYTES : Nat := 0x088
abbrev oLNK_BELL_MSGS : Nat := 0x090
abbrev oLNK_CTRL : Nat := 0x100
abbrev oLNK_STAT : Nat := 0x108
abbrev oLNK_PEER : Nat := 0x110
abbrev oRTR_TAG_DROPS : Nat := 0x040
abbrev oRTR_COLL_TIMEOUTS : Nat := 0x048
abbrev oRTR_HAUL_TIMEOUTS : Nat := 0x070
abbrev oRTR_HAUL_STRAY : Nat := 0x078
abbrev oRTR_COLLS : Nat := 0x080
abbrev oRTR_RED_CLAIMS : Nat := 0x088
abbrev oRTR_RED_QUEUED : Nat := 0x090
abbrev oRTR_RED_FALLBACKS : Nat := 0x098
abbrev oRTR_BELL_OPS : Nat := 0x0A0
abbrev oRTR_TUB_SENT : Nat := 0x0D0
abbrev oRTR_TUB_FWD : Nat := 0x0D8
abbrev oRTR_TUB_RECV : Nat := 0x0E0
abbrev oRTR_TUB_DROPPED : Nat := 0x0E8
abbrev oRTR_HAULS : Nat := 0x0F0
abbrev oRTR_COORD : Nat := 0x100
abbrev oRTR_PLANE : Nat := 0x108
abbrev oRTR_RED_CTRL : Nat := 0x110
abbrev oRTR_RED_STAT : Nat := 0x118
abbrev oRTR_SLICE : Nat := 0x200
abbrev oRTR_HAUL_CTRL : Nat := 0x600
abbrev oRTR_HAUL_LAST : Nat := 0x608
abbrev oRTR_HAUL_STAT : Nat := 0x610
abbrev oDIE_ADDR_ERR : Nat := 0x040
abbrev oDIE_D2D_RETRY : Nat := 0x048
abbrev oDIE_D2D_TX_BYTES : Nat := 0x080
abbrev oDIE_D2D_RX_BYTES : Nat := 0x088
abbrev oDIE_GROUPS : Nat := 0x090
abbrev oDIE_STEALS : Nat := 0x098
abbrev oRGN_SAT_BLOCKS : Nat := 0x040
abbrev oRGN_SPILLS : Nat := 0x048
abbrev oRGN_SPECIAL_IN : Nat := 0x050
abbrev oRGN_BAD_CODE : Nat := 0x058
abbrev oRGN_CANARY_TRIPS : Nat := 0x060
abbrev oRGN_FALLBACKS : Nat := 0x068
abbrev oRGN_REPAINTS : Nat := 0x070
abbrev oRGN_GRAD_TRIPS : Nat := 0x078
abbrev oRGN_ZERO_SKIPS : Nat := 0x080
abbrev oRGN_TOUCHUP_PRODUCTS : Nat := 0x088
abbrev oRGN_LAYERS_CHECKED : Nat := 0x090
abbrev oRGN_TILES : Nat := 0x098
abbrev oRGN_TILES_FOREIGN : Nat := 0x0A0
abbrev oRGN_CATCH_HITS : Nat := 0x0A8
abbrev oRGN_CATCH_MISSES : Nat := 0x0B0
abbrev oRGN_EDGE_TILES : Nat := 0x0B8
abbrev oRGN_MACROOPS : Nat := 0x0C0
abbrev oRGN_EMPTY_OPS : Nat := 0x0C8
abbrev oRGN_REFUSALS : Nat := 0x0D0
abbrev oRGN_ARRAY_CYCLES : Nat := 0x0D8
abbrev oRGN_SKIP_CYCLES : Nat := 0x0E0
abbrev oRGN_VEC_BEATS : Nat := 0x0E8
abbrev oRGN_VEC_WAITS : Nat := 0x0F0
abbrev oRGN_CHAINS : Nat := 0x0F8
abbrev oRGN_FMT_CTRL : Nat := 0x300
abbrev oRGN_CANARY_CTRL : Nat := 0x308
abbrev oRGN_CANARY_BAND : Nat := 0x310
abbrev oRGN_CANARY_LIMITS : Nat := 0x318
abbrev oRGN_GRAD_BAND : Nat := 0x320
abbrev oRGN_SEQ_CTRL : Nat := 0x328
abbrev oRGN_LAST_REFUSAL : Nat := 0x330
abbrev oRGN_SFT_CTRL : Nat := 0x338
abbrev oRGN_SFT_ARM : Nat := 0x340
abbrev oRGN_SFT_STAT : Nat := 0x348
abbrev oRGN_SF_RESULTS : Nat := 0x350
abbrev oRGN_SF_FLUSHES : Nat := 0x358
abbrev oRGN_SFT_SWAPS : Nat := 0x360
abbrev oRGN_SFT_ECC : Nat := 0x368
abbrev oRGN_MEM_CTRL : Nat := 0x370
abbrev oRGN_MEM_STAT : Nat := 0x378
abbrev oRGN_BANK_WAITS : Nat := 0x380
abbrev oRGN_WW_CONFLICTS : Nat := 0x388
abbrev oRGN_ATOMICS : Nat := 0x390
abbrev oRGN_ECC_CORR : Nat := 0x398
abbrev oRGN_ECC_UNCORR : Nat := 0x3A0
abbrev oRGN_REPAIRS : Nat := 0x3A8
abbrev oRGN_TEST_PASSES : Nat := 0x3B0
abbrev oRGN_ATTN_CHUNKS : Nat := 0x3B8
abbrev oRGN_ATTN_MASKED : Nat := 0x3C0
abbrev oRGN_ATTN_SLOTS : Nat := 0x3C8
abbrev oRGN_ATTN_VACANT : Nat := 0x3D0
abbrev oRGN_ATTN_BAD_SLOT : Nat := 0x3D8
abbrev oRGN_HALO_BYTES : Nat := 0x3E0
abbrev oRGN_SIDE_BYTES : Nat := 0x3E8
abbrev oRGN_FMAP_BLOCKS : Nat := 0x3F0
abbrev oRGN_DET_CANDS : Nat := 0x3F8
abbrev oRGN_DET_KEPT : Nat := 0x400
abbrev oRGN_DET_OVERFLOW : Nat := 0x408
abbrev oRGN_DET_BADBOX : Nat := 0x410
abbrev oHBM_CORR : Nat := 0x040
abbrev oHBM_UNCORR : Nat := 0x048
abbrev oHBM_RETRY : Nat := 0x050
abbrev oHBM_RD_BYTES : Nat := 0x080
abbrev oHBM_WR_BYTES : Nat := 0x088
abbrev oHBM_NARROW : Nat := 0x090
abbrev oHBM_THROTTLE_US : Nat := 0x098
abbrev oHBM_CTRL : Nat := 0x100
abbrev oHBM_STAT : Nat := 0x108
abbrev oFLS_READ_RETRY : Nat := 0x040
abbrev oFLS_READ_FAIL : Nat := 0x048
abbrev oFLS_LATE : Nat := 0x050
abbrev oFLS_RD_BYTES : Nat := 0x080
abbrev oFLS_WR_BYTES : Nat := 0x088
abbrev oFLS_CTRL : Nat := 0x100
abbrev oFLS_STAT : Nat := 0x108
abbrev oFLS_IMG_CFG : Nat := 0x110
abbrev oPOL_TIER_FAILS : Nat := 0x040
abbrev oPOL_WALKS : Nat := 0x080
abbrev oPOL_TC_MISSES : Nat := 0x088
abbrev oPOL_EVICTIONS : Nat := 0x090
abbrev oPOL_PROMOTIONS : Nat := 0x098
abbrev oPOL_SHOOTDOWNS : Nat := 0x0A0
abbrev oPOL_CTX_OPENS : Nat := 0x0A8
abbrev oPOL_CTRL : Nat := 0x100
abbrev oPOL_CAP : Nat := 0x108
abbrev oPOL_CTX_SEL : Nat := 0x110
abbrev oPOL_CTX_INFO : Nat := 0x118
abbrev oPOL_CTX_LEN : Nat := 0x120
abbrev oPOL_QUOTA : Nat := 0x200
abbrev oPOL_USE : Nat := 0x280
abbrev oVDC_ERR_SYNTAX : Nat := 0x040
abbrev oVDC_ERR_UNSUP : Nat := 0x048
abbrev oVDC_ERR_REF : Nat := 0x050
abbrev oVDC_ERR_TRUNC : Nat := 0x058
abbrev oVDC_ERR_TIMEOUT : Nat := 0x060
abbrev oVDC_SEGMENTS : Nat := 0x080
abbrev oVDC_PICTURES : Nat := 0x088
abbrev oVDC_SAMPLES : Nat := 0x090
abbrev oVDC_BINS : Nat := 0x098
abbrev oVDC_SYNTAX_WAIT : Nat := 0x0A0
abbrev oVDC_CTRL : Nat := 0x100
abbrev oVDC_STAT : Nat := 0x108
abbrev oVDC_CTX_SEL : Nat := 0x110
abbrev oVDC_CTX_INFO : Nat := 0x118
abbrev oVEN_REENCODES : Nat := 0x040
abbrev oVEN_INPUT_CLAMPS : Nat := 0x048
abbrev oVEN_FRAMES : Nat := 0x080
abbrev oVEN_SAMPLES : Nat := 0x088
abbrev oVEN_BYTES : Nat := 0x090
abbrev oVEN_STAT : Nat := 0x108
abbrev oINP_LATE : Nat := 0x040
abbrev oINP_CORRUPT : Nat := 0x048
abbrev oINP_DROPPED : Nat := 0x050
abbrev oINP_PREPARED : Nat := 0x080
abbrev oINP_PIXELS : Nat := 0x088
abbrev oINP_STEPS : Nat := 0x090
abbrev oINP_JOINS : Nat := 0x098
abbrev oINP_REFILLS : Nat := 0x0A0
abbrev oINP_VACANT : Nat := 0x0A8
abbrev oINP_CTRL : Nat := 0x100
abbrev oINP_MEAN_INIT : Nat := 0x108
abbrev oINP_STAT : Nat := 0x110
abbrev oINP_MEAN : Nat := 0x200
abbrev oDBG_TRACE_DROPS : Nat := 0x040
abbrev oDBG_TRACE_RECORDS : Nat := 0x080
abbrev oDBG_WIN_ACCESSES : Nat := 0x088
abbrev oDBG_CTRL : Nat := 0x100
abbrev oDBG_TRACE_BASE : Nat := 0x108
abbrev oDBG_TRACE_SIZE : Nat := 0x110
abbrev oDBG_TRACE_WR : Nat := 0x118
abbrev oDBG_STAT : Nat := 0x120
abbrev oDBG_HALT : Nat := 0x128
abbrev oDBG_HALTED : Nat := 0x130
abbrev oDBG_WIN_ADDR : Nat := 0x138
abbrev oDBG_WIN_DATA : Nat := 0x140
abbrev oTAL_PAIR : Nat := 0x100
abbrev oTAL_ADD : Nat := 0x900
abbrev oDIR_COUNT : Nat := 0x100
abbrev oDIR_ENTRY : Nat := 0x200
abbrev oPAGE_ID : Nat := 0x000
abbrev oPAGE_CAP : Nat := 0x008
abbrev oPAGE_CTRL : Nat := 0x010
abbrev oPAGE_STAT : Nat := 0x018
abbrev oEVT_RAW : Nat := 0x020
abbrev oEVT_MASK : Nat := 0x028
abbrev oEVT_CLR : Nat := 0x030
abbrev oEVT_COUNT : Nat := 0x038

/-- Registers of the MOD pages. -/
def regsMOD : List RegDesc := [
  ⟨0x0010, 1, oMOD_RESET_REFUSED, 1, counterFld⟩,
  ⟨0x0010, 1, oMOD_WARM_RESETS, 1, [⟨63, 0, .rc, 0, .keep⟩]⟩,
  ⟨0x0010, 1, oMOD_PART_RESETS, 1, counterFld⟩,
  ⟨0x0010, 1, oMOD_BLOCK_RESETS, 1, counterFld⟩,
  ⟨0x0010, 1, oMOD_RESET, 1, [⟨63, 56, .wo, 0, .val 0⟩, ⟨51, 48, .wo, 0, .val 0⟩, ⟨47, 32, .wo, 0, .val 0⟩, ⟨15, 0, .wo, 0, .val 0⟩]⟩,
  ⟨0x0010, 1, oMOD_RESET_STAT, 1, [⟨63, 63, .ro, 0, .val 0⟩, ⟨55, 48, .ro, 0, .val 0⟩, ⟨7, 0, .ro, 0, .val 0⟩]⟩,
  ⟨0x0010, 1, oMOD_INFO, 1, [⟨56, 56, .ro, 0, .keep⟩, ⟨47, 32, .ro, 0, .keep⟩, ⟨31, 0, .ro, 0, .keep⟩]⟩,
  ⟨0x0010, 1, oMOD_SERIAL, 1, [⟨63, 0, .ro, 0, .keep⟩]⟩,
  ⟨0x0010, 1, oMOD_SLOT, 1, [⟨3, 0, .ro, 0, .keep⟩]⟩,
  ⟨0x0010, 1, oMOD_TIME, 1, [⟨63, 0, .ro, 0, .keep⟩]⟩,
  ⟨0x0010, 1, oMOD_ALERT, 1, [⟨63, 63, .ro, 1, .keep⟩, ⟨3, 3, .ro, 0, .keep⟩, ⟨2, 2, .ro, 0, .keep⟩, ⟨1, 1, .ro, 0, .val 0⟩, ⟨0, 0, .ro, 1, .keep⟩]⟩]

/-- Registers of the CLK pages. -/
def regsCLK : List RegDesc := [
  ⟨0x0011, 1, oCLK_REF_LOSSES, 1, counterFld⟩,
  ⟨0x0011, 1, oCLK_CTRL, 1, [⟨13, 8, .rws, 30, .keep⟩, ⟨3, 0, .rws, 0, .keep⟩]⟩,
  ⟨0x0011, 1, oCLK_STAT, 1, [⟨12, 8, .ro, 12, .keep⟩, ⟨3, 3, .ro, 0, .keep⟩, ⟨2, 2, .ro, 0, .keep⟩, ⟨1, 1, .ro, 0, .keep⟩, ⟨0, 0, .ro, 0, .val 0⟩]⟩]

/-- Registers of the DEP pages. -/
def regsDEP : List RegDesc := [
  ⟨0x0012, 1, oDEP_CLAMP_US, 1, counterFld⟩,
  ⟨0x0012, 1, oDEP_GRANTS, 1, counterFld⟩,
  ⟨0x0012, 1, oDEP_PARTIALS, 1, counterFld⟩,
  ⟨0x0012, 1, oDEP_WAIT_US, 1, counterFld⟩,
  ⟨0x0012, 1, oDEP_ENVELOPE, 1, [⟨11, 0, .rws, 4000, .keep⟩]⟩,
  ⟨0x0012, 1, oDEP_CTRL, 1, [⟨47, 32, .rws, 400, .keep⟩, ⟨31, 0, .rws, 1000, .keep⟩]⟩,
  ⟨0x0012, 1, oDEP_STAT, 1, [⟨40, 40, .ro, 0, .keep⟩, ⟨39, 28, .ro, 80, .keep⟩, ⟨27, 16, .ro, 0, .val 0⟩, ⟨4, 4, .ro, 0, .val 0⟩]⟩,
  ⟨0x0012, 1, oDEP_DRAW, 1, [⟨63, 48, .ro, 0, .keep⟩, ⟨47, 32, .ro, 0, .keep⟩, ⟨31, 16, .ro, 0, .val 0⟩, ⟨15, 0, .ro, 0, .keep⟩]⟩,
  ⟨0x0012, 1, oDEP_EST_RGN, 16, [⟨31, 0, .rws, 0, .keep⟩]⟩,
  ⟨0x0012, 1, oDEP_EST_MOD, 16, [⟨31, 0, .rws, 0, .keep⟩]⟩]

/-- Registers of the THM pages. -/
def regsTHM : List RegDesc := [
  ⟨0x0013, 1, oTHM_TRIPS, 1, counterFld⟩,
  ⟨0x0013, 1, oTHM_STRETCH_US, 1, counterFld⟩,
  ⟨0x0013, 1, oTHM_CTRL, 1, [⟨7, 0, .rws, 95, .keep⟩]⟩,
  ⟨0x0013, 1, oTHM_STAT, 1, [⟨13, 0, .ro, 0, .val 0⟩]⟩,
  ⟨0x0013, 1, oTHM_COOLANT, 1, [⟨15, 8, .ro, 0, .keep⟩, ⟨7, 0, .ro, 0, .keep⟩]⟩,
  ⟨0x0013, 1, oTHM_DIE, 14, [⟨28, 24, .ro, 16, .val 16⟩, ⟨20, 16, .ro, 16, .val 16⟩, ⟨12, 8, .ro, 16, .val 16⟩, ⟨7, 0, .ro, 0, .keep⟩]⟩]

/-- Registers of the SEC pages. -/
def regsSEC : List RegDesc := [
  ⟨0x0014, 1, oSEC_BOOT_FAILS, 1, counterFld⟩,
  ⟨0x0014, 1, oSEC_CMD_FAILS, 1, counterFld⟩,
  ⟨0x0014, 1, oSEC_CTRL, 1, [⟨0, 0, .rws, 1, .keep⟩]⟩,
  ⟨0x0014, 1, oSEC_STAT, 1, [⟨47, 40, .ro, 0, .keep⟩, ⟨39, 32, .ro, 0, .keep⟩, ⟨31, 24, .ro, 0, .keep⟩, ⟨23, 16, .ro, 0, .keep⟩, ⟨15, 12, .ro, 0, .keep⟩, ⟨7, 7, .ro, 0, .keep⟩, ⟨6, 6, .ro, 0, .keep⟩, ⟨5, 5, .ro, 0, .keep⟩, ⟨2, 0, .ro, 0, .keep⟩]⟩,
  ⟨0x0014, 1, oSEC_CMD, 1, [⟨63, 56, .rws, 0, .val 0⟩, ⟨55, 48, .rws, 0, .val 0⟩]⟩,
  ⟨0x0014, 1, oSEC_CMD_STAT, 1, [⟨63, 63, .ro, 0, .val 0⟩, ⟨55, 48, .ro, 0, .val 0⟩, ⟨7, 0, .ro, 0, .val 0⟩]⟩,
  ⟨0x0014, 1, oSEC_SRC, 1, [⟨63, 60, .rws, 0, .val 0⟩, ⟨59, 0, .rws, 0, .val 0⟩]⟩,
  ⟨0x0014, 1, oSEC_KEY, 16, [⟨63, 32, .ro, 0, .keep⟩, ⟨1, 0, .ro, 0, .keep⟩]⟩,
  ⟨0x0014, 1, oSEC_STAGE, 324, [⟨63, 0, .rws, 0, .val 0⟩]⟩]

/-- Registers of the CAL pages. -/
def regsCAL : List RegDesc := [
  ⟨0x0015, 1, oCAL_KAT_FAILS, 1, counterFld⟩,
  ⟨0x0015, 1, oCAL_SELFCALS, 1, counterFld⟩,
  ⟨0x0015, 1, oCAL_CMD, 1, [⟨63, 56, .rws, 0, .val 0⟩]⟩,
  ⟨0x0015, 1, oCAL_STAT, 1, [⟨63, 56, .ro, 0, .val 0⟩, ⟨48, 48, .ro, 0, .val 0⟩, ⟨41, 40, .ro, 0, .val 0⟩, ⟨37, 32, .ro, 0, .keep⟩, ⟨25, 24, .ro, 0, .keep⟩, ⟨1, 1, .ro, 0, .keep⟩, ⟨0, 0, .ro, 0, .keep⟩]⟩,
  ⟨0x0015, 1, oCAL_SRC, 1, [⟨63, 60, .rws, 0, .val 0⟩, ⟨59, 0, .rws, 0, .val 0⟩]⟩,
  ⟨0x0015, 1, oCAL_FENCED, 1, [⟨47, 0, .ro, 0, .keep⟩]⟩]

/-- Registers of the SCH pages. -/
def regsSCH : List RegDesc := [
  ⟨0x0016, 1, oSCH_SAVE_FULL, 1, counterFld⟩,
  ⟨0x0016, 1, oSCH_ADMITS, 1, counterFld⟩,
  ⟨0x0016, 1, oSCH_PREEMPTS, 1, counterFld⟩,
  ⟨0x0016, 1, oSCH_RESTORES, 1, counterFld⟩,
  ⟨0x0016, 1, oSCH_SAVE_BYTES, 1, counterFld⟩,
  ⟨0x0016, 1, oSCH_SESS, 16, [⟨8, 8, .ro, 0, .val 0⟩, ⟨2, 0, .rws, 0, .keep⟩]⟩,
  ⟨0x0016, 1, oSCH_PART, 16, [⟨63, 63, .rws, 0, .val 0⟩, ⟨59, 56, .rws, 0, .val 0⟩, ⟨47, 0, .rws, 0, .val 0⟩]⟩,
  ⟨0x0016, 1, oSCH_TALLY, 16, [⟨30, 16, .rws, 0, .val 0⟩, ⟨13, 0, .rws, 0, .val 0⟩]⟩,
  ⟨0x0016, 1, oSCH_PART_STAT, 16, [⟨61, 56, .ro, 0, .val 0⟩, ⟨55, 52, .ro, 0, .val 0⟩, ⟨47, 0, .ro, 0, .val 0⟩]⟩,
  ⟨0x0016, 1, oSCH_RGN, 48, [⟨27, 24, .ro, 0, .val 0⟩, ⟨23, 20, .ro, 0, .val 0⟩, ⟨19, 16, .ro, 0, .val 0⟩, ⟨15, 12, .ro, 0, .val 0⟩, ⟨9, 8, .ro, 0, .val 0⟩, ⟨4, 4, .ro, 0, .val 0⟩, ⟨3, 0, .ro, 0, .val 0⟩]⟩,
  ⟨0x0016, 1, oSCH_LAST_PREEMPT, 1, [⟨63, 48, .ro, 0, .val 0⟩, ⟨47, 0, .ro, 0, .val 0⟩]⟩]

/-- Registers of the HPT pages. -/
def regsHPT : List RegDesc := [
  ⟨0x0020, 1, oHPT_FEC_UNCORR, 1, counterFld⟩,
  ⟨0x0020, 1, oHPT_RX_DROPS, 1, counterFld⟩,
  ⟨0x0020, 1, oHPT_MACSEC_DROPS, 1, counterFld⟩,
  ⟨0x0020, 1, oHPT_FEC_CORR, 1, counterFld⟩,
  ⟨0x0020, 1, oHPT_RX_FRAMES, 1, counterFld⟩,
  ⟨0x0020, 1, oHPT_TX_FRAMES, 1, counterFld⟩,
  ⟨0x0020, 1, oHPT_PFC_RX, 1, counterFld⟩,
  ⟨0x0020, 1, oHPT_PFC_TX, 1, counterFld⟩,
  ⟨0x0020, 1, oHPT_CTRL, 1, [⟨16, 16, .rws, 0, .keep⟩, ⟨15, 8, .rws, 8, .keep⟩, ⟨6, 4, .rws, 3, .keep⟩]⟩,
  ⟨0x0020, 1, oHPT_STAT, 1, [⟨19, 16, .ro, 0, .keep⟩, ⟨4, 4, .ro, 0, .keep⟩, ⟨3, 0, .ro, 0, .keep⟩]⟩,
  ⟨0x0020, 1, oHPT_MAC, 1, [⟨47, 0, .ro, 0, .keep⟩]⟩,
  ⟨0x0020, 1, oHPT_VLAN, 1, [⟨12, 12, .rws, 0, .keep⟩, ⟨11, 0, .rws, 0, .keep⟩]⟩,
  ⟨0x0020, 1, oHPT_IPV4, 1, [⟨31, 0, .rws, 0, .keep⟩]⟩,
  ⟨0x0020, 1, oHPT_IPV6, 2, [⟨63, 0, .rws, 0, .keep⟩]⟩]

/-- Registers of the IVT pages. -/
def regsIVT : List RegDesc := [
  ⟨0x0021, 1, oIVT_ADDR_ERR, 1, counterFld⟩,
  ⟨0x0021, 1, oIVT_BAD_FRAMES, 1, counterFld⟩,
  ⟨0x0021, 1, oIVT_AUTH_FAILS, 1, counterFld⟩,
  ⟨0x0021, 1, oIVT_EVENTS_LOST, 1, counterFld⟩,
  ⟨0x0021, 1, oIVT_RETX, 1, counterFld⟩,
  ⟨0x0021, 1, oIVT_RX_BYTES, 1, counterFld⟩,
  ⟨0x0021, 1, oIVT_TX_BYTES, 1, counterFld⟩,
  ⟨0x0021, 1, oIVT_CTRL, 1, [⟨63, 48, .rws, 30, .keep⟩, ⟨47, 32, .rws, 250, .keep⟩, ⟨15, 0, .rws, 47524, .keep⟩]⟩,
  ⟨0x0021, 1, oIVT_SUB, 16, [⟨32, 32, .rw, 0, .val 0⟩, ⟨31, 0, .rw, 0, .val 0⟩]⟩,
  ⟨0x0021, 1, oIVT_SESS, 16, [⟨40, 40, .ro, 0, .val 0⟩, ⟨39, 32, .ro, 0, .val 0⟩, ⟨31, 24, .ro, 0, .val 0⟩, ⟨16, 16, .ro, 0, .val 0⟩, ⟨15, 0, .ro, 0, .val 0⟩]⟩]

/-- Registers of the LNK pages. -/
def regsLNK : List RegDesc := [
  ⟨0x0028, 6, oLNK_FEC_CORR, 1, counterFld⟩,
  ⟨0x0028, 6, oLNK_RETRY, 1, counterFld⟩,
  ⟨0x0028, 6, oLNK_BELL_RETRY, 1, counterFld⟩,
  ⟨0x0028, 6, oLNK_TX_BYTES, 1, counterFld⟩,
  ⟨0x0028, 6, oLNK_RX_BYTES, 1, counterFld⟩,
  ⟨0x0028, 6, oLNK_BELL_MSGS, 1, counterFld⟩,
  ⟨0x0028, 6, oLNK_CTRL, 1, [⟨16, 16, .wo, 0, .val 0⟩, ⟨15, 12, .rw, 5, .val 5⟩, ⟨11, 8, .rw, 8, .val 8⟩]⟩,
  ⟨0x0028, 6, oLNK_STAT, 1, [⟨23, 22, .ro, 0, .keep⟩, ⟨21, 19, .ro, 0, .keep⟩, ⟨18, 11, .ro, 0, .keep⟩, ⟨2, 0, .ro, 0, .keep⟩]⟩,
  ⟨0x0028, 6, oLNK_PEER, 1, [⟨31, 24, .ro, 0, .keep⟩, ⟨11, 8, .ro, 0, .keep⟩, ⟨7, 7, .ro, 0, .keep⟩, ⟨6, 4, .ro, 0, .keep⟩, ⟨2, 0, .ro, 0, .keep⟩]⟩]

/-- Registers of the RTR pages. -/
def regsRTR : List RegDesc := [
  ⟨0x002E, 1, oRTR_TAG_DROPS, 1, counterFld⟩,
  ⟨0x002E, 1, oRTR_COLL_TIMEOUTS, 1, counterFld⟩,
  ⟨0x002E, 1, oRTR_HAUL_TIMEOUTS, 1, counterFld⟩,
  ⟨0x002E, 1, oRTR_HAUL_STRAY, 1, counterFld⟩,
  ⟨0x002E, 1, oRTR_COLLS, 1, counterFld⟩,
  ⟨0x002E, 1, oRTR_RED_CLAIMS, 1, counterFld⟩,
  ⟨0x002E, 1, oRTR_RED_QUEUED, 1, counterFld⟩,
  ⟨0x002E, 1, oRTR_RED_FALLBACKS, 1, counterFld⟩,
  ⟨0x002E, 1, oRTR_BELL_OPS, 1, counterFld⟩,
  ⟨0x002E, 1, oRTR_TUB_SENT, 1, counterFld⟩,
  ⟨0x002E, 1, oRTR_TUB_FWD, 1, counterFld⟩,
  ⟨0x002E, 1, oRTR_TUB_RECV, 1, counterFld⟩,
  ⟨0x002E, 1, oRTR_TUB_DROPPED, 1, counterFld⟩,
  ⟨0x002E, 1, oRTR_HAULS, 1, counterFld⟩,
  ⟨0x002E, 1, oRTR_COORD, 1, [⟨31, 31, .rws, 0, .keep⟩, ⟨11, 8, .rws, 0, .keep⟩, ⟨6, 4, .rws, 0, .keep⟩, ⟨2, 0, .rws, 0, .keep⟩]⟩,
  ⟨0x002E, 1, oRTR_PLANE, 1, [⟨31, 24, .rws, 0, .keep⟩, ⟨11, 8, .rws, 15, .keep⟩, ⟨6, 4, .rws, 7, .keep⟩, ⟨2, 0, .rws, 7, .keep⟩]⟩]

/-- Registers of the RTR pages. -/
def regsRTR1 : List RegDesc := [
  ⟨0x002E, 1, oRTR_RED_CTRL, 1, [⟨47, 32, .rw, 20, .val 20⟩, ⟨15, 0, .rw, 20, .val 20⟩]⟩,
  ⟨0x002E, 1, oRTR_RED_STAT, 1, [⟨57, 48, .ro, 0, .val 0⟩, ⟨41, 32, .ro, 512, .val 512⟩, ⟨25, 16, .ro, 0, .val 0⟩, ⟨9, 0, .ro, 512, .val 512⟩]⟩,
  ⟨0x002E, 1, oRTR_SLICE, 16, [⟨63, 63, .rws, 0, .val 0⟩, ⟨27, 24, .rws, 0, .val 0⟩, ⟨22, 20, .rws, 0, .val 0⟩, ⟨18, 16, .rws, 0, .val 0⟩, ⟨15, 12, .rws, 0, .val 0⟩, ⟨10, 8, .rws, 0, .val 0⟩, ⟨6, 4, .rws, 0, .val 0⟩]⟩,
  ⟨0x002E, 1, oRTR_HAUL_CTRL, 1, [⟨15, 0, .rw, 20, .val 20⟩]⟩,
  ⟨0x002E, 1, oRTR_HAUL_LAST, 1, [⟨63, 54, .ro, 0, .val 0⟩, ⟨53, 44, .ro, 0, .val 0⟩, ⟨43, 43, .ro, 0, .val 0⟩, ⟨31, 0, .ro, 0, .val 0⟩]⟩,
  ⟨0x002E, 1, oRTR_HAUL_STAT, 1, [⟨63, 32, .ro, 0, .val 0⟩, ⟨16, 16, .ro, 0, .val 0⟩, ⟨7, 0, .ro, 0, .val 0⟩]⟩]

/-- Registers of the DIE pages. -/
def regsDIE : List RegDesc := [
  ⟨0x0030, 12, oDIE_ADDR_ERR, 1, counterFld⟩,
  ⟨0x0030, 12, oDIE_D2D_RETRY, 1, counterFld⟩,
  ⟨0x0030, 12, oDIE_D2D_TX_BYTES, 1, counterFld⟩,
  ⟨0x0030, 12, oDIE_D2D_RX_BYTES, 1, counterFld⟩,
  ⟨0x0030, 12, oDIE_GROUPS, 1, counterFld⟩,
  ⟨0x0030, 12, oDIE_STEALS, 1, counterFld⟩]

/-- Registers of the RGN pages. -/
def regsRGN : List RegDesc := [
  ⟨0x0040, 48, oRGN_SAT_BLOCKS, 1, counterFld⟩,
  ⟨0x0040, 48, oRGN_SPILLS, 1, counterFld⟩,
  ⟨0x0040, 48, oRGN_SPECIAL_IN, 1, counterFld⟩,
  ⟨0x0040, 48, oRGN_BAD_CODE, 1, counterFld⟩,
  ⟨0x0040, 48, oRGN_CANARY_TRIPS, 1, counterFld⟩,
  ⟨0x0040, 48, oRGN_FALLBACKS, 1, counterFld⟩,
  ⟨0x0040, 48, oRGN_REPAINTS, 1, counterFld⟩,
  ⟨0x0040, 48, oRGN_GRAD_TRIPS, 1, counterFld⟩,
  ⟨0x0040, 48, oRGN_ZERO_SKIPS, 1, counterFld⟩,
  ⟨0x0040, 48, oRGN_TOUCHUP_PRODUCTS, 1, counterFld⟩,
  ⟨0x0040, 48, oRGN_LAYERS_CHECKED, 1, counterFld⟩,
  ⟨0x0040, 48, oRGN_TILES, 1, counterFld⟩,
  ⟨0x0040, 48, oRGN_TILES_FOREIGN, 1, counterFld⟩,
  ⟨0x0040, 48, oRGN_CATCH_HITS, 1, counterFld⟩,
  ⟨0x0040, 48, oRGN_CATCH_MISSES, 1, counterFld⟩,
  ⟨0x0040, 48, oRGN_EDGE_TILES, 1, counterFld⟩]

/-- Registers of the RGN pages. -/
def regsRGN1 : List RegDesc := [
  ⟨0x0040, 48, oRGN_MACROOPS, 1, counterFld⟩,
  ⟨0x0040, 48, oRGN_EMPTY_OPS, 1, counterFld⟩,
  ⟨0x0040, 48, oRGN_REFUSALS, 1, counterFld⟩,
  ⟨0x0040, 48, oRGN_ARRAY_CYCLES, 1, counterFld⟩,
  ⟨0x0040, 48, oRGN_SKIP_CYCLES, 1, counterFld⟩,
  ⟨0x0040, 48, oRGN_VEC_BEATS, 1, counterFld⟩,
  ⟨0x0040, 48, oRGN_VEC_WAITS, 1, counterFld⟩,
  ⟨0x0040, 48, oRGN_CHAINS, 1, counterFld⟩,
  ⟨0x0040, 48, oRGN_FMT_CTRL, 1, [⟨2, 2, .rw, 1, .val 1⟩, ⟨1, 1, .rw, 0, .val 0⟩, ⟨0, 0, .rw, 0, .val 0⟩]⟩,
  ⟨0x0040, 48, oRGN_CANARY_CTRL, 1, [⟨16, 16, .rw, 0, .val 0⟩, ⟨15, 8, .rw, 4, .val 4⟩, ⟨6, 4, .rw, 0, .val 0⟩, ⟨3, 3, .rw, 1, .val 1⟩, ⟨1, 0, .rw, 3, .val 3⟩]⟩,
  ⟨0x0040, 48, oRGN_CANARY_BAND, 1, [⟨63, 32, .rw, 0x40800000, .val 0x40800000⟩, ⟨31, 0, .rw, 0x3E800000, .val 0x3E800000⟩]⟩,
  ⟨0x0040, 48, oRGN_CANARY_LIMITS, 1, [⟨31, 16, .rw, 16, .val 16⟩, ⟨15, 0, .rw, 64, .val 64⟩]⟩,
  ⟨0x0040, 48, oRGN_GRAD_BAND, 1, [⟨63, 32, .rw, 0x41800000, .val 0x41800000⟩, ⟨31, 0, .rw, 0x3D800000, .val 0x3D800000⟩]⟩,
  ⟨0x0040, 48, oRGN_SEQ_CTRL, 1, [⟨1, 1, .rw, 1, .val 1⟩, ⟨0, 0, .rw, 1, .val 1⟩]⟩,
  ⟨0x0040, 48, oRGN_LAST_REFUSAL, 1, [⟨63, 56, .ro, 0, .val 0⟩, ⟨55, 48, .ro, 0, .val 0⟩, ⟨47, 44, .ro, 0, .val 0⟩, ⟨43, 32, .ro, 0, .val 0⟩, ⟨31, 0, .ro, 0, .val 0⟩]⟩,
  ⟨0x0040, 48, oRGN_SFT_CTRL, 1, [⟨31, 0, .rw, 0x00800000, .val 0x00800000⟩]⟩]

/-- Registers of the RGN pages. -/
def regsRGN2 : List RegDesc := [
  ⟨0x0040, 48, oRGN_SFT_ARM, 1, [⟨0, 0, .wo, 0, .val 0⟩]⟩,
  ⟨0x0040, 48, oRGN_SFT_STAT, 1, [⟨31, 16, .ro, 0xFFFF, .val 0xFFFF⟩, ⟨15, 8, .ro, 0, .val 0⟩, ⟨4, 4, .ro, 0, .val 0⟩, ⟨3, 3, .ro, 0, .val 0⟩, ⟨2, 2, .ro, 0, .val 0⟩, ⟨1, 1, .ro, 0, .val 0⟩, ⟨0, 0, .ro, 0, .val 0⟩]⟩,
  ⟨0x0040, 48, oRGN_SF_RESULTS, 1, counterFld⟩,
  ⟨0x0040, 48, oRGN_SF_FLUSHES, 1, counterFld⟩,
  ⟨0x0040, 48, oRGN_SFT_SWAPS, 1, counterFld⟩,
  ⟨0x0040, 48, oRGN_SFT_ECC, 1, counterFld⟩,
  ⟨0x0040, 48, oRGN_MEM_CTRL, 1, [⟨24, 24, .rw, 1, .val 1⟩, ⟨20, 16, .rw, 8, .val 8⟩, ⟨11, 0, .rw, 0, .val 0⟩]⟩,
  ⟨0x0040, 48, oRGN_MEM_STAT, 1, [⟨43, 32, .ro, 0, .keep⟩, ⟨27, 24, .ro, 0, .val 0⟩, ⟨14, 9, .ro, 0, .val 0⟩, ⟨8, 6, .ro, 0, .val 0⟩, ⟨0, 0, .ro, 0, .val 0⟩]⟩,
  ⟨0x0040, 48, oRGN_BANK_WAITS, 1, counterFld⟩,
  ⟨0x0040, 48, oRGN_WW_CONFLICTS, 1, counterFld⟩,
  ⟨0x0040, 48, oRGN_ATOMICS, 1, counterFld⟩,
  ⟨0x0040, 48, oRGN_ECC_CORR, 1, counterFld⟩,
  ⟨0x0040, 48, oRGN_ECC_UNCORR, 1, counterFld⟩,
  ⟨0x0040, 48, oRGN_REPAIRS, 1, counterFld⟩,
  ⟨0x0040, 48, oRGN_TEST_PASSES, 1, counterFld⟩,
  ⟨0x0040, 48, oRGN_ATTN_CHUNKS, 1, counterFld⟩]

/-- Registers of the RGN pages. -/
def regsRGN3 : List RegDesc := [
  ⟨0x0040, 48, oRGN_ATTN_MASKED, 1, counterFld⟩,
  ⟨0x0040, 48, oRGN_ATTN_SLOTS, 1, counterFld⟩,
  ⟨0x0040, 48, oRGN_ATTN_VACANT, 1, counterFld⟩,
  ⟨0x0040, 48, oRGN_ATTN_BAD_SLOT, 1, [⟨63, 56, .ro, 0, .val 0⟩, ⟨55, 48, .ro, 0, .val 0⟩, ⟨31, 0, .ro, 0, .val 0⟩]⟩,
  ⟨0x0040, 48, oRGN_HALO_BYTES, 1, counterFld⟩,
  ⟨0x0040, 48, oRGN_SIDE_BYTES, 1, counterFld⟩,
  ⟨0x0040, 48, oRGN_FMAP_BLOCKS, 1, counterFld⟩,
  ⟨0x0040, 48, oRGN_DET_CANDS, 1, counterFld⟩,
  ⟨0x0040, 48, oRGN_DET_KEPT, 1, counterFld⟩,
  ⟨0x0040, 48, oRGN_DET_OVERFLOW, 1, counterFld⟩,
  ⟨0x0040, 48, oRGN_DET_BADBOX, 1, counterFld⟩]

/-- Registers of the HBM pages. -/
def regsHBM : List RegDesc := [
  ⟨0x0070, 12, oHBM_CORR, 1, counterFld⟩,
  ⟨0x0070, 12, oHBM_UNCORR, 1, counterFld⟩,
  ⟨0x0070, 12, oHBM_RETRY, 1, counterFld⟩,
  ⟨0x0070, 12, oHBM_RD_BYTES, 1, counterFld⟩,
  ⟨0x0070, 12, oHBM_WR_BYTES, 1, counterFld⟩,
  ⟨0x0070, 12, oHBM_NARROW, 1, counterFld⟩,
  ⟨0x0070, 12, oHBM_THROTTLE_US, 1, counterFld⟩,
  ⟨0x0070, 12, oHBM_CTRL, 1, [⟨23, 16, .rw, 100, .val 100⟩, ⟨15, 8, .rw, 90, .val 90⟩, ⟨0, 0, .rw, 0, .val 0⟩]⟩,
  ⟨0x0070, 12, oHBM_STAT, 1, [⟨31, 24, .ro, 0, .keep⟩, ⟨23, 16, .ro, 0, .keep⟩, ⟨13, 13, .ro, 0, .keep⟩, ⟨12, 12, .ro, 0, .keep⟩, ⟨11, 11, .ro, 0, .val 0⟩, ⟨10, 8, .ro, 0, .val 0⟩, ⟨7, 0, .ro, 0, .keep⟩]⟩]

/-- Registers of the FLS pages. -/
def regsFLS : List RegDesc := [
  ⟨0x0080, 4, oFLS_READ_RETRY, 1, counterFld⟩,
  ⟨0x0080, 4, oFLS_READ_FAIL, 1, counterFld⟩,
  ⟨0x0080, 4, oFLS_LATE, 1, counterFld⟩,
  ⟨0x0080, 4, oFLS_RD_BYTES, 1, counterFld⟩,
  ⟨0x0080, 4, oFLS_WR_BYTES, 1, counterFld⟩,
  ⟨0x0080, 4, oFLS_CTRL, 1, [⟨15, 0, .rw, 128, .val 128⟩]⟩,
  ⟨0x0080, 4, oFLS_STAT, 1, [⟨16, 16, .ro, 0, .keep⟩, ⟨15, 8, .ro, 0, .keep⟩, ⟨7, 0, .ro, 0, .keep⟩]⟩,
  ⟨0x0080, 1, oFLS_IMG_CFG, 1, [⟨4, 0, .rws, 0, .keep⟩]⟩]

/-- Registers of the POL pages. -/
def regsPOL : List RegDesc := [
  ⟨0x0088, 1, oPOL_TIER_FAILS, 1, counterFld⟩,
  ⟨0x0088, 1, oPOL_WALKS, 1, counterFld⟩,
  ⟨0x0088, 1, oPOL_TC_MISSES, 1, counterFld⟩,
  ⟨0x0088, 1, oPOL_EVICTIONS, 1, counterFld⟩,
  ⟨0x0088, 1, oPOL_PROMOTIONS, 1, counterFld⟩,
  ⟨0x0088, 1, oPOL_SHOOTDOWNS, 1, counterFld⟩,
  ⟨0x0088, 1, oPOL_CTX_OPENS, 1, counterFld⟩,
  ⟨0x0088, 1, oPOL_CTRL, 1, [⟨31, 0, .rw, 5000, .val 5000⟩]⟩,
  ⟨0x0088, 1, oPOL_CAP, 1, [⟨63, 32, .ro, 0, .keep⟩, ⟨31, 0, .ro, 0, .keep⟩]⟩,
  ⟨0x0088, 1, oPOL_CTX_SEL, 1, [⟨15, 0, .rw, 0, .val 0⟩]⟩,
  ⟨0x0088, 1, oPOL_CTX_INFO, 1, [⟨56, 56, .ro, 0, .val 0⟩, ⟨55, 52, .ro, 0, .val 0⟩, ⟨51, 50, .ro, 0, .val 0⟩, ⟨49, 42, .ro, 0, .val 0⟩, ⟨41, 29, .ro, 0, .val 0⟩, ⟨23, 0, .ro, 0, .val 0⟩]⟩,
  ⟨0x0088, 1, oPOL_CTX_LEN, 1, [⟨56, 32, .ro, 0, .val 0⟩, ⟨24, 0, .ro, 0, .val 0⟩]⟩,
  ⟨0x0088, 1, oPOL_QUOTA, 16, [⟨63, 32, .rws, 0, .val 0⟩, ⟨31, 0, .rws, 0, .val 0⟩]⟩,
  ⟨0x0088, 1, oPOL_USE, 16, [⟨63, 32, .ro, 0, .val 0⟩, ⟨31, 0, .ro, 0, .val 0⟩]⟩]

/-- Registers of the VDC pages. -/
def regsVDC : List RegDesc := [
  ⟨0x0090, 2, oVDC_ERR_SYNTAX, 1, counterFld⟩,
  ⟨0x0090, 2, oVDC_ERR_UNSUP, 1, counterFld⟩,
  ⟨0x0090, 2, oVDC_ERR_REF, 1, counterFld⟩,
  ⟨0x0090, 2, oVDC_ERR_TRUNC, 1, counterFld⟩,
  ⟨0x0090, 2, oVDC_ERR_TIMEOUT, 1, counterFld⟩,
  ⟨0x0090, 2, oVDC_SEGMENTS, 1, counterFld⟩,
  ⟨0x0090, 2, oVDC_PICTURES, 1, counterFld⟩,
  ⟨0x0090, 2, oVDC_SAMPLES, 1, counterFld⟩,
  ⟨0x0090, 2, oVDC_BINS, 1, counterFld⟩,
  ⟨0x0090, 2, oVDC_SYNTAX_WAIT, 1, counterFld⟩,
  ⟨0x0090, 2, oVDC_CTRL, 1, [⟨31, 16, .rw, 1000, .val 1000⟩, ⟨15, 0, .rw, 50, .val 50⟩]⟩,
  ⟨0x0090, 2, oVDC_STAT, 1, [⟨42, 32, .ro, 0, .val 0⟩, ⟨31, 16, .ro, 0, .val 0⟩, ⟨11, 8, .ro, 0, .val 0⟩, ⟨7, 4, .ro, 0, .val 0⟩]⟩,
  ⟨0x0090, 1, oVDC_CTX_SEL, 1, [⟨9, 0, .rw, 0, .val 0⟩]⟩,
  ⟨0x0090, 1, oVDC_CTX_INFO, 1, [⟨63, 63, .ro, 0, .val 0⟩, ⟨59, 56, .ro, 0, .val 0⟩, ⟨55, 54, .ro, 0, .val 0⟩, ⟨53, 53, .ro, 0, .val 0⟩, ⟨52, 52, .ro, 0, .val 0⟩, ⟨48, 44, .ro, 0, .val 0⟩, ⟨43, 43, .ro, 0, .val 0⟩, ⟨42, 42, .ro, 0, .val 0⟩, ⟨41, 28, .ro, 0, .val 0⟩, ⟨27, 14, .ro, 0, .val 0⟩]⟩]

/-- Registers of the VEN pages. -/
def regsVEN : List RegDesc := [
  ⟨0x0092, 2, oVEN_REENCODES, 1, counterFld⟩,
  ⟨0x0092, 2, oVEN_INPUT_CLAMPS, 1, counterFld⟩,
  ⟨0x0092, 2, oVEN_FRAMES, 1, counterFld⟩,
  ⟨0x0092, 2, oVEN_SAMPLES, 1, counterFld⟩,
  ⟨0x0092, 2, oVEN_BYTES, 1, counterFld⟩,
  ⟨0x0092, 2, oVEN_STAT, 1, [⟨23, 8, .ro, 0, .val 0⟩, ⟨1, 0, .ro, 0, .val 0⟩]⟩]

/-- Registers of the INP pages. -/
def regsINP : List RegDesc := [
  ⟨0x0098, 1, oINP_LATE, 1, counterFld⟩,
  ⟨0x0098, 1, oINP_CORRUPT, 1, counterFld⟩,
  ⟨0x0098, 1, oINP_DROPPED, 1, counterFld⟩,
  ⟨0x0098, 1, oINP_PREPARED, 1, counterFld⟩,
  ⟨0x0098, 1, oINP_PIXELS, 1, counterFld⟩,
  ⟨0x0098, 1, oINP_STEPS, 1, counterFld⟩,
  ⟨0x0098, 1, oINP_JOINS, 1, counterFld⟩,
  ⟨0x0098, 1, oINP_REFILLS, 1, counterFld⟩,
  ⟨0x0098, 1, oINP_VACANT, 1, counterFld⟩,
  ⟨0x0098, 1, oINP_CTRL, 1, [⟨47, 40, .rw, 64, .val 64⟩, ⟨31, 0, .rw, 2000, .val 2000⟩]⟩,
  ⟨0x0098, 1, oINP_MEAN_INIT, 1, [⟨31, 0, .rw, 20000, .val 20000⟩]⟩,
  ⟨0x0098, 1, oINP_STAT, 1, [⟨39, 23, .ro, 0, .val 0⟩, ⟨22, 16, .ro, 0, .val 0⟩, ⟨15, 8, .ro, 0, .val 0⟩, ⟨7, 0, .ro, 0, .val 0⟩]⟩,
  ⟨0x0098, 1, oINP_MEAN, 16, [⟨31, 0, .ro, 0, .val 0⟩]⟩]

/-- Registers of the DBG pages. -/
def regsDBG : List RegDesc := [
  ⟨0x00F0, 1, oDBG_TRACE_DROPS, 1, counterFld⟩,
  ⟨0x00F0, 1, oDBG_TRACE_RECORDS, 1, counterFld⟩,
  ⟨0x00F0, 1, oDBG_WIN_ACCESSES, 1, counterFld⟩,
  ⟨0x00F0, 1, oDBG_CTRL, 1, [⟨63, 48, .rwl, 0, .val 0⟩, ⟨15, 8, .rwl, 0, .val 0⟩, ⟨3, 3, .rwl, 0, .val 0⟩, ⟨2, 2, .rwl, 0, .val 0⟩, ⟨1, 1, .rwl, 0, .val 0⟩, ⟨0, 0, .rwl, 0, .val 0⟩]⟩,
  ⟨0x00F0, 1, oDBG_TRACE_BASE, 1, [⟨63, 60, .rwl, 0, .val 0⟩, ⟨59, 0, .rwl, 0, .val 0⟩]⟩,
  ⟨0x00F0, 1, oDBG_TRACE_SIZE, 1, [⟨63, 0, .rwl, 0, .val 0⟩]⟩,
  ⟨0x00F0, 1, oDBG_TRACE_WR, 1, [⟨63, 0, .ro, 0, .val 0⟩]⟩,
  ⟨0x00F0, 1, oDBG_STAT, 1, [⟨2, 2, .ro, 0, .val 0⟩, ⟨1, 1, .ro, 0, .val 0⟩, ⟨0, 0, .ro, 0, .val 0⟩]⟩,
  ⟨0x00F0, 1, oDBG_HALT, 1, [⟨47, 0, .rwl, 0, .val 0⟩]⟩,
  ⟨0x00F0, 1, oDBG_HALTED, 1, [⟨47, 0, .ro, 0, .val 0⟩]⟩,
  ⟨0x00F0, 1, oDBG_WIN_ADDR, 1, [⟨47, 3, .rwl, 0, .val 0⟩]⟩,
  ⟨0x00F0, 1, oDBG_WIN_DATA, 1, [⟨63, 0, .rwl, 0, .val 0⟩]⟩]

/-- Registers of the TAL pages. -/
def regsTAL : List RegDesc := [
  ⟨0x0100, 32, oTAL_PAIR, 256, [⟨63, 32, .ro, 0, .val 0⟩, ⟨31, 0, .ro, 0, .val 0⟩]⟩,
  ⟨0x0100, 32, oTAL_ADD, 1, [⟨63, 32, .wo, 0, .val 0⟩, ⟨8, 0, .wo, 0, .val 0⟩]⟩]

/-- Registers of the DIR pages. -/
def regsDIR : List RegDesc := [
  ⟨0x0000, 1, oDIR_COUNT, 1, [⟨7, 0, .ro, 23, .val 23⟩]⟩,
  ⟨0x0000, 1, oDIR_ENTRY, 23, [⟨63, 48, .ro, 0, .keep⟩, ⟨47, 32, .ro, 0, .keep⟩, ⟨23, 16, .ro, 1, .val 1⟩, ⟨8, 8, .ro, 0, .keep⟩, ⟨7, 0, .ro, 0, .keep⟩]⟩]

/-- The common header (R570). -/
def regsHeader (page : Nat) : List RegDesc := [
  ⟨page, 1, oPAGE_ID, 1, [⟨47, 32, .ro, 0, .keep⟩, ⟨23, 16, .ro, 1, .val 1⟩, ⟨15, 8, .ro, 0, .keep⟩, ⟨7, 0, .ro, 0, .keep⟩]⟩,
  ⟨page, 1, oPAGE_CAP, 1, [⟨47, 40, .ro, 0, .keep⟩, ⟨39, 32, .ro, 0, .keep⟩, ⟨15, 0, .ro, 0, .keep⟩]⟩,
  ⟨page, 1, oPAGE_CTRL, 1, [⟨0, 0, .rws, 0, .keep⟩]⟩,
  ⟨page, 1, oPAGE_STAT, 1, [⟨2, 2, .ro, 0, .val 0⟩, ⟨1, 1, .ro, 0, .keep⟩, ⟨0, 0, .ro, 0, .keep⟩]⟩,
  ⟨page, 1, oEVT_RAW, 1, [⟨63, 0, .ro, 0, .val 0⟩]⟩,
  ⟨page, 1, oEVT_MASK, 1, [⟨63, 0, .rw, 0, .keep⟩]⟩,
  ⟨page, 1, oEVT_CLR, 1, [⟨63, 0, .w1c, 0, .val 0⟩]⟩,
  ⟨page, 1, oEVT_COUNT, 1, counterFld⟩]

/-- Every register of the chapters. -/
def regTable : List RegDesc :=
  regsMOD ++ regsCLK ++ regsDEP ++ regsTHM ++ regsSEC ++ regsCAL ++ regsSCH ++ regsHPT ++ regsIVT ++ regsLNK ++ regsRTR ++ regsRTR1 ++ regsDIE ++ regsRGN ++ regsRGN1 ++ regsRGN2 ++ regsRGN3 ++ regsHBM ++ regsFLS ++ regsPOL ++ regsVDC ++ regsVEN ++ regsINP ++ regsDBG ++ regsTAL ++ regsDIR

/-- A row of the page directory (R576): first page, pages, block type code. -/
structure DirRow where
  first : Nat
  pages : Nat
  code : Nat
  deriving DecidableEq, Repr

/-- The page directory (R576). -/
def directory : List DirRow := [
  ⟨0x0000, 1, 0x00⟩, ⟨0x0010, 1, 0x01⟩, ⟨0x0011, 1, 0x02⟩, ⟨0x0012, 1, 0x03⟩, ⟨0x0013, 1, 0x04⟩, ⟨0x0014, 1, 0x05⟩,
  ⟨0x0015, 1, 0x14⟩, ⟨0x0016, 1, 0x13⟩, ⟨0x0020, 1, 0x06⟩, ⟨0x0021, 1, 0x07⟩, ⟨0x0028, 6, 0x08⟩, ⟨0x002E, 1, 0x09⟩,
  ⟨0x0030, 12, 0x0A⟩, ⟨0x0040, 48, 0x0B⟩, ⟨0x0070, 12, 0x0C⟩, ⟨0x0080, 4, 0x0D⟩, ⟨0x0088, 1, 0x0E⟩, ⟨0x0090, 2, 0x10⟩,
  ⟨0x0092, 2, 0x11⟩, ⟨0x0098, 1, 0x12⟩, ⟨0x00F0, 1, 0x15⟩, ⟨0x0100, 32, 0x0F⟩, ⟨0x0200, 256, 0xFF⟩]

/-- The directory row of a page. -/
def dirRow (page : Nat) : Option DirRow := directory.find? fun r => r.first ≤ page && page < r.first + r.pages

/-- A page with the common header (R567, R570). -/
def hasHeader (page : Nat) : Bool :=
  match dirRow page with
  | some r => r.code != 0xFF
  | none => false

/-- The instance number of a page (R576). -/
def pageInstance (page : Nat) : Nat :=
  match dirRow page with
  | some r => page - r.first
  | none => 0

/-- The block type code of a page (R576). -/
def pageCode (page : Nat) : Nat :=
  match dirRow page with
  | some r => r.code
  | none => 0xFF

/-- The descriptor of the register at a page and offset. -/
def regDesc (page off : Nat) : Option RegDesc :=
  (if hasHeader page then (regsHeader page).find? (fun r => r.off == off) else none).or
    (regTable.find? fun r => r.first ≤ page && page < r.first + r.pages && r.off ≤ off && off < r.off + 8 * r.count
      && (off - r.off) % 8 == 0)

/-- The event number one above the highest that a page raises, by the event tables (PAGE_CAP.NEVT). -/
def pageNevt (page : Nat) : Nat :=
  match pageCode page with
  | 0x01 => 3 | 0x02 => 3 | 0x03 => 3 | 0x04 => 4 | 0x05 => 4 | 0x14 => 5 | 0x13 => 5 | 0x06 => 4 | 0x07 => 4
  | 0x08 => 7 | 0x09 => 0x13 | 0x0B => 0x39 | 0x0C => 6 | 0x0D => 3 | 0x0E => 2 | 0x10 => 3 | 0x11 => 3
  | 0x12 => 5 | 0x15 => 4 | _ => 0

/-- The map of counters that exist at `base`, `base` + 8, ... (PAGE_CAP.ERR_MAP and ACT_MAP, R572). -/
def counterMap (page base n : Nat) : Nat :=
  sumNat ((List.range n).map fun i => if (regDesc page (base + 8 * i)).isSome then 2 ^ i else 0)

/-- The cold value of a field: the DEP estimates are 3,000 x k (R137), others as their table gives. -/
def coldFld (page off : Nat) (f : Fld) : Nat :=
  if page == pgDEP && oDEP_EST_RGN ≤ off && off < oDEP_EST_MOD + 128 then 3000 * ((off / 8) % 16) else f.cold

/-- The value of a whole register after a cold reset. -/
def coldReg (page off : Nat) : Nat :=
  match regDesc page off with
  | some d => sumNat (d.flds.map fun f => (coldFld page off f % 2 ^ (f.hi + 1 - f.lo)) <<< f.lo)
  | none => 0

/-- The value of a register after a warm reset, from the value before it (R575). -/
def warmReg (page off old : Nat) : Nat :=
  match regDesc page off with
  | some d => sumNat (d.flds.map fun f =>
      match f.warm with
      | .val n => (n % 2 ^ (f.hi + 1 - f.lo)) <<< f.lo
      | .keep => bits old f.hi f.lo <<< f.lo)
  | none => 0

end Sys2Proof.Machine
end

