-- ==== Sys2Proof/Machine/State.lean ====
section
/-! DEFINITION. The state of the module: plain data for everything that the spec names, and the state after reset. -/

namespace Sys2Proof.Machine

/-- The module has no trap: every failure that the spec names is a status, a result code, an event or a counter
(INVENTORY, Faults), so no command ends in a fault. -/
inductive Fault where
  deriving DecidableEq, Repr

/-- Why a command has no meaning. `notModelled` is raised by an arm of `exec` whose meaning is not written; it is safe:
the run stops. -/
inductive Refusal where
  | notModelled (mnemonic : String)
  deriving DecidableEq, Repr

/-- The stage of the module as a whole (R543, R552, R563, R596, R600). -/
inductive Phase where
  | off | held | refWait | noFirmware | running | tampered
  deriving DecidableEq, Repr

/-- A firmware slot (R552, R554): whether it is sealed and passes each check of the boot ROM, and the fields of its image header. -/
structure FwSlot where
  sealed : Bool := false
  generation : Nat := 0
  formOk : Bool := false
  sigOk : Bool := false
  bodyOk : Bool := false
  svn : Nat := 0
  keyId : Nat := 0
  revoke : Nat := 0
  build : Nat := 0
  len : Nat := 0
  bodyHash : Bytes := []
  deriving DecidableEq, Repr

/-- Pins and start-up (R543, R544, R590, R593). -/
structure Boot where
  phase : Phase := .held
  blade : Bool := true
  pwrGood : Bool := true
  resetN : Bool := false
  refclk : Bool := true
  loopOpen : Bool := false
  slotId : Nat := 0xF
  holdDone : Bool := false
  /-- a warm reset waits for REFCLK (R539); the number is 1 for one by command -/
  warmWait : Option Nat := none
  /-- CAL_STAT.SERVICE -/
  service : Nat := 0
  /-- what the sessions learn as LAST_RESET (R499): 1 cold, 2 warm -/
  lastReset : Nat := 1
  portWasUp : Bool := false
  /-- regions calibrated since the last cold reset (R546) -/
  calibrated : List Nat := []
  /-- voltage trims that calibration has settled, by region (R546) -/
  trims : List (Nat × Int) := []
  /-- the running firmware: its slot and image -/
  fwSlot : Nat := 0
  fw : FwSlot := {}
  deriving DecidableEq, Repr

/-- A key slot: 0 empty, 1 session, 2 secure, and the public key (R559). -/
structure KeySlot where
  role : Nat := 0
  key : Bytes := []
  deriving DecidableEq, Repr

/-- One copy of the key store (R560). -/
structure KeyCopy where
  intact : Bool := true
  counter : Nat := 0
  slots : List KeySlot := List.replicate 15 {}
  cak : Bytes := []
  ckn : Bytes := []
  mediaKey : Nat := 0
  deriving DecidableEq, Repr

/-- A life-cycle record (R561, R562). -/
structure LifeRec where
  counter : Nat := 0
  state : Nat := 0
  ownerKey : Bytes := []
  tampers : Nat := 0
  deriving DecidableEq, Repr

/-- The calibration record (R555): header fields, whether its checks pass, and the bytes of its sections from 0x0100. -/
structure CalRec where
  ok : Bool := true
  source : Nat := 0
  valid : Nat := 0x3F
  serial : Nat := 1
  writes : Nat := 1
  sections : Bytes := []
  deriving DecidableEq, Repr

/-- What fuses and the flash system area hold. -/
structure Nv where
  orderA08 : Bool := false
  serial : Nat := 1
  hwRev : Nat := 1
  mac : Nat := 0
  svnFuse : Nat := 0
  revoked : Nat := 0
  /-- burnt bits of the transition counter (R562) -/
  transitions : Nat := 0
  scrapFuse : Bool := false
  life : LifeRec := {}
  /-- the two key-store copies -/
  keyA : KeyCopy := {}
  keyB : KeyCopy := {}
  cal : CalRec := {}
  /-- firmware slots A and B -/
  fw : List FwSlot := [{ sealed := true, generation := 1, formOk := true, sigOk := true, bodyOk := true, build := 1 }, {}]
  /-- AREA of FLS_IMG_CFG -/
  area : Nat := 16
  /-- READ_ONLY, SPARE_LEFT and WEAR of each flash stack -/
  flashReadOnly : List Bool := List.replicate 4 false
  flashSpare : List Nat := List.replicate 4 100
  flashWear : List Nat := List.replicate 4 0
  /-- FLS_WEAR has been raised for the stack -/
  wearRaised : List Bool := List.replicate 4 false
  deriving DecidableEq, Repr

/-- The secure store (R246, R560): loaded from the key store at a cold start. -/
structure SecStore where
  loaded : Bool := false
  slots : List KeySlot := List.replicate 15 {}
  cak : Bytes := []
  ckn : Bytes := []
  deriving DecidableEq, Repr

/-- The space of a translation entry: a partition's general space or a sequence context (R27, R28). -/
inductive Space where
  | gen (part : Nat)
  | ctx (index : Nat)
  deriving DecidableEq, Repr

/-- A translation entry with V = 1 (R264), beside the virtual offset it stands for, the page's age stamp (R275) and whether
an eviction that has cleared W is under way. `owner` is the partition that its HBM use is charged to. -/
structure Pte where
  space : Space
  va : Nat
  small : Bool
  pa : Nat
  zero : Bool := false
  clean : Bool := false
  image : Option Nat := none
  pin : Bool := false
  flash : Bool := false
  w : Bool := true
  stamp : Nat := 0
  evicting : Bool := false
  owner : Nat
  /-- for an HBM copy of a page that lies in flash too: the flash address -/
  home : Option Nat := none
  deriving DecidableEq, Repr

/-- An HBM stack (R250-R257): attempts, consecutive cool readings, consecutive native readings at 2 of 8, and whether the heat of R257 or the
loss of REFCLK (R538) holds it in self refresh. -/
structure Stack where
  attempts : Nat := 0
  cool : Nat := 0
  atFloor : Nat := 0
  hot : Bool := false
  held : Bool := false
  deriving DecidableEq, Repr

/-- The pool (R264-R277). -/
structure Pool where
  ptes : List Pte := []
  /-- freed HBM frames waiting to be zeroed, with whether each is small (R269) -/
  dirty : List (Nat × Bool) := []
  hbms : List Stack := List.replicate 12 {}
  deriving DecidableEq, Repr

/-- An open sequence context (R281). -/
structure Ctx where
  index : Nat
  owner : Nat
  headDim : Nat
  hkv : Nat
  layers : Nat
  maxlen : Nat
  base : Nat
  filled : Nat
  deriving DecidableEq, Repr

/-- An open stream context (R405-R408). `refs` is what its engine keeps between segments. -/
structure VCtx where
  index : Nat
  owner : Nat
  codec : Nat
  set : Nat
  maxW : Nat
  maxH : Nat
  tenBit : Bool
  slots : Nat
  area : Nat
  bytes : Nat
  hasRefs : Bool := false
  refs : Nat := 0
  deriving DecidableEq, Repr

/-- A video segment that waits or runs (R409-R422), with the rank of its request. -/
structure Seg where
  id : Nat
  req : Nat
  mop : Nat
  entry : Nat
  set : Nat
  vctx : Nat
  part : Nat
  prio : Nat
  running : Bool := false
  engine : Nat := 0
  tStart : Nat := 0
  /-- of a ring segment: RD when it began -/
  ringPos : Nat := 0
  /-- pictures parsed, pictures reconstructed, frames written -/
  parsedPics : Nat := 0
  pics : Nat := 0
  frames : Nat := 0
  /-- of the last frame written -/
  width : Nat := 0
  height : Nat := 0
  rflags : Nat := 0
  /-- its entropy engine waits, for room in its share or for bytes of the ring -/
  waiting : Bool := false
  /-- parsing is over, with this result -/
  parsed : Bool := false
  result : Nat := 0
  ended : Bool := false
  /-- syntax of each picture parsed and not reconstructed, KiB -/
  syntaxKib : List Nat := []
  /-- VDC_CTRL as it stood when the segment began: its SEG_LIMIT and RING_WAIT (R411, R420, R433) -/
  ctrl : Nat := 0
  deriving DecidableEq, Repr

/-- A VENC that waits or runs (R431). -/
structure Enc where
  req : Nat
  mop : Nat
  set : Nat
  part : Nat
  prio : Nat
  encoder : Option Nat := none
  frames : Nat := 0
  deriving DecidableEq, Repr

/-- The video engines. -/
structure Video where
  vctxs : List VCtx := []
  segs : List Seg := []
  encs : List Enc := []
  nextSeg : Nat := 0
  /-- segments by the pictures that wait for a pixel engine, in the order in which they entered the syntax buffers (R419) -/
  order : List Nat := []
  stopped : List Bool := [false, false]
  deriving DecidableEq, Repr

/-- An operand strip of a tile: its first byte and the bytes of one of its K chunks (R143). -/
structure Strip where
  va : Nat
  bytes : Nat
  deriving DecidableEq, Repr

/-- A catch entry of a cluster (R234): the strip's virtual address, the K chunk, the macro-op that fetched it, its bytes. -/
structure CatchEntry where
  cluster : Nat
  va : Nat
  chunk : Nat
  req : Nat
  mop : Nat
  bytes : Nat
  deriving DecidableEq, Repr

/-- A group of tiles in a die's group queue (R139-R141). -/
structure Group where
  req : Nat
  mop : Nat
  number : Nat
  die : Nat
  tiles : Nat
  edges : Nat
  /-- what tells its larger operand's strips from others: first byte, strips, bytes of a row, stride of a row (R142) -/
  strip : List Nat
  /-- K chunks, or chunk steps, of each tile -/
  chunks : Nat := 1
  /-- tiles of a row: the tile at row r and column c goes to unit 4r + c; 16 where tile j goes to unit j (R143, R150, R308) -/
  width : Nat := 16
  /-- it belongs to a line (R150) -/
  line : Bool := false
  /-- the sweep of a row operation, 0 where there is but one; its batch position and its first band (R208) -/
  sweep : Nat := 0
  batch : Nat := 0
  band : Nat := 0
  /-- the operand strips of each tile of a matrix product, which the fetch engine reads through the catch (R143) -/
  strips : List (List Strip) := []
  deriving DecidableEq, Repr

/-- The group that a cluster holds. -/
structure Held where
  cluster : Nat
  group : Group
  deriving DecidableEq, Repr

/-- The chunk a unit has begun, of how many (R15), and the rows of its tile before that still stand in its accumulators (R16). -/
structure UnitRun where
  unit : Nat
  chunk : Nat
  chunks : Nat
  back : Nat := 0
  deriving DecidableEq, Repr

/-- The control values that a region latches at a macro-op boundary or a layer's first macro-op (R71, R113, R159, R219, R247). -/
structure Latch where
  fmt : Nat := 4
  canary : Nat := 0x040B
  band : Nat := 0x408000003E800000
  limits : Nat := 0x00100040
  grad : Nat := 0x418000003D800000
  seq : Nat := 3
  flush : Nat := 0x00800000
  mem : Nat := 0x01080000
  deriving DecidableEq, Repr

/-- A saved state of a region (R473). -/
structure Saved where
  part : Nat
  slot : Nat
  openSram : Bool := false
  /-- the groups that the region's clusters held (R472), and how far their units had come -/
  held : List Held := []
  units : List UnitRun := []
  /-- the controls that its macro-ops have latched (R71, R159, R219, R247) -/
  latch : Latch := {}
  /-- the catches of its cluster stores (R473) -/
  kept : List CatchEntry := []
  deriving DecidableEq, Repr

/-- A region: partition, power, halts, saved states, latched controls, table banks, open contents, background test,
spare words used of each of its twelve stores. -/
structure Region where
  owner : Option Nat := none
  powered : Bool := false
  /-- halted by pre-emption, by the debug block, by the loss of REFCLK or by a tamper -/
  halted : Bool := false
  haltDbg : Bool := false
  haltAll : Bool := false
  restoring : Bool := false
  /-- given to a partition and not yet through the wake steps of R235 -/
  waking : Bool := false
  /-- the partition that an admission has taken the region for (R475) -/
  takenFor : Option Nat := none
  saved : List Saved := []
  latch : Latch := {}
  /-- the active bank of the user slot, and whether the shadow bank holds the armed image (R200) -/
  bankUser : Bool := false
  staged : Bool := false
  /-- tile work has left open contents in the region's memories since they were last cleared -/
  openSram : Bool := false
  /-- the next test region of each store, 0-511 (R236) -/
  testPos : List Nat := List.replicate 12 0
  /-- redundant words used: 64 x cluster + bank, and how many (R236, R240) -/
  spares : List (Nat × Nat) := []
  /-- stores whose background test has stopped: their spare bank holds the test region that `testPos` names from then on (R240) -/
  exhausted : List Nat := []
  /-- stores whose test engine holds the test region that `testPos` names: it is served from the spare bank (R236, R239) -/
  testing : List Nat := []
  /-- stores that their first whole background test has passed over since the last cold reset (R238) -/
  tested : List Nat := []
  deriving DecidableEq, Repr

/-- The user table of a partition (R199-R205): the committed image, the image it replaces while macro-ops still read it, whether a
reload is between steps 1 and 5, and whether step 4 has passed. -/
structure UserTab where
  committed : Option Bytes := none
  old : Option Bytes := none
  arming : Bool := false
  armed : Option Bytes := none
  swapped : Bool := false
  /-- macro-ops that began on the old bank: request and index -/
  onOld : List (Nat × Nat) := []
  /-- the SCLK count at which steps 1 and 2 of the reload are over (R200, R202) -/
  stagedAt : Nat := 0
  deriving DecidableEq, Repr

/-- Tallies and the walk of the regions. -/
structure Fabric where
  rgns : List Region := List.replicate 48 {}
  users : List UserTab := List.replicate 16 {}
  /-- tallies with a value other than 0, by ascending number -/
  tallies : List (Nat × W32) := []
  queue : List Group := []
  held : List Held := []
  units : List UnitRun := []
  /-- the catches of the clusters, each from its oldest entry on (R232-R234) -/
  kept : List CatchEntry := []
  deriving DecidableEq, Repr

/-- How far a macro-op has come through R135: it waits to run again (R100, R105), it needs leave, it runs, its writes are made, the
canary has passed it, it has completed. -/
inductive Stage where
  | again | leave | granted | worked | judged | done
  deriving DecidableEq, Repr

/-- A slot's lengths as the macro-op took them at step 2 (R294). -/
structure SlotLen where
  vacant : Bool
  ctx : Nat
  layer : Nat
  q0 : Nat
  q1 : Nat
  k0 : Nat
  k1 : Nat
  deriving DecidableEq, Repr

/-- A macro-op that has begun: its stage, the run-time sizes of its dimensions and its slots' lengths as step 2 took them, and the
form it runs in. -/
structure MopSt where
  idx : Nat
  stage : Stage
  sizes : List Nat := []
  slots : List SlotLen := []
  /-- EXEC of R324: 0 narrow, 1 a layer's wide form, 2 a repainted pass -/
  exec : Nat := 0
  /-- it completes without work (R157, R295, R98) -/
  empty : Bool := false
  /-- it has come to step 4 in its present execution -/
  begun : Bool := false
  /-- it has signalled its tallies (R121) -/
  signalled : Bool := false
  /-- waits on memory (R275) or a tier (R277) since the SCLK count -/
  memWait : Option Nat := none
  /-- the groups of the walk have been entered in the group queues -/
  queued : Bool := false
  /-- reason bits of its own verdict while it waits for the slice's (R95) -/
  verdict : Option Nat := none
  /-- the canary has taken its gradient norm (R97) -/
  gradDone : Bool := false
  /-- a re-execution has taken it up again (R100, R105) -/
  redo : Bool := false
  /-- a cluster has taken a group of it in its present execution (R123) -/
  tiles : Bool := false
  deriving DecidableEq, Repr

/-- A return entry of a SUBMIT (R508). -/
structure Ret where
  addr : Nat
  len : Nat
  ptr : Nat
  deriving DecidableEq, Repr

/-- Where a request stands. -/
inductive ReqSt where
  | queued | admitted | ended
  deriving DecidableEq, Repr

/-- A sample's counts in a layer (R92): groups written and saturated, output elements of matrix products and their spills. -/
structure SampleCnt where
  sample : Nat
  groups : Nat
  sat : Nat
  elems : Nat
  spills : Nat
  deriving DecidableEq, Repr

/-- A layer that has begun, by the index of its first macro-op (R73): its form, the lead region's latched controls and those of each region
(R113), the macro-ops whose second coat its wide form has read from flash into the staging area (R102; none before it has), its counts. -/
structure LayerW where
  start : Nat
  wide : Bool := false
  ctrl : Latch := {}
  ctrls : List (Nat × Latch) := []
  staged : Option (List Nat) := none
  cnts : List SampleCnt := []
  deriving DecidableEq, Repr

/-- A pass that has begun, by the index of its first macro-op (R73), with what its watch-log entry and its commit need (R90, R105, R110). -/
structure PassW where
  start : Nat
  repainted : Bool := false
  narrowTrips : Nat := 0
  fallbacks : Nat := 0
  firstTrip : Nat := 0xFFFF
  lastTrip : Nat := 0xFFFF
  reasons : Nat := 0
  satBlocks : Nat := 0
  spills : Nat := 0
  worst : Option W32 := none
  recordOnly : Bool := false
  /-- the first macro-op of the list whose gradient has tripped under GRAD_ACTION 1 (R98) -/
  gradAt : Option Nat := none
  /-- addresses of reference entries whose PEND the pass has written -/
  commits : List Nat := []
  deriving DecidableEq, Repr

/-- The layers and passes of a request under watch (R73-R110). -/
structure Watch where
  layers : List LayerW := []
  passes : List PassW := []
  deriving DecidableEq, Repr

/-- A request (R465, R508). -/
structure Request where
  id : Nat
  part : Nat
  sess : Nat
  keySlot : Nat := 0
  tag : Nat
  prio : Nat := 0
  list : Nat
  nops : Nat
  rets : List Ret := []
  st : ReqSt := .queued
  status : Nat := 0
  failIdx : Nat := 0xFFFFFFFF
  tEnd : Nat := 0
  mops : List MopSt := []
  rH : Nat := 0
  rP : Nat := 0
  /-- the slice knows of its end: an abort of its hauls has been sent, or has ended it (R339) -/
  told : Bool := false
  /-- it has ended, and a flash read of its returns is late or has failed (R510) -/
  retFail : Bool := false
  watch : Watch := {}
  deriving DecidableEq, Repr

/-- The requests of the module. -/
structure Sched where
  reqs : List Request := []
  nextReq : Nat := 0
  /-- SCLK count at which the last pre-emption was admitted, and the regions it takes -/
  preAt : Nat := 0
  preRgns : List Nat := []
  /-- the claims of the partitions and the priorities of the sessions that the last admission has put into effect (R484) -/
  claims : List Nat := List.replicate 16 0
  prios : List Nat := List.replicate 16 0
  deriving DecidableEq, Repr

/-- A leave request that waits, or a grant that is held (R519-R522): watts in mW; `rgns` empty for a module-wide one. -/
structure Leave where
  req : Nat
  mop : Nat
  prio : Nat
  age : Nat
  cls : Nat
  modwide : Bool
  /-- regions asked for and not yet granted; regions granted -/
  want : List Nat
  got : List Nat
  /-- mW of a module-wide grant, or per region -/
  each : Nat
  waits : Bool
  warned : Bool := false
  /-- the SCLK count from which its present wait is not yet in DEP_WAIT_US -/
  since : Nat := 0
  /-- its draw in the last microseconds that a sample has shown, ten at most, newest first, and the largest average of ten, in mW (R524, R526) -/
  draws : List Nat := []
  peak : Option Nat := none
  deriving DecidableEq, Repr

/-- A grant that has ended, waiting for its measurement (R526). -/
structure Ended where
  req : Nat
  mop : Nat
  cls : Nat
  modwide : Bool
  /-- the largest 10-µs average of its draw, for each region of a per-region grant, where samples have shown ten microseconds of it (R526) -/
  peak : Option Nat := none
  deriving DecidableEq, Repr

/-- The deputy and the thermal control (R516-R532). -/
structure Power where
  leaves : List Leave := []
  ended : List Ended := []
  baseline : Nat := 400
  /-- what the connector drew beyond the grants in each microsecond of the last 1 ms that a sample has shown, newest first (R525) -/
  bases : List Nat := []
  /-- the idle floors: of each region, and of the edge dies with the uncores, in mW (R524) -/
  floors : List Nat := List.replicate 48 0
  edgeFloor : Nat := 0
  draw : Nat := 0
  avg : Nat := 0
  clamping : Bool := false
  /-- consecutive die readings at or above STRETCH_T, and at or below STRETCH_T - 2; readings at pace 2; readings at or
  below 90 since a trip; per die 0-13 -/
  hot : List Nat := List.replicate 14 0
  cool : List Nat := List.replicate 14 0
  slow : List Nat := List.replicate 14 0
  coolant : Bool := false
  pendingClk : Option Nat := none
  deriving DecidableEq, Repr

/-- A sequenced frame of the module that awaits acknowledgement (R497). -/
structure Sent where
  seq : Nat
  type : Nat
  reply : Bool
  last : Bool
  msg : Nat
  offset : Nat
  payload : Bytes
  onWire : Bool
  resends : Nat := 0
  /-- acknowledged, and kept until its whole message is (R502) -/
  acked : Bool := false
  deriving DecidableEq, Repr

/-- An event entry queued for a session (R511). -/
structure EvEntry where
  code : Nat
  page : Nat
  count : Nat
  first : Nat
  /-- SEQ of the EVENT frame that carries it, once sent -/
  sent : Option Nat := none
  deriving DecidableEq, Repr

/-- A session being opened (R499). -/
structure Opening where
  keySlot : Nat
  maxPayload : Nat
  hostNonce : Bytes
  modNonce : Bytes
  tag : Nat
  ip : Nat
  port : Nat
  mac : Nat
  dstIp : Nat
  /-- the UDP port of the module when HELLO came (R514) -/
  udp : Nat := 0xB9A4
  deriving DecidableEq, Repr

/-- A SUBMIT in assembly (R493). -/
structure Asm where
  msg : Nat
  bytes : Bytes
  /-- a rule of R493, R508 or R509 has been broken -/
  bad : Bool := false
  deriving DecidableEq, Repr

/-- A message kept for the next opening under a key slot (R502). -/
structure Msg where
  slot : Nat
  type : Nat
  msg : Nat
  /-- of a MEM_DATA message: partition, first address, status that ends it -/
  part : Nat := 0
  addr : Nat := 0
  status : Nat := 0
  payload : Bytes
  deriving DecidableEq, Repr

/-- A session (R461, R491-R503). -/
structure Sess where
  isOpen : Bool := false
  secure : Bool := false
  keySlot : Nat := 0
  tag : Nat := 0
  maxPayload : Nat := 8192
  ip : Nat := 0
  port : Nat := 0
  mac : Nat := 0
  /-- next SEQ to send; next SEQ expected; frames beyond a gap -/
  tx : Nat := 1
  rx : Nat := 1
  early : List (Nat × Hdr × FrameBody) := []
  sent : List Sent := []
  hostAck : Nat := 1
  hostWindow : Nat := 256
  unacked : Nat := 0
  opening : Option Opening := none
  asm : Option Asm := none
  kept : List Msg := []
  /-- key slot, REQ_TAG and partition of requests that a warm reset ended (R503) -/
  resetTags : List (Nat × Nat × Nat) := []
  lastReset : Nat := 1
  /-- the UDP port of the module that the session was opened at (R490, R514) -/
  udp : Nat := 0xB9A4
  /-- a flash read for a MEM_READ or MEM_WRITE of the session is late or has failed (R277, R505) -/
  readFail : Bool := false
  events : List EvEntry := []
  nextMsg : Nat := 0
  deriving DecidableEq, Repr

/-- The host port (R485-R488, R513) and its sessions. -/
structure HostPort where
  /-- 0 DOWN, 1 TRAINING, 2 UP, 3 SECURING -/
  state : Nat := 0
  lanes : Nat := 0
  macsecLive : Bool := false
  paused : List Nat := []
  /-- lengths of the IVT frames that wait in the receive buffer, and priorities that XOFF has been sent for (R487) -/
  buf : List Nat := []
  xoff : List Nat := []
  sess : List Sess := List.replicate 16 {}
  deriving DecidableEq, Repr

/-- What stands around a frame to a host: the VLAN ID and PCP of its tag, or none (R486); whether it is MACsec-protected (R488); the addresses
it goes to and the module's UDP port (R490, R491); and of the IVT header TAG, WINDOW and the SACK bits where they are valid (R492, R496). -/
structure Envelope where
  vlan : Option (Nat × Nat)
  macsec : Bool
  mac : Nat
  ip : Nat
  port : Nat
  udp : Nat
  tag : Nat
  window : Nat := 256
  sack : Option Nat := none
  deriving DecidableEq, Repr

/-- Something that left the module. -/
inductive Out where
  /-- a sequenced frame of a session: TYPE, REPLY, LAST, SEQ, ACK, MSG, OFFSET, payload (R492) -/
  | frame (env : Envelope) (sess type : Nat) (reply last : Bool) (seq ack msg offset : Nat) (payload : Bytes)
  /-- an ACK frame: ACK; its SACK bits stand in the envelope -/
  | ack (env : Envelope) (sess ackNo : Nat)
  /-- a SESSION_OPEN frame of the module: kind 1 CHALLENGE, 2 ACCEPT, 3 REFUSE -/
  | openFrame (env : Envelope) (sess kind : Nat) (payload : Bytes)
  /-- ARP, neighbour or echo answers: kind 1, 2, 3; the address answered, a token -/
  | answer (kind ip token : Nat)
  /-- a PFC frame: priority, XOFF -/
  | pfc (priority : Nat) (xoff : Bool)
  /-- a bell message on a port: kind 1 FAULT, 2 ABORT, 3 HELD, 4 HELD cleared, 5 verdict, 6 collective value, 7 bring-up -/
  | bell (port tag kind a b : Nat) (vals : List W32)
  /-- a tub chunk sent on a port (R324) -/
  | chunk (port : Nat) (h : TubHdr) (data : Bytes)
  /-- a piece of a collective (R360): port, partition, COLL_ID, phase, step, offset -/
  | piece (port tag coll phase step offset : Nat) (data : Bytes)
  /-- a flit passed on through a port (R356) -/
  | flit (port : Nat) (f : Flit)
  /-- the peer of a port is asked for a flit of a channel again (R349) -/
  | ask (port ch seq : Nat)
  /-- `n` flits of a channel, from a number on, are sent again; on channel 3 a bell message (R349, R350) -/
  | resent (port ch seq n : Nat)
  /-- a port of a bank is answered (R227-R230): the conflict status or not, and the word that a read or an atomic returns -/
  | portAnswer (port : Nat) (conflict : Bool) (word : Option Bytes)
  deriving DecidableEq, Repr

/-- What waits on a port for the peer's credits or for its turn (R355): its channel, its partition's tag, the flits still to go, its bytes, and
what stands on the wire once the last flit has gone. -/
structure Waiting where
  ch : Nat
  tag : Nat
  left : Nat
  bytes : Nat
  item : Out
  deriving DecidableEq, Repr

/-- A torus port: its state and lanes stand in LNK_STAT, its peer in LNK_PEER. Channels are 0 collective, 1 haulage, 2 service (R355). -/
structure Port where
  /-- the port that the peer answers on (R352) -/
  peerPort : Nat := 0
  /-- spare lanes that have passed their test (R347) -/
  spares : Nat := 4
  /-- LNK_CTRL as the last bring-up or collective to begin found it (R374) -/
  ctrl : Nat := 0x5800
  /-- flits that the peer has room for, per channel (R355) -/
  credits : List Nat := [0, 0, 0]
  wait : List Waiting := []
  /-- the channel, collective or haulage, that sent last; the tag that sent last on each channel (R355) -/
  turn : Nat := 1
  tags : List Nat := [15, 15, 15]
  /-- the numbers of the next flit to send and of the next to accept on each channel (R349) -/
  tx : List Nat := [0, 0, 0]
  rx : List Nat := [0, 0, 0]
  /-- how often running the next flit of each channel has failed its check (R349) -/
  fails : List Nat := [0, 0, 0]
  /-- what the peer last asked for again on each channel, and on the bell lanes (3), and how often running (R349, R350) -/
  asked : List (Nat × Nat) := [(0, 0), (0, 0), (0, 0), (0, 0)]
  deriving DecidableEq, Repr

/-- A haul in flight (R331-R343): its request, the index of its HAUL_SEND, and the execution of the layer that it runs in. -/
structure Haul where
  id : Nat
  req : Nat
  mop : Nat
  part : Nat
  exec : Nat
  /-- this module's own tubs have been sent -/
  sent : Bool := false
  /-- chunks that have landed and go on once they have: DIR, rank of the source, chunk number (R325) -/
  due : List (Nat × Nat × Nat) := []
  /-- visiting tubs that the consumer has merged into the running partial, for each query tile (R334) -/
  merged : List Nat := []
  /-- chunks that have landed: DIR, rank of the source (of a gradient tub: of the destination that formed it), chunk number -/
  got : List (Nat × Nat × Nat) := []
  /-- this module's own gradient tubs have been sent -/
  gradSent : Bool := false
  /-- gradient chunks passed on toward their source: DIR, source rank, chunk number -/
  passed : List (Nat × Nat × Nat) := []
  deriving DecidableEq, Repr

/-- A HELD announcement that stands (R341, R371). -/
structure HeldMark where
  part : Nat
  rank : Nat
  deriving DecidableEq, Repr

/-- A claim on the reduction store of an edge die (R368). -/
structure Claim where
  req : Nat
  mop : Nat
  edge : Nat
  slots : Nat
  granted : Bool
  lapsed : Bool := false
  deriving DecidableEq, Repr

/-- A piece of a collective that has arrived (R360-R371), and values of bell collectives (R373). -/
structure Piece where
  part : Nat
  coll : Nat
  phase : Nat
  step : Nat
  offset : Nat
  data : Bytes
  deriving DecidableEq, Repr

/-- A bell value that has arrived for a phase of a bell collective. -/
structure BellVal where
  part : Nat
  coll : Nat
  axis : Nat
  offset : Nat
  vals : List W32
  deriving DecidableEq, Repr

/-- A collective that has begun (R360-R373): its phase, whether the phase has started, the pieces taken in it as step, offset and bytes,
the parts of its result that it has formed, and a bell collective's present value. -/
structure Coll where
  req : Nat
  mop : Nat
  part : Nat
  coll : Nat
  phase : Nat := 0
  started : Bool := false
  got : List (Nat × Nat × Nat) := []
  formed : List (Nat × Bytes) := []
  /-- elements of OUT whose conversion to OUT's type saturated (R57, R92) -/
  sats : List Nat := []
  val : List W32 := []
  deriving DecidableEq, Repr

/-- A chunk held back on the haulage channel (R333). -/
structure HeldChunk where
  hdr : TubHdr
  data : Bytes
  deriving DecidableEq, Repr

/-- The links, the routers and what runs on them. -/
structure Links where
  ports : List Port := List.replicate 6 {}
  hauls : List Haul := []
  heldMarks : List HeldMark := []
  heldChunks : List HeldChunk := []
  colls : List Coll := []
  claims : List Claim := []
  pieces : List Piece := []
  bells : List BellVal := []
  /-- canary verdict bits that have arrived: partition, rank, bit (R98) -/
  verdicts : List (Nat × Nat × Bool) := []
  /-- ABORT messages of a slice's present jobs that have been sent or passed on: partition, sender's rank, haul (R372) -/
  aborted : List (Nat × Nat × Nat) := []
  /-- FAULT messages of a slice's present job that have been sent or passed on: partition, sender's rank (R372) -/
  faults : List (Nat × Nat) := []
  deriving DecidableEq, Repr

/-- A preparation job (R438): its tally entry WAIT, when that was reached (a rank among jobs), and what its engine has found. -/
structure Job where
  req : Nat
  mop : Nat
  entry : Nat
  sample : Nat
  pos : Nat
  batch : Nat
  part : Nat
  prio : Nat
  wait : Option (Nat × W32)
  reached : Option Nat := none
  engine : Option Nat := none
  /-- REASON bits of a corrupt sample, 0 otherwise; first RESULT other than 0, frames and longest parse time of its segments -/
  reason : Nat := 0
  decResult : Nat := 0
  frames : Nat := 0
  parseUs : Nat := 0
  ended : Bool := false
  deriving DecidableEq, Repr

/-- A sample position of an open batch (R446-R457). -/
structure Pos where
  pos : Nat
  sample : Nat
  ready : Bool := false
  late : Bool := false
  corrupt : Bool := false
  reason : Nat := 0
  slot : Option Nat := none
  join : Option Nat := none
  leave : Option Nat := none
  decResult : Nat := 0
  frames : Nat := 0
  tReady : Nat := 0
  parseUs : Nat := 0
  /-- its final status, once the batch has closed -/
  final : Nat := 0
  /-- its record stands behind its state -/
  stale : Bool := true
  deriving DecidableEq, Repr

/-- An open batch: its record's address, the next STEP, HOLD as STEP 0 met it, and whether a slot has been vacant at a pass. -/
structure Batch where
  id : Nat
  req : Nat
  part : Nat
  va : Nat
  poss : List Pos := []
  step : Nat := 0
  continuous : Bool := false
  hold : Option Nat := none
  vacant : Bool := false
  deriving DecidableEq, Repr

/-- The input pipeline. -/
structure Inp where
  jobs : List Job := []
  batches : List Batch := []
  /-- the next rank of a job whose WAIT is reached -/
  order : Nat := 0
  deriving DecidableEq, Repr

/-- Commands of registers that run on (R556, R566, R579, R586). -/
structure Ctl where
  /-- partition (2) or block (3) reset running, and its target -/
  rst : Option (Nat × Nat) := none
  /-- resets accepted by a REG_WRITE whose reply has not left yet: kind and target (R580) -/
  rstReq : List (Nat × Nat) := []
  /-- SEC command running: OP, ARG, result if the flash write succeeds, session; the writes wait in `secNv` -/
  sec : Option (Nat × Nat × Nat) := none
  secNv : Option Nv := none
  /-- sessions of this key slot are lost once the command is done (R559) -/
  secLose : Option Nat := none
  cal : Option (Nat × Nat) := none
  /-- queue of trace records waiting for the buffer -/
  trace : List Bytes := []
  /-- regions of the last DBG_HALT write that have not yet stopped -/
  haltPending : List Nat := []
  deriving DecidableEq, Repr

/-- The state of the module. -/
structure State where
  pending : List Instr := []
  /-- the MODEL'S own counter of free values; no rule of the spec names it -/
  freeCtr : Nat := 0
  out : List Out := []
  sclk : Word := 0
  boot : Boot := {}
  nv : Nv := {}
  sec : SecStore := {}
  /-- registers whose value differs from the cold value, by ascending byte address -/
  regs : List (Nat × Word) := []
  /-- physical memory bytes other than 0, by ascending physical address (R29) -/
  mem : List Host.Cell := []
  pool : Pool := {}
  ctxs : List Ctx := []
  video : Video := {}
  fab : Fabric := {}
  sched : Sched := {}
  power : Power := {}
  host : HostPort := {}
  links : Links := {}
  inp : Inp := {}
  ctl : Ctl := {}
  deriving DecidableEq, Repr

/-- The machine right after a cold reset has been entered: RESET_N low, PWR_GOOD high and its hold not passed (R543). -/
def State.reset : State := {}

end Sys2Proof.Machine
end

