-- ==== Sys2Proof/Machine/Ops.lean ====
section
/-! DEFINITION. The named operations over the register file, events, tallies, the trace queue, physical memory and
translation. -/

namespace Sys2Proof.Machine

/-! ### Sparse lists in canonical form: keys strictly rising, no entry equal to what an unlisted key reads as. -/

/-- The entry of key `k`, or `d`. -/
def cellGet {α : Type} (l : List (Nat × α)) (k : Nat) (d : α) : α :=
  match l with
  | [] => d
  | (k', v) :: t => if k' == k then v else if k < k' then d else cellGet t k d

/-- Set key `k` to `v`; an entry equal to the unlisted value `d` is removed. -/
def cellSet {α : Type} [DecidableEq α] (l : List (Nat × α)) (k : Nat) (v d : α) : List (Nat × α) :=
  match l with
  | [] => if v = d then [] else [(k, v)]
  | (k', v') :: t =>
    if k < k' then (if v = d then (k', v') :: t else (k, v) :: (k', v') :: t)
    else if k = k' then (if v = d then t else (k, v) :: t)
    else (k', v') :: cellSet t k v d

/-- The canonical form, with a default for each key. -/
def cellWf {α : Type} [DecidableEq α] (d : Nat → α) : List (Nat × α) → Bool
  | [] => true
  | (k, v) :: t => decide (v ≠ d k) && (match t with | [] => true | (k', _) :: _ => decide (k < k')) && cellWf d t

/-! ### Parts of the state. -/

/-- The SCLK count as a number (R537). -/
def now (s : State) : Nat := s.sclk.toNat

/-- Region `r`. -/
def rgn (s : State) (r : Nat) : Region := nth s.fab.rgns r {}

/-- Update region `r`. -/
def modRgn (s : State) (r : Nat) (f : Region → Region) : State :=
  { s with fab := { s.fab with rgns := updNth s.fab.rgns r f } }

/-- Session `i`. -/
def sess (s : State) (i : Nat) : Sess := nth s.host.sess i {}

/-- Update session `i`. -/
def modSess (s : State) (i : Nat) (f : Sess → Sess) : State :=
  { s with host := { s.host with sess := updNth s.host.sess i f } }

/-- Request number `id`. -/
def req? (s : State) (id : Nat) : Option Request := s.sched.reqs.find? (·.id == id)

/-- Update request number `id`. -/
def modReq (s : State) (id : Nat) (f : Request → Request) : State :=
  { s with sched := { s.sched with reqs := updFirst (·.id == id) f s.sched.reqs } }

/-- The requests of a partition in a state. -/
def reqsOf (s : State) (p : Nat) (st : ReqSt) : List Request := s.sched.reqs.filter fun r => r.part == p && r.st == st

/-- The record of macro-op `i` of a request. -/
def mopSt? (r : Request) (i : Nat) : Option MopSt := r.mops.find? (·.idx == i)

/-- Update or add the record of macro-op `i`. -/
def modMop (s : State) (id i : Nat) (f : MopSt → MopSt) : State :=
  modReq s id fun r => { r with mops := updFirst (·.idx == i) f r.mops }

/-- The next free value, and the state with the counter advanced. -/
def takeFree (s : State) (i : Nat) : Nat := Config.free s.freeCtr i

/-- Advance the counter of free values. -/
def bumpFree (s : State) : State := { s with freeCtr := s.freeCtr + 1 }

/-- Add a message to what has left the module. -/
def emit (s : State) (o : Out) : State := { s with out := s.out ++ [o] }

/-- Fold an operation over a list. -/
def forEach {α : Type} (l : List α) (f : State → α → State) (s : State) : State := l.foldl f s

/-! ### Registers (R568). -/

/-- The byte address of a register within the register space. -/
def regAddr (page off : Nat) : Nat := page * 4096 + off

/-- The cold value of a register by its byte address. -/
def coldAt (a : Nat) : Word := BitVec.ofNat 64 (coldReg (a / 4096) (a % 4096))

/-- The value that the register file holds (before any view). -/
def regRaw (s : State) (page off : Nat) : Nat :=
  (cellGet s.regs (regAddr page off) (coldAt (regAddr page off))).toNat

/-- Store a register. -/
def setReg (s : State) (page off v : Nat) : State :=
  { s with regs := cellSet s.regs (regAddr page off) (BitVec.ofNat 64 v) (coldAt (regAddr page off)) }

/-- A field of a register. -/
def fldGet (s : State) (page off hi lo : Nat) : Nat := bits (regRaw s page off) hi lo

/-- A number with its bits [hi:lo] replaced. -/
def withBits (v hi lo x : Nat) : Nat :=
  v % 2 ^ lo + ((x % 2 ^ (hi + 1 - lo)) <<< lo) + ((v >>> (hi + 1)) <<< (hi + 1))

/-- Store a field of a register. -/
def fldSet (s : State) (page off hi lo x : Nat) : State :=
  setReg s page off (withBits (regRaw s page off) hi lo x)

/-- Add to a counter, which stops at 2^64 - 1 (R72). -/
def bump (s : State) (page off n : Nat) : State :=
  { s with regs := if n == 0 then s.regs else (setReg s page off (Nat.min (regRaw s page off + n) (2 ^ 64 - 1))).regs }

/-! ### Partitions and slices. -/

/-- Partition p exists (R462). -/
def partValid (s : State) (p : Nat) : Bool := p < 16 && fldGet s pgSCH (oSCH_PART + 8 * p) 63 63 == 1

/-- The session that owns partition p. -/
def partSess (s : State) (p : Nat) : Nat := fldGet s pgSCH (oSCH_PART + 8 * p) 59 56

/-- CLAIM of partition p, without the fenced regions (R546). -/
def partClaim (s : State) (p r : Nat) : Bool :=
  bit (regRaw s pgSCH (oSCH_PART + 8 * p)) r && !bit (regRaw s pgCAL oCAL_FENCED) r

/-- The regions that belong to partition p, ascending. -/
def partRgns (s : State) (p : Nat) : List Nat := (List.range 48).filter fun r => (rgn s r).owner == some p

/-- The lead region: the lowest-numbered region of the partition. -/
def leadRgn (s : State) (p : Nat) : Option Nat := (partRgns s p).head?

/-- The page of a region. -/
def rgnPage (r : Nat) : Nat := pgRGN + r

/-- The region on whose page what the lead region counts and raises stands: the lead region or, while the partition holds none, the lowest of
its claim (R160; DESIGN CHOICE, log 15). -/
def recordRgn (s : State) (p : Nat) : Option Nat := (leadRgn s p).or ((List.range 48).find? fun r => partClaim s p r)

/-- Count on the lead region's page of a partition. -/
def bumpLead (s : State) (p off n : Nat) : State :=
  match recordRgn s p with
  | some r => bump s (rgnPage r) off n
  | none => s

/-- Session `i` owns partition p. -/
def ownsPart (s : State) (i p : Nat) : Bool := partValid s p && partSess s p == i

/-- The die of a region. -/
def dieOf (r : Nat) : Nat := r / 4

/-- The distance of two compute dies (R12). -/
def dieDist (a b : Nat) : Nat :=
  let c (d : Nat) : Int := (d % 6 : Nat)
  (c a - c b).natAbs + (if (a < 6) == (b < 6) then 0 else 1)

/-- The nearest of a list of dies, the lower number among equals (R12). -/
def nearestDie (a : Nat) (l : List Nat) : Option Nat :=
  (sortBy (fun x y => dieDist a x < dieDist a y || (dieDist a x == dieDist a y && x ≤ y)) l).head?

/-! ### Trace (R584, R585). -/

/-- The trace runs. -/
def tracing (s : State) : Bool := fldGet s pgDBG oDBG_STAT 0 0 == 1

/-- A record joins the trace queue: records of one SCLK count stand in ascending PAGE (R584). -/
def insertTrace (q : List Bytes) (r : Bytes) : List Bytes :=
  let n := q.length - (q.reverse.takeWhile fun x => fld x 0 8 == fld r 0 8 && fld x 0xA 2 > fld r 0xA 2).length
  q.take n ++ r :: q.drop n

/-- Queue a trace record where its kind and partition are enabled; a full queue drops it (R585). -/
def traceRec (s : State) (kind part page tag idx op status code data : Nat) : State :=
  let c := regRaw s pgDBG oDBG_CTRL
  if tracing s && bit c (8 + kind) && (part == 0xFF || bit c (48 + part)) then
    if s.ctl.trace.length ≥ 4096 then bump s pgDBG oDBG_TRACE_DROPS 1
    else
      let r := natLe 8 (now s) ++ natLe 1 kind ++ natLe 1 part ++ natLe 2 page ++ natLe 4 tag ++ natLe 4 idx ++ natLe 1 op
        ++ natLe 1 status ++ natLe 2 code ++ natLe 8 data
      { s with ctl := { s.ctl with trace := insertTrace s.ctl.trace r } }
  else s

/-! ### Events (R511, R573). -/

/-- The event of a page concerns session `i` (R511). -/
def eventConcerns (s : State) (i page : Nat) : Bool :=
  if pgRGN ≤ page && page < pgRGN + 48 then
    (match (rgn s (page - pgRGN)).owner with
      | some p => partSess s p == i
      | none => false)
    || ((sess s i).secure && fldGet s pgIVT (oIVT_SUB + 8 * i) 32 32 == 1)
  else true

/-- Session `i` has asked for the events of a page's block type. -/
def eventWanted (s : State) (i page n : Nat) : Bool :=
  bit (regRaw s pgIVT (oIVT_SUB + 8 * i)) (pageCode page) && !bit (regRaw s page oEVT_MASK) n && eventConcerns s i page

/-- Queue an occurrence: it joins the entry for its code and page while that entry is unacknowledged (R511). -/
def queueEvent (es : List EvEntry) (code page t : Nat) : List EvEntry :=
  if es.any (fun e => e.code == code && e.page == page) then
    updFirst (fun e => e.code == code && e.page == page) (fun e => { e with count := e.count + 1 }) es
  else es ++ [{ code := code, page := page, count := 1, first := t }]

/-- Queue the event of a page for one session, or count it as lost (R502). -/
def eventToSess (page n : Nat) (s : State) (i : Nat) : State :=
  if eventWanted s i page n then
    if (sess s i).isOpen then
      modSess s i fun x => { x with events := queueEvent x.events (pageCode page * 256 + n) page (now s) }
    else bump s pgIVT oIVT_EVENTS_LOST 1
  else s

/-- Raise event `n` of a page (R573). -/
def raise (s : State) (page n : Nat) : State :=
  let s := setReg s page oEVT_RAW (Nat.lor (regRaw s page oEVT_RAW) (2 ^ n))
  let s := bump s page oEVT_COUNT 1
  let s := forEach (List.range 16) (eventToSess page n) s
  let part := if pgRGN ≤ page && page < pgRGN + 48 then ((rgn s (page - pgRGN)).owner).getD 0xFF else 0xFF
  traceRec s 1 part page 0 0xFFFFFFFF 0 0 (pageCode page * 256 + n) 1

/-- Raise an event of the lead region of a partition. -/
def raiseLead (s : State) (p n : Nat) : State :=
  match recordRgn s p with
  | some r => raise s (rgnPage r) n
  | none => s

/-! ### Tallies (R467-R469). -/

/-- The value of a tally. -/
def tally (s : State) (t : Nat) : W32 := cellGet s.fab.tallies t 0

/-- A tally reaches v when (t - v) mod 2^32 < 2^31 (R468). -/
def reached (t v : W32) : Bool := !(t - v).msb

/-- Preparation jobs whose WAIT is reached take their rank (R439). -/
def rankJobs (s : State) : State :=
  let hit (j : Job) : Bool := j.reached.isNone && (match j.wait with | some (t, v) => reached (tally s t) v | none => true)
  if s.inp.jobs.any hit then
    { s with inp := { s.inp with
        jobs := s.inp.jobs.map fun j => if hit j then { j with reached := some s.inp.order } else j
        order := s.inp.order + 1 } }
  else s

/-- Store a tally. -/
def setTally (s : State) (t : Nat) (v : W32) : State :=
  rankJobs { s with fab := { s.fab with tallies := cellSet s.fab.tallies t v 0 } }

/-- Add to a tally modulo 2^32 (R468). -/
def addTally (s : State) (t : Nat) (v : W32) : State := setTally s t (tally s t + v)

/-- Tally `t` lies in the allotment of partition p (R467). -/
def tallyAllotted (s : State) (p t : Nat) : Bool :=
  let v := regRaw s pgSCH (oSCH_TALLY + 8 * p)
  bits v 13 0 ≤ t && t < bits v 13 0 + bits v 30 16

/-- Set every tally of an allotment to 0 (R467). -/
def clearTallies (s : State) (base count : Nat) : State :=
  { s with fab := { s.fab with tallies := s.fab.tallies.filter fun (t, _) => t < base || base + count ≤ t } }

/-! ### Physical memory (R29). -/

/-- The byte at a physical address; an unlisted byte reads 0. -/
def memGet (s : State) (pa : Nat) : Byte := cellGet s.mem pa 0

/-- Store a byte at a physical address. -/
def memSet (s : State) (pa : Nat) (b : Byte) : State := { s with mem := cellSet s.mem pa b 0 }

/-- `n` bytes from a physical address. -/
def memRead (s : State) (pa : Nat) : Nat → Bytes
  | 0 => []
  | n + 1 => memGet s pa :: memRead s (pa + 1) n

/-- Store bytes from a physical address on. -/
def memWrite (s : State) (pa : Nat) : Bytes → State
  | [] => s
  | b :: bs => memWrite (memSet s pa b) (pa + 1) bs

/-- Make every byte of [lo, hi) read 0. -/
def memZero (s : State) (lo hi : Nat) : State :=
  { s with mem := s.mem.filter fun (a, _) => a < lo || hi ≤ a }

/-- Copy a run of bytes between physical addresses that do not overlap. -/
def memCopy (s : State) (src dst n : Nat) : State :=
  let z := memZero s dst (dst + n)
  s.mem.foldl (fun acc (a, b) => if src ≤ a && a < src + n then memSet acc (dst + (a - src)) b else acc) z

/-! The windows of the physical map (R29). -/
def hbmBase (stack : Nat) : Nat := stack * 0x1000000000
abbrev hbmSize : Nat := 0x1000000000
def flashBase (stack : Nat) : Nat := 0x100000000000 + stack * 0x40000000000
def hawkBase (unit : Nat) : Nat := 0x10000000000 + unit * 0x40000
def accBase (unit : Nat) : Nat := 0x10100000000 + unit * 0x20000
def storeBase (cluster : Nat) : Nat := 0x10200000000 + cluster * 0x400000
abbrev regBase : Nat := 0x20000000000

/-- Populated bytes of a flash window (R30). -/
def flashSize (s : State) : Nat := if s.nv.orderA08 then 0x20000000000 else 0x40000000000

/-- A physical address lies in a listed, populated range (R29, R30). -/
def inPhysMap (s : State) (pa : Nat) : Bool :=
  pa < 12 * hbmSize
  || (0x10000000000 ≤ pa && pa < 0x10000000000 + 9216 * 0x40000)
  || (0x10100000000 ≤ pa && pa < 0x10100000000 + 9216 * 0x20000)
  || (0x10200000000 ≤ pa && pa < 0x10200000000 + 576 * 0x400000)
  || (regBase ≤ pa && pa < regBase + 0x300000)
  || (flashBase 0 ≤ pa && pa < flashBase 4 && (pa - flashBase 0) % 0x40000000000 < flashSize s)

/-- The region whose memory a window address names, if any (R29, R32). -/
def windowRgn (pa : Nat) : Option Nat :=
  if 0x10000000000 ≤ pa && pa < 0x10000000000 + 9216 * 0x40000 then some ((pa - 0x10000000000) / 0x40000 / 192)
  else if 0x10100000000 ≤ pa && pa < 0x10100000000 + 9216 * 0x20000 then some ((pa - 0x10100000000) / 0x20000 / 192)
  else if 0x10200000000 ≤ pa && pa < 0x10200000000 + 576 * 0x400000 then some ((pa - 0x10200000000) / 0x400000 / 12)
  else none

/-- Clear the memories of a region with their spare banks (R235): its catches hold nothing, and its test engines have given up the test regions
that they held (R239). -/
def clearRgnMem (s : State) (r : Nat) : State :=
  let s := memZero s (hawkBase (192 * r)) (hawkBase (192 * (r + 1)))
  let s := memZero s (accBase (192 * r)) (accBase (192 * (r + 1)))
  let s := memZero s (storeBase (12 * r)) (storeBase (12 * (r + 1)))
  let s := { s with fab := { s.fab with kept := s.fab.kept.filter fun e => e.cluster / 12 != r } }
  modRgn s r fun x => { x with openSram := false, testing := [] }

/-! ### Virtual addresses (R26-R28) and translation (R264-R266). -/

/-- A virtual address with a reserved bit set (R26). -/
def vaBad (va : Nat) : Bool := va ≥ 2 ^ 60 || (!bit va 59 && bits va 58 48 != 0)

/-- The space of a virtual address as partition p issues it. -/
def vaSpace (p va : Nat) : Space := if bit va 59 then .ctx (bits va 58 43) else .gen p

/-- The offset of a virtual address within its space. -/
def vaOff (va : Nat) : Nat := if bit va 59 then bits va 42 0 else bits va 47 0

/-- Size of an entry's page. -/
def Pte.size (e : Pte) : Nat := if e.small then Config.pageSmall else Config.pageLarge

/-- The entry that maps an offset of a space. -/
def findPte (s : State) (sp : Space) (off : Nat) : Option Pte :=
  s.pool.ptes.find? fun e => e.space == sp && e.va ≤ off && off < e.va + e.size

/-- The entry that maps a virtual address of partition p. -/
def translate (s : State) (p va : Nat) : Option Pte := findPte s (vaSpace p va) (vaOff va)

/-- The byte of a mapped page; a ZERO page reads 0 without reading flash (R264). -/
def pteByte (s : State) (e : Pte) (off : Nat) : Byte := if e.zero then 0 else memGet s (e.pa + (off - e.va))

/-- One byte of virtual memory, if mapped. -/
def vbyte (s : State) (p va : Nat) : Option Byte :=
  (translate s p va).map fun e => pteByte s e (vaOff va)

/-- One byte of virtual memory; an unmapped byte is 0 (its reader has been stopped before, R267). -/
def vget (s : State) (p va : Nat) : Byte := (vbyte s p va).getD 0

/-- `n` bytes of virtual memory. -/
def vread (s : State) (p va : Nat) : Nat → Bytes
  | 0 => []
  | n + 1 => vget s p va :: vread s p (va + 1) n

/-- A little-endian number of `n` bytes in virtual memory. -/
def vnat (s : State) (p va n : Nat) : Nat := leNat (vread s p va n)

/-- The page starts that a range of `n` bytes touches, at the granularity of small pages. -/
def pageSteps (va n : Nat) : List Nat :=
  if n == 0 then []
  else
    let first := va / Config.pageSmall
    let last := (va + n - 1) / Config.pageSmall
    (List.range (last + 1 - first)).map fun i => if i == 0 then va else (first + i) * Config.pageSmall

/-- Every page of a range is mapped. -/
def rangeMapped (s : State) (p va n : Nat) : Bool := (pageSteps va n).all fun a => (translate s p a).isSome

/-- Every page of a range is mapped writable; `w` is the mapping's own W, and an eviction that has cleared it is cancelled by the write (R267, R276). -/
def rangeWritable (s : State) (p va n : Nat) : Bool :=
  (pageSteps va n).all fun a =>
    match translate s p a with
    | some e => e.w && e.image.isNone
    | none => false

/-- A range lies within one space (R129). -/
def rangeInSpace (va n : Nat) : Bool :=
  !vaBad va && vaOff va + n ≤ (if bit va 59 then 2 ^ 43 else 2 ^ 48)

end Sys2Proof.Machine
end

