-- ==== Sys2Proof/Machine/Operands.lean ====
section
/-! DEFINITION. Every operand form: macro-op descriptors, tally entries, tensor descriptors, bucket plans, and the elements
of tensors (R119-R129, R153-R155). -/

namespace Sys2Proof.Machine

/-- A macro-op descriptor (R119). -/
structure Mop where
  opcode : Nat
  flags : Nat
  energy : Nat
  subop : Nat
  reserved : Nat
  tdOut : Nat
  tdA : Nat
  tdB : Nat
  tdC : Nat
  bucket : Nat
  lengths : Nat
  layer : Nat
  coat : Nat
  aux : Nat
  wait0 : Nat
  wait1 : Nat
  signal0 : Nat
  signal1 : Nat
  param : Bytes
  deriving DecidableEq, Repr

/-- Parse the 128 bytes of a descriptor. -/
def parseMop (b : Bytes) : Mop :=
  { opcode := fld b 0 1, flags := fld b 1 1, energy := fld b 2 1, subop := fld b 3 1, reserved := fld b 4 4
    tdOut := fld b 8 8, tdA := fld b 0x10 8, tdB := fld b 0x18 8, tdC := fld b 0x20 8
    bucket := fld b 0x28 8, lengths := fld b 0x30 8, layer := fld b 0x38 8, coat := fld b 0x40 8, aux := fld b 0x48 8
    wait0 := fld b 0x50 8, wait1 := fld b 0x58 8, signal0 := fld b 0x60 8, signal1 := fld b 0x68 8
    param := (b.drop 0x70).take 16 }

/-- Macro-op `i` of a request, read from the partition's memory (R115, R122). -/
def mopOf (s : State) (r : Request) (i : Nat) : Mop := parseMop (vread s r.part (r.list + 128 * i) 128)

/-! Flags (R119). -/
def Mop.layerEnd (m : Mop) : Bool := bit m.flags 0
def Mop.passStart (m : Mop) : Bool := bit m.flags 1
def Mop.narrowA (m : Mop) : Bool := bit m.flags 2
def Mop.gradNorm (m : Mop) : Bool := bit m.flags 3
def Mop.update (m : Mop) : Bool := bit m.flags 4
def Mop.after (m : Mop) : Bool := bit m.flags 5

/-- Energy class (R136). -/
def Mop.cls (m : Mop) : Nat := m.energy % 16

/-- A field of PARAM. -/
def Mop.p (m : Mop) (off n : Nat) : Nat := fld m.param off n

/-- A tally entry (R120): tally and value, `none` for 0xFFFF. -/
def tallyEntry (e : Nat) : Option (Nat × W32) :=
  if bits e 15 0 == 0xFFFF then none else some (bits e 15 0, BitVec.ofNat 32 (bits e 63 32))

/-- The queue of an opcode (table before R116): 0 unit, 1 video, 2 input, 3 link, 4 move, 5 control. -/
def queueOf (op : Nat) : Nat :=
  if op < 0x50 then 0 else if op < 0x60 then 1 else if op < 0x70 then 2 else if op < 0x80 then 3
  else if op < 0x90 then 4 else 5

/-- A tensor descriptor (R124). -/
structure TD where
  base : Nat
  scale : Nat
  ty : Nat
  rank : Nat
  layout : Nat
  tflags : Nat
  size : List Nat
  stride : List Nat
  reserved : Nat
  deriving DecidableEq, Repr

/-- Parse the 64 bytes of a tensor descriptor. -/
def parseTD (b : Bytes) : TD :=
  { base := fld b 0 8, scale := fld b 8 8, ty := fld b 0x10 1, rank := fld b 0x11 1, layout := fld b 0x12 1
    tflags := fld b 0x13 1
    size := (List.range 5).map fun i => fld b (0x14 + 4 * i) 4
    stride := (List.range 5).map fun i => fld b (0x28 + 4 * i) 4
    reserved := fld b 0x3C 4 }

/-- The tensor descriptor at a virtual address. -/
def tdAt (s : State) (p va : Nat) : TD := parseTD (vread s p va 64)

/-- BLOCK_DIM and COMP. -/
def TD.blockDim (t : TD) : Nat := t.layout % 8
def TD.comp (t : TD) : Nat := t.tflags % 4

/-- A size with a run-time dimension replaced (R154). -/
def sizeWith (dims : List Nat) (z : Nat) : Nat := if bit z 31 then nth dims (z % 4) 0 else z

/-- A tensor as a macro-op uses it: its descriptor, its actual sizes, and its sizes at the largest buckets, which fix the
scale array's layout (R127). -/
structure Tns where
  td : TD
  sz : List Nat
  cap : List Nat
  deriving DecidableEq, Repr

/-- Sizes with run-time dimensions at given values. -/
def TD.sizes (t : TD) (dims : List Nat) : List Nat := t.size.map (sizeWith dims)

/-- The largest bucket of each run-time dimension of a plan, 0 where there is none (R153). -/
def largestBuckets (plan : Bytes) : List Nat :=
  (List.range 3).map fun j => if j < fld plan 0 1 then maxNat ((List.range 8).map fun k => fld plan (0x10 + 40 * j + 4 * k) 4) else 0

/-- The smallest bucket at or above a size (R155). -/
def chooseBucket (plan : Bytes) (j n : Nat) : Option Nat :=
  ((List.range 8).map fun k => fld plan (0x10 + 40 * j + 4 * k) 4).find? fun b => b ≠ 0 && n ≤ b

/-- Run-time sizes that the plan's pointers name, read now (R155). -/
def runtimeSizes (s : State) (p : Nat) (plan : Bytes) : List Nat :=
  (List.range (Nat.min (fld plan 0 1) 3)).map fun j => vnat s p (fld plan (8 + 40 * j) 8) 4

/-- The bytes of the bucket plan, empty where there is none. -/
def planOf (s : State) (p : Nat) (m : Mop) : Bytes := if m.bucket == 0 then [] else vread s p m.bucket 128

/-- A tensor named by a descriptor address, at actual sizes `dims` and largest buckets `caps`. -/
def tensor (s : State) (p va : Nat) (dims caps : List Nat) : Tns :=
  let t := tdAt s p va
  { td := t, sz := t.sizes dims, cap := t.sizes caps }

/-- Size along a dimension. -/
def Tns.dim (t : Tns) (d : Nat) : Nat := nth t.sz d 1

/-- An index lies within the tensor's actual sizes (R145). -/
def Tns.has (t : Tns) (ix : List Nat) : Bool := (List.range 5).all fun d => nth ix d 0 < t.dim d

/-- Elements of a tensor. -/
def Tns.count (t : Tns) : Nat := t.sz.foldl (· * ·) 1

/-- The element offset of an index (R126). -/
def elemOff (t : TD) (ix : List Nat) : Nat := sumNat ((List.range 5).map fun d => nth ix d 0 * nth t.stride d 0)

/-- The scale array's sizes (R41, R127): dimensions with stride 0 take no part. -/
def scaleSizes (t : TD) (cap : List Nat) : List Nat :=
  (List.range 5).map fun d =>
    if nth t.stride d 0 == 0 then 1 else if d == t.blockDim then ceilDiv (nth cap d 1) 32 else nth cap d 1

/-- Linear position over sizes, dimension 0 fastest. -/
def linear : List Nat → List Nat → Nat
  | n :: ns, i :: is => i + n * linear ns is
  | _, _ => 0

/-- The index at a linear position. -/
def unlinear : List Nat → Nat → List Nat
  | [], _ => []
  | n :: ns, k => (if n == 0 then 0 else k % n) :: unlinear ns (if n == 0 then 0 else k / n)

/-- Every index of a tensor of the given sizes, dimension 0 fastest. -/
def indices (sz : List Nat) : List (List Nat) := (List.range (sz.foldl (· * ·) 1)).map (unlinear sz)

/-- The position of an index's scale in the scale array. -/
def scaleIdx (t : Tns) (ix : List Nat) : Nat :=
  linear (scaleSizes t.td t.cap)
    ((List.range 5).map fun d =>
      if nth t.td.stride d 0 == 0 then 0 else if d == t.td.blockDim then nth ix d 0 / 32 else nth ix d 0)

/-- The bytes a tensor reads from: a virtual address to its byte. -/
abbrev Reader := Nat → Byte

/-- `n` bytes through a reader. -/
def readN (rd : Reader) (va : Nat) : Nat → Bytes
  | 0 => []
  | n + 1 => rd va :: readN rd (va + 1) n

/-- The bytes of the block that holds element offset `o`. -/
def blockAt (rd : Reader) (t : TD) (o : Nat) : Bytes := readN rd (t.base + o / 32 * blockBytes t.ty) (blockBytes t.ty)

/-- The scale code of an index. -/
def scaleOf (rd : Reader) (t : Tns) (ix : List Nat) : Nat := (rd (t.td.scale + scaleIdx t ix)).toNat

/-- The code of an element, and whether it lies in an invalid KT2 byte. -/
def codeAt (rd : Reader) (t : Tns) (ix : List Nat) : Nat × Bool :=
  let o := elemOff t.td ix
  if tyBlocked t.td.ty then blockCode t.td.ty (blockAt rd t.td o) (o % 32)
  else (leNat (readN rd (t.td.base + o * tyBytes t.td.ty) (tyBytes t.td.ty)), false)

/-- Bytes of a compressed block of 128 elements, and the width Q of its magnitudes (R388). -/
def compBytes (comp : Nat) : Nat := if comp == 1 then 128 else 64
def compQ (comp : Nat) : Nat := if comp == 1 then 6 else 2

/-- Element `i` of the bytes of a compressed block (R388, R390). -/
def compElem (q : Nat) (b : Bytes) (i : Nat) : Num :=
  let e := (nth b (i / 8) 0).toNat
  let at0 := (q + 1) * i
  let f := (fld b (16 + at0 / 8) 2 >>> (at0 % 8)) % 2 ^ (q + 1)
  if e == 0 then Num.zero else .num (bit f q) (f % 2 ^ q) ((e : Int) - 126 - (q : Int))

/-- The element of a compressed tensor at offset `o`. -/
def compVal (rd : Reader) (t : TD) (o : Nat) : Num :=
  compElem (compQ t.comp) (readN rd (t.base + o / 128 * compBytes t.comp) (compBytes t.comp)) (o % 128)

/-- A feature map stored compressed (R388). -/
def TD.compressed (t : TD) : Bool := t.comp == 1 || t.comp == 2

/-- An element's value as it reads, and whether R50 or R51 replaced it. -/
def valAt (c : FmtCtl) (rd : Reader) (t : Tns) (ix : List Nat) : Num × Bool :=
  if tyBlocked t.td.ty then blockVal c t.td.ty (scaleOf rd t ix) (codeAt rd t ix).1
  else if t.td.compressed then (compVal rd t.td (elemOff t.td ix), false)
  else (scalarVal t.td.ty (codeAt rd t ix).1, false)

/-- Special elements and invalid KT2 bytes that reading a tensor at each of a list of indices counts (R50, R51, R55, R72). -/
def readCountsAt (c : FmtCtl) (rd : Reader) (t : Tns) (ixs : List (List Nat)) : Nat × Nat :=
  if !tyBlocked t.td.ty then (0, 0)
  else
    ixs.foldl (fun (a, b) ix =>
      let special := (valAt c rd t ix).2
      let o := elemOff t.td ix
      -- an invalid byte counts once, at its first element that the macro-op reads
      let invalid := t.td.ty == tyKT2 && (codeAt rd t ix).2 && (o % 32) % 5 == 0
        && !(scaleOf rd t ix == 0xFF && !c.zbRead)
      (a + (if special then 1 else 0), b + (if invalid then 1 else 0))) (0, 0)

/-- The same for every index of the tensor. -/
def readCounts (c : FmtCtl) (rd : Reader) (t : Tns) : Nat × Nat := readCountsAt c rd t (indices t.sz)

/-- A block or output group that has been written: its dimension, first index, length, and whether it is saturated. -/
structure Grp where
  dim : Nat
  first : List Nat
  len : Nat
  sat : Bool
  deriving DecidableEq, Repr

/-- What writing a tensor gives: bytes by virtual address, blocks and groups, NaN converted to integers, compressed blocks. -/
structure Written where
  bytes : List (Nat × Byte) := []
  groups : List Grp := []
  nanInt : Nat := 0
  fmap : Nat := 0
  deriving DecidableEq, Repr

/-- Both. -/
def Written.append (a b : Written) : Written := ⟨a.bytes ++ b.bytes, a.groups ++ b.groups, a.nanInt + b.nanInt, a.fmap + b.fmap⟩

/-- Saturated blocks and groups. -/
def Written.sat (w : Written) : Nat := (w.groups.filter (·.sat)).length

/-- Bytes at consecutive addresses. -/
def bytesAt (va : Nat) (bs : Bytes) : List (Nat × Byte) := (List.range bs.length).zipWith (fun i b => (va + i, b)) bs

/-- Indices of one group of `w` elements along dimension `d`. -/
def groupIx (sz : List Nat) (d w : Nat) (ix : List Nat) : List (List Nat) :=
  let i0 := nth ix d 0
  (List.range (Nat.min w (nth sz d 1 - i0))).map fun k => setNth ix d (i0 + k)

/-- The first index of every group of `w` elements along dimension `d`. -/
def groupStarts (sz : List Nat) (d w : Nat) : List (List Nat) := (indices sz).filter fun ix => nth ix d 0 % w == 0

/-- The shared exponent of a group of eight values (R389). -/
def compExp (vs : List Num) : Nat :=
  if vs.any (fun v => !v.finite) then 254
  else (FFmt.bf16.encode true ((vs.foldl maxMag Num.zero).abs)).1 >>> 7

/-- The field of a value under a shared exponent (R389). -/
def compField (q e : Nat) (v : Num) : Nat :=
  let sgn (n : Bool) (m : Nat) : Nat := m + if n && m != 0 then 2 ^ q else 0
  if e == 0 then 0
  else
    match v with
    | .num n m x => sgn n (Nat.min (roundAt m x ((e : Int) - 126 - (q : Int))) (2 ^ q - 1))
    | .inf n => sgn n (2 ^ q - 1)
    | .nan => 2 ^ q - 1

/-- The bytes of a compressed block of up to 128 values; what lies beyond is zero (R388, R389). -/
def compBlock (comp : Nat) (vs : List Num) : Bytes :=
  let q := compQ comp
  let es := (List.range 16).map fun g => compExp ((vs.drop (8 * g)).take 8)
  let fs := (List.range vs.length).map fun i => compField q (nth es (i / 8) 0) (nth vs i Num.zero)
  es.map (BitVec.ofNat 8) ++ natLe (16 * (q + 1)) (packFields (q + 1) fs)

/-- Write the in-bounds elements of a tensor with given values, in the blocks and groups whose first index `keep` admits (R43, R47-R49,
R57, R69, R147, R389, R602). -/
def writeTensorAt (c : FmtCtl) (t : Tns) (keep : List Nat → Bool) (f : List Nat → Num) : Written :=
  let d := t.td.blockDim
  if tyBlocked t.td.ty then
    ((groupStarts t.sz d 32).filter keep).foldl (fun acc ix =>
      let es := groupIx t.sz d 32 ix
      let (k, cs, sat) := encodeBlock c t.td.ty (es.map f)
      let o := elemOff t.td ix
      acc.append { bytes := bytesAt (t.td.base + o / 32 * blockBytes t.td.ty) (packBlock t.td.ty cs)
                     ++ [(t.td.scale + scaleIdx t ix, BitVec.ofNat 8 k)]
                   groups := [⟨d, ix, es.length, sat⟩] }) {}
  else if t.td.compressed then
    ((groupStarts t.sz 0 128).filter keep).foldl (fun acc ix =>
      let vs := (groupIx t.sz 0 128 ix).map f
      acc.append { bytes := bytesAt (t.td.base + elemOff t.td ix / 128 * compBytes t.td.comp) (compBlock t.td.comp vs)
                   groups := [⟨0, ix, vs.length, vs.any fun v => !v.finite⟩]
                   fmap := 1 }) {}
  else
    ((groupStarts t.sz 0 32).filter keep).foldl (fun acc ix =>
      let es := (groupIx t.sz 0 32 ix).map fun jx => (jx, scalarCode t.td.ty (f jx))
      acc.append { bytes := (es.map fun (jx, e) =>
                     bytesAt (t.td.base + elemOff t.td jx * tyBytes t.td.ty) (natLe (tyBytes t.td.ty) e.1)).flatten
                   groups := [⟨0, ix, es.length, es.any fun e => e.2.2.1⟩]
                   nanInt := (es.filter fun e => e.2.2.2).length }) {}

/-- Write every in-bounds element. -/
def writeTensor (c : FmtCtl) (t : Tns) (f : List Nat → Num) : Written := writeTensorAt c t (fun _ => true) f

/-- An element converted exactly to FP32 (R58), and whether it went past the FP32 range. -/
def toF32Elem (v : Num) : W32 × Bool := cvtF32 v

/-- Bytes from a tensor's BASE to the end of its last element at the largest buckets (R129, R388). -/
def extentBytes (t : Tns) : Nat :=
  let o := elemOff t.td (t.cap.map fun n => n - 1)
  if tyBlocked t.td.ty then (o / 32 + 1) * blockBytes t.td.ty
  else if t.td.compressed then (o / 128 + 1) * compBytes t.td.comp
  else (o + 1) * tyBytes t.td.ty

/-- Bytes of the scale array. -/
def scaleBytes (t : Tns) : Nat := if tyBlocked t.td.ty then (scaleSizes t.td t.cap).foldl (· * ·) 1 else 0

end Sys2Proof.Machine
end

