-- ==== Sys2Proof/Machine/Slices.lean ====
section
/-! DEFINITION. Coordinates, slice boxes, axis rings and the bell path (R33-R37, R351-R359, R372). Axes are 0 X, 1 Y, 2 Z;
ports are 0 X-, 1 Y-, 2 Z-, 3 X+, 4 Y+, 5 Z+ (R576). -/

namespace Sys2Proof.Machine

/-- The module's coordinate on an axis (RTR_COORD). -/
def coord (s : State) (axis : Nat) : Nat :=
  match axis with
  | 0 => fldGet s pgRTR oRTR_COORD 2 0
  | 1 => fldGet s pgRTR oRTR_COORD 6 4
  | _ => fldGet s pgRTR oRTR_COORD 11 8

/-- The plane's length on an axis (RTR_PLANE). -/
def planeLen (s : State) (axis : Nat) : Nat :=
  match axis with
  | 0 => fldGet s pgRTR oRTR_PLANE 2 0 + 1
  | 1 => fldGet s pgRTR oRTR_PLANE 6 4 + 1
  | _ => fldGet s pgRTR oRTR_PLANE 11 8 + 1

/-- The full length of an axis (R354). -/
def fullLen (axis : Nat) : Nat := if axis == 2 then 16 else 8

/-- A slice box (R35). -/
structure Box where
  valid : Bool
  origin : List Nat
  extent : List Nat
  deriving DecidableEq, Repr

/-- The box that an RTR_SLICE value describes. -/
def boxOf (v : Nat) : Box :=
  { valid := bit v 63
    origin := [bits v 6 4, bits v 10 8, bits v 15 12]
    extent := [bits v 18 16 + 1, bits v 22 20 + 1, bits v 27 24 + 1] }

/-- Partition p's box. -/
def sliceBox (s : State) (p : Nat) : Box := boxOf (regRaw s pgRTR (oRTR_SLICE + 8 * p))

/-- The offset of a coordinate within the box on an axis (R359): modulo the length of the plane along it, which is 8, 8 and 16 in a full
plane (R36; DESIGN CHOICE for a shorter plane, log 92). -/
def boxOff (s : State) (b : Box) (axis c : Nat) : Nat :=
  let l := planeLen s axis
  (c + l - nth b.origin axis 0 % l) % l

/-- The coordinate lies in the box on that axis. -/
def inBoxAxis (s : State) (b : Box) (axis c : Nat) : Bool := boxOff s b axis c < nth b.extent axis 1

/-- A module lies in the box. -/
def inBox (s : State) (b : Box) (x y z : Nat) : Bool :=
  b.valid && inBoxAxis s b 0 x && inBoxAxis s b 1 y && inBoxAxis s b 2 z

/-- The slice rank of the module at given offsets (R36): X fastest. -/
def rankOf (b : Box) (ox oy oz : Nat) : Nat := ox + nth b.extent 0 1 * (oy + nth b.extent 1 1 * oz)

/-- This module's slice rank (R36). -/
def myRank (s : State) (p : Nat) : Nat :=
  let b := sliceBox s p
  rankOf b (boxOff s b 0 (coord s 0)) (boxOff s b 1 (coord s 1)) (boxOff s b 2 (coord s 2))

/-- Modules of the slice. -/
def sliceSize (s : State) (p : Nat) : Nat :=
  let b := sliceBox s p
  nth b.extent 0 1 * nth b.extent 1 1 * nth b.extent 2 1

/-- Axis of a port, and whether it faces higher coordinates. -/
def portAxis (port : Nat) : Nat := port % 3
def portUp (port : Nat) : Bool := port ≥ 3

/-- The coordinate beyond a port on its axis (R352). -/
def beyond (s : State) (port : Nat) : Nat :=
  let l := planeLen s (portAxis port)
  if portUp port then (coord s (portAxis port) + 1) % l else (coord s (portAxis port) + l - 1) % l

/-- The link of a port lies in a box: both its end modules lie in the box, and on an axis whose extent is not the whole
axis, no link wraps from its last module to its first (R356). -/
def linkInBox (s : State) (b : Box) (port : Nat) : Bool :=
  let a := portAxis port
  let u := boxOff s b a (coord s a)
  let n := nth b.extent a 1
  b.valid && inBox s b (coord s 0) (coord s 1) (coord s 2) && n ≥ 2
    && (n == planeLen s a || (if portUp port then u + 1 < n else 0 < u))

/-- LNK_STAT.STATE of a port. -/
def portState (s : State) (port : Nat) : Nat := fldGet s (pgLNK + port) oLNK_STAT 2 0

/-- The port carries traffic of every channel: UP or DEGRADED. -/
def portLive (s : State) (port : Nat) : Bool := portState s port == 3 || portState s port == 4

/-- Ring position of offset `u` on an axis of extent `n` and plane length `l` (R359). -/
def ringPos (n l u : Nat) : Nat := if n == l then u else if u % 2 == 0 then u / 2 else n - 1 - (u - 1) / 2

/-- The offset at ring position `q` (R359). -/
def ringOff (n l q : Nat) : Nat := if n == l then q else if 2 * q < n then 2 * q else 2 * (n - 1 - q) + 1

/-- The port toward an offset on an axis within the box: upward where the offset is higher, and around the ring where the
box fills the axis and the offset wraps. -/
def portToward (n l u v axis : Nat) : Nat :=
  if n == l then (if v == (u + 1) % l then axis + 3 else axis)
  else if v > u then axis + 3 else axis

/-- Send a bell message of a slice out of every port whose link lies in the box, but for the one it came by (R356, R372). -/
def bellFlood (s : State) (p : Nat) (from_ : Option Nat) (kind a b : Nat) (vals : List W32) : State :=
  forEach (List.range 6) (fun s port =>
    if linkInBox s (sliceBox s p) port && portLive s port && from_ != some port then
      bump (emit s (.bell port p kind a b vals)) (pgLNK + port) oLNK_BELL_MSGS 1
    else s) s

/-- Bell kinds. -/
abbrev bellFAULT : Nat := 1
abbrev bellABORT : Nat := 2
abbrev bellHELD : Nat := 3
abbrev bellUNHELD : Nat := 4
abbrev bellVERDICT : Nat := 5
abbrev bellCOLL : Nat := 6

end Sys2Proof.Machine
end

