-- ==== Sys2Proof/Machine/Pool.lean ====
section
/-! DEFINITION. The shared pool: use and quotas, frames, eviction, promotion, allocation and writes (R267-R277, R291). -/

namespace Sys2Proof.Machine

/-! ### Use and quotas (R270, R271). -/

/-- The reservations R_H and R_P of the admitted requests of a partition, in bytes (R272). -/
def reservedH (s : State) (p : Nat) : Nat := sumNat ((reqsOf s p .admitted).map (·.rH))
def reservedP (s : State) (p : Nat) : Nat := sumNat ((reqsOf s p .admitted).map (·.rP))

/-- Bytes of HBM-tier pages charged to p. -/
def hbmPages (s : State) (p : Nat) : Nat := sumNat ((s.pool.ptes.filter fun e => e.owner == p && !e.flash).map Pte.size)

/-- HBM use: pages and R_H (R271). -/
def hbmUse (s : State) (p : Nat) : Nat := hbmPages s p + reservedH s p

/-- Flash use: flash-tier pages but those of images (R271). -/
def flashUse (s : State) (p : Nat) : Nat :=
  sumNat ((s.pool.ptes.filter fun e => e.owner == p && e.flash && e.image.isNone).map Pte.size)

/-- Quotas in bytes. -/
def quotaH (s : State) (p : Nat) : Nat := fldGet s pgPOL (oPOL_QUOTA + 8 * p) 31 0 * 2 ^ 30
def quotaF (s : State) (p : Nat) : Nat := fldGet s pgPOL (oPOL_QUOTA + 8 * p) 63 32 * 2 ^ 30

/-- A stack is left out (R251). -/
def fenced (s : State) (d : Nat) : Bool := fldGet s (pgHBM + d) oHBM_STAT 13 13 == 1

/-- A stack is in the pool: trained and not fenced. -/
def inPool (s : State) (d : Nat) : Bool := fldGet s (pgHBM + d) oHBM_STAT 12 12 == 1 && !fenced s d

/-- The stack is in self refresh: while no partition exists, while its heat holds it, and after the loss of REFCLK (R249, R257, R538). -/
def selfRefresh (s : State) (d : Nat) : Bool :=
  let x := nth s.pool.hbms d {}
  x.hot || x.held || !((List.range 16).any (partValid s))

/-- A stack that the partition has a page in is in self refresh: what its macro-ops access waits (log 109). -/
def stackWaits (s : State) (p : Nat) : Bool :=
  s.pool.ptes.any fun e => e.owner == p && !e.flash && selfRefresh s (e.pa / hbmSize)

/-- Capacity of the pool in GiB (R270): HBM of every stack not fenced, and the pool area of flash (R259). -/
def capHbm (s : State) : Nat := 62 * ((List.range 12).filter fun d => !fenced s d).length
def capFlash (s : State) : Nat := 4 * (flashSize s / 2 ^ 30 - 16 - s.nv.area * 16)

/-! ### Frames. -/

/-- A frame of `size` bytes at `pa` overlaps one that is in use or waits to be zeroed. -/
def frameBusy (s : State) (pa size : Nat) : Bool :=
  let hit (a n : Nat) : Bool := a < pa + size && pa < a + n
  s.pool.ptes.any (fun e => hit e.pa e.size || (match e.home with | some h => hit h e.size | none => false))
    || s.pool.dirty.any fun (a, small) => hit a (if small then Config.pageSmall else Config.pageLarge)

/-- The first free frame at or after frame number `i` of `n`, going round, among `fuel` frames. -/
def scanFrames (s : State) (place : Nat → Option Nat) (size n : Nat) : Nat → Nat → Option Nat
  | 0, _ => none
  | fuel + 1, i =>
    match place (i % n) with
    | some pa => if frameBusy s pa size then scanFrames s place size n fuel (i + 1) else some pa
    | none => scanFrames s place size n fuel (i + 1)

/-- HBM frame number to address: 62 GiB of each stack in the pool that takes accesses (R257, R270). -/
def hbmPlace (s : State) (size i : Nat) : Option Nat :=
  let per := 62 * 2 ^ 30 / size
  if inPool s (i / per) && !selfRefresh s (i / per) then some (hbmBase (i / per) + i % per * size) else none

/-- Flash frame number to address: the pool area of each stack that accepts writes (R259, R260). -/
def flashPlace (s : State) (size i : Nat) : Option Nat :=
  let lo := (16 + s.nv.area * 16) * 2 ^ 30
  let per := (flashSize s - lo) / size
  if per == 0 || i / per ≥ 4 || nth s.nv.flashReadOnly (i / per) true then none
  else some (flashBase (i / per) + lo + i % per * size)

/-- A zeroed HBM frame: which one is open (log 7). -/
def findHbm (s : State) (size : Nat) : Option Nat :=
  let n := 12 * (62 * 2 ^ 30 / size)
  scanFrames s (hbmPlace s size) size n n (takeFree s 0)

/-- A flash frame: which one is open (log 7). -/
def findFlash (s : State) (size : Nat) : Option Nat :=
  let n := 4 * ((flashSize s - (16 + s.nv.area * 16) * 2 ^ 30) / size)
  scanFrames s (flashPlace s size) size n n (takeFree s 1)

/-- Update the entry of a page. Every change of an entry is a shootdown (R268); its callers count them. -/
def modPte (s : State) (sp : Space) (va : Nat) (f : Pte → Pte) : State :=
  { s with pool := { s.pool with ptes := updFirst (fun e => e.space == sp && e.va == va) f s.pool.ptes } }

/-- Put a freed HBM frame on the list to be zeroed (R269). -/
def freeFrame (s : State) (e : Pte) : State :=
  if e.flash then s else { s with pool := { s.pool with dirty := s.pool.dirty ++ [(e.pa, e.small)] } }

/-- Remove an entry and free its frame. -/
def dropPte (s : State) (e : Pte) : State :=
  freeFrame { s with pool := { s.pool with ptes := s.pool.ptes.filter fun x => !(x.space == e.space && x.va == e.va) } } e

/-! ### Eviction (R275, R276). -/

/-- Unpinned HBM pages of p, oldest age stamp first. -/
def evictable (s : State) (p : Nat) : List Pte :=
  sortBy (fun a b => a.stamp ≤ b.stamp) (s.pool.ptes.filter fun e => e.owner == p && !e.flash && !e.pin && !e.evicting)

/-- The flash frame that an eviction of a dirty page takes: its own flash frame when it has one in a stack that accepts writes, else a free
frame within the flash quota (R260, R275). -/
def evictTarget (s : State) (p : Nat) (e : Pte) : Option Nat :=
  if flashUse s p + e.size > quotaF s p then none
  else
    match e.home with
    | some h => if nth s.nv.flashReadOnly ((h - flashBase 0) / (flashBase 1 - flashBase 0)) true then findFlash s e.size else some h
    | none => findFlash s e.size

/-- Evict one page: a CLEAN page is dropped to its flash copy, a dirty one is written to flash (R275). -/
def evictPage (s : State) (p : Nat) (e : Pte) : Option State :=
  let done (s : State) (pa : Nat) : State :=
    let s := modPte (freeFrame s e) e.space e.va fun x =>
      { x with pa := pa, flash := true, clean := false, home := none, evicting := false, pin := false }
    bump (bump s pgPOL oPOL_EVICTIONS 1) pgPOL oPOL_SHOOTDOWNS 1
  if e.clean && e.home.isSome then some (done s (e.home.getD 0))
  else
    match evictTarget s p e with
    | some pa => some (done (bumpFree (memCopy s e.pa pa e.size)) pa)
    | none => none

/-- Evict the oldest page that can go. -/
def evictOldest (s : State) (p : Nat) : Option State := ((evictable s p).filterMap (evictPage s p)).head?

/-- Evict until `bytes` more fit the HBM quota of p (R275). -/
def makeRoom (s : State) (p bytes : Nat) : Nat → Option State
  | 0 => if hbmUse s p + bytes ≤ quotaH s p then some s else none
  | fuel + 1 =>
    if hbmUse s p + bytes ≤ quotaH s p then some s
    else
      match evictOldest s p with
      | some s' => makeRoom s' p bytes fuel
      | none => none

/-- Room under the quota and a zeroed frame. -/
def takeHbm (s : State) (p size : Nat) : Option (State × Nat) :=
  match makeRoom s p size (evictable s p).length with
  | none => none
  | some s' =>
    match findHbm s' size with
    | some pa => some (bumpFree (memZero s' pa (pa + size)), pa)
    | none => none

/-- Promote a flash-tier page to HBM, copying it in unless ZERO is set (R274). -/
def promote (s : State) (p : Nat) (e : Pte) : Option State :=
  if !e.flash then some s
  else
    match takeHbm s p e.size with
    | none => none
    | some (s, pa) =>
      let s := if e.zero then s else memCopy s e.pa pa e.size
      some (bump (bump (modPte s e.space e.va fun x =>
        { x with pa := pa, flash := false, home := some e.pa, clean := !e.zero, zero := false, stamp := now s, owner := p })
        pgPOL oPOL_PROMOTIONS 1) pgPOL oPOL_SHOOTDOWNS 1)

/-! ### Contexts' extents (R290, R291). -/

/-- Bytes of a segment of 32 positions (R290). -/
def Ctx.seg (c : Ctx) : Nat := c.layers * c.hkv * 66 * c.headDim

/-- The extent of a context (R291). -/
def Ctx.extent (c : Ctx) : Nat := roundUp (ceilDiv c.maxlen 32 * c.seg) Config.pageLarge

/-- The open context of an index. -/
def ctx? (s : State) (i : Nat) : Option Ctx := s.ctxs.find? (·.index == i)

/-- Whether partition p may touch the space of an address: its own general space, or a context that it owns (R28). -/
def mayTouch (s : State) (p va : Nat) : Bool :=
  match vaSpace p va with
  | .gen _ => true
  | .ctx i => match ctx? s i with | some c => c.owner == p | none => true

/-! ### Writes. -/

/-- What making a page writable comes to: done, a broken rule, or no room for now. -/
inductive WriteRes where
  | ok (s : State)
  | bad
  | full

/-- Make the page of a virtual address ready to be written by request `rid` of partition p, or by a host's MEM_WRITE when there
is none (R267, R274-R276). -/
def readyPage (s : State) (rid : Option Nat) (p va : Nat) : WriteRes :=
  match translate s p va with
  | some e =>
    if !e.w || e.image.isSome then .bad
    else
      let s := if e.evicting then modPte s e.space e.va fun x => { x with evicting := false, stamp := now s } else s
      match promote s p { e with evicting := false } with
      | some s => .ok (modPte s e.space e.va fun x => { x with clean := false, zero := false })
      | none => .full
  | none =>
    match vaSpace p va, rid with
    | .ctx i, some id =>
      match ctx? s i with
      | some c =>
        if c.owner == p && vaOff va < c.extent then
          match takeHbm s p Config.pageLarge with
          | some (s, pa) =>
            let e : Pte := { space := .ctx i, va := vaOff va / Config.pageLarge * Config.pageLarge, small := false, pa := pa,
                             stamp := now s, owner := p }
            let s := bump { s with pool := { s.pool with ptes := s.pool.ptes ++ [e] } } pgPOL oPOL_SHOOTDOWNS 1
            .ok (modReq s id fun r => { r with rP := r.rP - Config.pageLarge })
          | none => .full
        else .bad
      | none => .bad
    | _, _ => .bad

/-- Make every page of a range ready. -/
def readyRange (rid : Option Nat) (p : Nat) : List Nat → State → WriteRes
  | [], s => .ok s
  | a :: as, s =>
    match readyPage s rid p a with
    | .ok s => readyRange rid p as s
    | r => r

/-- Store one byte of a page that is ready. -/
def vset (p : Nat) (s : State) (va : Nat) (b : Byte) : State :=
  match translate s p va with
  | some e => memSet s (e.pa + (vaOff va - e.va)) b
  | none => s

/-- Store bytes by virtual address. -/
def vstore (p : Nat) (bs : List (Nat × Byte)) (s : State) : State := bs.foldl (fun s (a, b) => vset p s a b) s

/-- The pages that a list of bytes touches, one address each, in ascending order of first use. -/
def pagesOf (bs : List (Nat × Byte)) : List Nat :=
  bs.foldl (fun acc (a, _) => if acc.any (fun x => x / Config.pageSmall == a / Config.pageSmall) then acc else acc ++ [a]) []

/-- Write bytes by virtual address for a request: all or none (R267, R275). -/
def vwrite (s : State) (rid : Option Nat) (p : Nat) (bs : List (Nat × Byte)) : WriteRes :=
  match readyRange rid p (pagesOf bs) s with
  | .ok s => .ok (vstore p bs s)
  | r => r

/-! ### Counters of traffic whose size depends on placement and caches (log 8). -/

/-- Count on a counter; with each miss of a translation cache a walker walks (R266). -/
def bumpMiss (s : State) (pg off n : Nat) : State :=
  let s := bump s pg off n
  if pg == pgPOL && off == oPOL_TC_MISSES then bump s pgPOL oPOL_WALKS n else s

/-- Add an open amount to each counter of a list. -/
def bumpOpen (cs : List (Nat × Nat)) (s : State) : State :=
  bumpFree ((List.range cs.length).zip cs |>.foldl (fun s' (i, (pg, off)) => bumpMiss s' pg off (takeFree s (16 + i))) s)

/-- Counters of the stacks, the dies and the pool that memory traffic moves (R581 and the tables of chapter 8). -/
def trafficCounters : List (Nat × Nat) :=
  ((List.range 12).map fun d => [(pgHBM + d, oHBM_RD_BYTES), (pgHBM + d, oHBM_WR_BYTES), (pgHBM + d, oHBM_NARROW),
      (pgHBM + d, oHBM_CORR), (pgHBM + d, oHBM_RETRY),
      (pgDIE + d, oDIE_D2D_TX_BYTES), (pgDIE + d, oDIE_D2D_RX_BYTES), (pgDIE + d, oDIE_D2D_RETRY)]).flatten
    ++ ((List.range 4).map fun n => [(pgFLS + n, oFLS_RD_BYTES), (pgFLS + n, oFLS_WR_BYTES), (pgFLS + n, oFLS_READ_RETRY)]).flatten
    ++ [(pgPOL, oPOL_TC_MISSES)]

end Sys2Proof.Machine
end

