-- ==== Sys2Proof/Machine/Batches.lean ====
section
/-! DEFINITION. Batches: the batch record, sample records, and what the assembler takes from the segments that end (R445-R448, R455-R457). -/

namespace Sys2Proof.Machine

/-- A batch record (R445). -/
structure BatchRec where
  id : Nat
  nslot : Nat
  passes : Nat
  maxSteps : Nat
  bflags : Nat
  nqueue : Nat
  list : Nat
  records : Nat
  lt : Nat
  passIdx : Nat
  joinCount : Nat
  joinMap : Nat
  leaveCount : Nat
  leaveMap : Nat
  jmax : Nat
  nrefs : Nat
  tokens : Nat
  ctxBase : Nat
  refs : Nat
  deriving DecidableEq, Repr

/-- The record at an address. -/
def batchRec (s : State) (p va : Nat) : BatchRec :=
  let b := vread s p va 128
  { id := fld b 0 4, nslot := fld b 4 2, passes := fld b 6 2, maxSteps := fld b 8 2, bflags := fld b 0xA 1, nqueue := fld b 0xC 4
    list := fld b 0x10 8, records := fld b 0x18 8, lt := fld b 0x20 8, passIdx := fld b 0x28 8, joinCount := fld b 0x30 8
    joinMap := fld b 0x38 8, leaveCount := fld b 0x40 8, leaveMap := fld b 0x48 8, jmax := fld b 0x50 2, nrefs := fld b 0x52 2
    tokens := fld b 0x54 4, ctxBase := fld b 0x58 2, refs := fld b 0x60 8 }

/-- Positions of a batch, and the sample index of one. -/
def BatchRec.count (r : BatchRec) : Nat := r.nslot + r.nqueue
def BatchRec.sample (r : BatchRec) (s : State) (p i : Nat) : Nat := vnat s p (r.list + 4 * i) 4

/-- A sample position that stands in a slot now. -/
def Pos.running (q : Pos) : Bool := q.join.isSome && q.leave.isNone

/-- STATUS of a sample record (R455): the final status, or how far the sample has come. A sample that has left has its status. -/
def Pos.status (q : Pos) : Nat :=
  if q.final != 0 then q.final
  else if q.corrupt then 3
  else if q.running then 5
  else if q.late then 2
  else if q.leave.isSome then 1
  else 0

/-- A sample record (R455). -/
def Pos.bytes (q : Pos) : Bytes :=
  natLe 4 q.sample ++ natLe 1 q.status ++ natLe 1 q.reason ++ natLe 2 (q.slot.getD 0xFFFF) ++ natLe 2 (q.join.getD 0xFFFF)
    ++ natLe 2 (q.leave.getD 0xFFFF) ++ natLe 1 q.decResult ++ zeros 1 ++ natLe 2 q.frames ++ natLe 8 q.tReady ++ natLe 4 q.parseUs ++ zeros 4

/-- The final status of a sample when its batch closes (R456, R457). -/
def Pos.outcome (q : Pos) : Nat := if q.corrupt then 3 else if q.leave.isSome then (if q.late then 2 else 1) else 4

/-- A sample that takes its final status; `bit_` is the bit of REASON that a dropped one gets. -/
def Pos.finish (bit_ : Nat) (q : Pos) : Pos :=
  { q with final := q.outcome, reason := if q.outcome == 4 then Nat.lor q.reason (2 ^ bit_) else q.reason, stale := true }

/-- The counters and events of final statuses (R460). -/
def countFinal (s : State) (qs : List Pos) : State :=
  let n (k : Nat) : Nat := (qs.filter (·.final == k)).length
  let s := bump (bump (bump s pgINP oINP_LATE (n 2)) pgINP oINP_CORRUPT (n 3)) pgINP oINP_DROPPED (n 4)
  forEach (List.range (n 4)) (fun s _ => raise s pgINP 4) s

/-- The records of positions that stand behind their state. -/
def recordBytes (base : Nat) (qs : List Pos) : List (Nat × Byte) :=
  ((qs.filter (·.stale)).map fun q => bytesAt (base + 32 * q.pos) q.bytes).flatten

/-- A batch whose request ends before STEP MAX_STEPS has completed (R457); with ST_FAULT no record is written. -/
def endBatch (s : State) (b : Batch) (fault : Bool) : State :=
  if fault || b.poss.all (·.final != 0) then s
  else
    let qs := b.poss.map (Pos.finish 6)
    let s := match vwrite s (some b.req) b.part (recordBytes (batchRec s b.part b.va).records (qs.filter (·.final == 4))) with
      | .ok s => s
      | _ => s
    countFinal s qs

/-! ### What the assembler takes from segments (R446-R448). -/

/-- Update the positions of a partition's open batches that carry a sample index. -/
def modSample (s : State) (p sample : Nat) (f : Pos → Pos) : State :=
  { s with inp := { s.inp with batches := s.inp.batches.map fun b =>
      if b.part == p then { b with poss := b.poss.map fun q => if q.sample == sample && q.final == 0 then f q else q } else b } }

/-- A position of a partition's open batches that is pending satisfies nothing yet: not ready, late or corrupt. -/
def Pos.pending (q : Pos) : Bool := !q.ready && !q.late && !q.corrupt

/-- A pending sample becomes late, with a bit of REASON (R448); one that is late already keeps the cause too. -/
def Pos.makeLate (bit_ : Nat) (q : Pos) : Pos :=
  if q.ready || q.corrupt then q else { q with late := true, reason := Nat.lor q.reason (2 ^ bit_), stale := true }

/-- The running mean of partition p (R447). -/
def parseMean (s : State) (p : Nat) : Nat := fldGet s pgINP (oINP_MEAN + 8 * p) 31 0

/-- A segment with RESULT 0 moves the mean: its parse time in µs, capped at the budget (R447). -/
def noteMean (s : State) (p us : Nat) : State :=
  let mu := parseMean s p
  let t := Nat.min us (Nat.max 1 (fldGet s pgINP oINP_CTRL 47 40) * mu)
  fldSet s pgINP (oINP_MEAN + 8 * p) 31 0 (((mu : Int) + ((t : Int) - mu) / 16).toNat)

/-- A segment of partition p has ended: what it leaves on its sample (R446, R455). `cycles` are its VCLK cycles of parsing. -/
def noteSegment (s : State) (p sample result frames cycles : Nat) : State :=
  let us := cycles / 850
  let s := if result == 0 then noteMean s p us else s
  modSample s p sample fun q => { q with
    decResult := if q.decResult == 0 then result else q.decResult
    frames := q.frames + frames, parseUs := Nat.max q.parseUs us, stale := true }

end Sys2Proof.Machine
end

