-- ==== Sys2Proof/Machine/Send.lean ====
section
/-! DEFINITION. What a session sends (R492-R497, R502). -/

namespace Sys2Proof.Machine

/-- Frame types (R492). -/
abbrev tSessionOpen : Nat := 0x01
abbrev tRegRead : Nat := 0x02
abbrev tRegWrite : Nat := 0x03
abbrev tMemWrite : Nat := 0x04
abbrev tMemData : Nat := 0x06
abbrev tComplete : Nat := 0x08
abbrev tEvent : Nat := 0x09
abbrev tAttest : Nat := 0x0A

/-- Sequence numbers lie modulo 2^32 (R494). -/
def seqAdd (a n : Nat) : Nat := (a + n) % 2 ^ 32

/-- How far `b` lies after `a` in sequence. -/
def seqDiff (a b : Nat) : Nat := (b + 2 ^ 32 - a % 2 ^ 32) % 2 ^ 32

/-- SACK bits: frames beyond a gap (R496). -/
def sackBits (x : Sess) : Option Nat :=
  if x.early.isEmpty then none
  else some (sumNat ((List.range 32).map fun k => flag (x.early.any fun e => e.1 == seqAdd x.rx (k + 1)) k))

/-- The tag of a transmitted frame: VID while TAGGED is 1, VLAN ID 0 while a bit of PFC_EN is set, else none (R486). -/
def vlanOut (s : State) : Option (Nat × Nat) :=
  let pcp := fldGet s pgHPT oHPT_CTRL 6 4
  if fldGet s pgHPT oHPT_VLAN 12 12 == 1 then some (fldGet s pgHPT oHPT_VLAN 11 0, pcp)
  else if fldGet s pgHPT oHPT_CTRL 15 8 != 0 then some (0, pcp)
  else none

/-- What stands around a frame of session i (R486, R488, R490-R492). -/
def envelope (s : State) (i : Nat) : Envelope :=
  let x := sess s i
  { vlan := vlanOut s, macsec := s.host.macsecLive, mac := x.mac, ip := x.ip, port := x.port, udp := x.udp, tag := x.tag, sack := sackBits x }

/-- What stands around a frame that answers an opening from an address (R491, R492, R499). -/
def openEnvelope (s : State) (mac ip port udp tag : Nat) : Envelope :=
  { vlan := vlanOut s, macsec := s.host.macsecLive, mac := mac, ip := ip, port := port, udp := udp, tag := tag }

/-- The message of a sequenced frame as it goes out, with a current ACK (R494). -/
def frameOut (s : State) (i : Nat) (f : Sent) : Out :=
  .frame (envelope s i) i f.type f.reply f.last f.seq (sess s i).rx f.msg f.offset f.payload

/-- The frame lies inside the host's window (R496). -/
def inHostWindow (x : Sess) (f : Sent) : Bool := seqDiff x.hostAck f.seq < x.hostWindow

/-- The host port carries frames: it is UP, and no PFC frame pauses their priority (R487, R513). -/
def canSend (s : State) : Bool :=
  let c := regRaw s pgHPT oHPT_CTRL
  s.host.state == 2 && !(s.host.paused.contains (bits c 6 4) && bit c (8 + bits c 6 4))

/-- Put on the wire every frame that waits for the window, in SEQ order. -/
def pump (s : State) (i : Nat) : State :=
  let x := sess s i
  let ready := x.sent.filter fun f => !f.onWire && inHostWindow x f
  if ready.isEmpty || !canSend s then s
  else
    let s := ready.foldl (fun s f =>
      let s := bump s pgHPT oHPT_TX_FRAMES 1
      let s := bump s pgIVT oIVT_TX_BYTES f.payload.length
      emit s (frameOut s i f)) s
    modSess s i fun x => { x with
      unacked := 0
      sent := x.sent.map fun f => if inHostWindow x f then { f with onWire := true } else f }

/-- The pieces of a payload of at most `m` bytes each, at least one piece (R493). -/
def splitPayload (m : Nat) : Nat → Nat → Bytes → List (Nat × Bytes × Bool)
  | 0, off, bs => [(off, bs, true)]
  | fuel + 1, off, bs =>
    if bs.length ≤ m then [(off, bs, true)]
    else (off, bs.take m, false) :: splitPayload m fuel (off + m) (bs.drop m)

/-- Give frames their sequence numbers. -/
def numberFrames (type : Nat) (reply : Bool) (msg : Nat) : Nat → List (Nat × Bytes × Bool) → List Sent
  | _, [] => []
  | q, (off, b, l) :: t =>
    { seq := q, type := type, reply := reply, last := l, msg := msg, offset := off, payload := b, onWire := false }
      :: numberFrames type reply msg (seqAdd q 1) t

/-- Every session sends what it may. -/
def pumpAll (s : State) : State := forEach (List.range 16) pump s

/-- Send a sequenced message of an open session in frames of at most MAX_PAYLOAD bytes (R493, R494). -/
def sendMsg (s : State) (i type : Nat) (reply : Bool) (msg : Nat) (payload : Bytes) : State :=
  let x := sess s i
  if x.isOpen then
    let parts := splitPayload x.maxPayload payload.length 0 payload
    let fs := numberFrames type reply msg x.tx parts
    pump (modSess s i fun x => { x with tx := seqAdd x.tx fs.length, sent := x.sent ++ fs }) i
  else s

/-- Take a message number of the module's own (R492). -/
def takeMsg (s : State) (i : Nat) : State × Nat :=
  (modSess s i fun x => { x with nextMsg := seqAdd x.nextMsg 1 }, (sess s i).nextMsg)

/-- A MEM_DATA message: each frame carries its own sub-header of 16 bytes (R506, R507). -/
def memDataFrames (part status m : Nat) : Nat → Nat → Nat → Bytes → List (Nat × Bytes × Bool)
  | 0, off, addr, bs => [(off, natLe 8 addr ++ natLe 1 part ++ natLe 1 status ++ zeros 6 ++ bs, true)]
  | fuel + 1, off, addr, bs =>
    if bs.length ≤ m then [(off, natLe 8 addr ++ natLe 1 part ++ natLe 1 status ++ zeros 6 ++ bs, true)]
    else (off, natLe 8 addr ++ natLe 1 part ++ zeros 7 ++ bs.take m, false)
      :: memDataFrames part status m fuel (off + m + 16) (addr + m) (bs.drop m)

/-- Of `n` readable bytes, those that leave in frames of `m` bytes when a page after them ends the message: the frame that reaches that page
carries no data (R507). -/
def framedBytes (m n status : Nat) : Nat := if status == 0 then n else n / m * m

/-- Send bytes of virtual memory to an open session as one MEM_DATA message; the frame that reaches a failed page ends it with the
status and no data (R507). -/
def sendMemData (s : State) (i msg part addr : Nat) (good : Bytes) (status : Nat) : State :=
  let x := sess s i
  let m := x.maxPayload - 16
  let n := framedBytes m good.length status
  let parts :=
    if status == 0 then memDataFrames part 0 m good.length 0 addr good
    else
      (if n == 0 then [] else (memDataFrames part 0 m n 0 addr (good.take n)).map fun (o, b, _) => (o, b, false))
        ++ [(n + 16 * (n / m), natLe 8 (addr + n) ++ natLe 1 part ++ natLe 1 status ++ zeros 6, true)]
  if x.isOpen then
    let fs := numberFrames tMemData false msg x.tx parts
    pump (modSess s i fun x => { x with tx := seqAdd x.tx fs.length, sent := x.sent ++ fs }) i
  else s

/-- Send a COMPLETE or MEM_DATA message under the key slot it belongs to, or keep it for the next opening under that slot (R502). -/
def deliverMsg (s : State) (i : Nat) (m : Msg) : State :=
  if (sess s i).isOpen && (sess s i).keySlot == m.slot then
    if m.type == tMemData then sendMemData s i m.msg m.part m.addr m.payload m.status else sendMsg s i m.type false m.msg m.payload
  else modSess s i fun x => { x with kept := x.kept ++ [m] }

/-- COMPLETE and MEM_DATA messages of a session with an unacknowledged frame, whole, for the next opening (R502). -/
def keepSent (slot : Nat) (fs : List Sent) : List Msg :=
  let ks := fs.filter fun f => f.type == tComplete || f.type == tMemData
  let heads := ks.foldl (fun acc f => if acc.contains (f.type, f.msg) then acc else acc ++ [(f.type, f.msg)]) []
  heads.map fun (t, m) =>
    let mine := ks.filter fun f => f.type == t && f.msg == m
    let first := ((mine.head?).map (·.payload)).getD []
    let lastP := ((mine.getLast?).map (·.payload)).getD []
    if t == tMemData then
      { slot := slot, type := t, msg := m, part := fld first 8 1, addr := fld first 0 8, status := fld lastP 9 1,
        payload := (mine.map fun f => f.payload.drop 16).flatten }
    else { slot := slot, type := t, msg := m, payload := first }

/-- Frames that are still kept after an acknowledgement: every frame of a message with an unacknowledged frame. -/
def dropAcked (fs : List Sent) : List Sent :=
  fs.filter fun f => fs.any fun g => g.type == f.type && g.msg == f.msg && !g.acked

end Sys2Proof.Machine
end

