-- ==== Sys2Proof/Machine/Ends.lean ====
section
/-! DEFINITION. How requests and jobs end: statuses, refusals, haul aborts, FAULT and HELD messages (R7, R123, R160, R339-R351,
R466, R479, R523). -/

namespace Sys2Proof.Machine

/-! Completion statuses (R7). -/
abbrev stDone : Nat := 0x00
abbrev stDoneEmpty : Nat := 0x01
abbrev stDoneShort : Nat := 0x02
abbrev stDoneFallback : Nat := 0x08
abbrev stDoneRepaint : Nat := 0x09
abbrev stShapeOver : Nat := 0x10
abbrev stNoReservation : Nat := 0x11
abbrev stLength : Nat := 0x12
abbrev stDescriptor : Nat := 0x13
abbrev stPartition : Nat := 0x14
abbrev stCanaryPersist : Nat := 0x20
abbrev stTierFail : Nat := 0x21
abbrev stFault : Nat := 0x30
abbrev stReset : Nat := 0x32

/-- A failed check: status, the structure of RGN_LAST_REFUSAL.STRUCT, the byte offset of the failing field. -/
structure Check where
  status : Nat
  struct : Nat
  byte : Nat
  deriving DecidableEq, Repr

/-- Shorthands for failed checks. -/
def badDesc (struct byte : Nat) : Option Check := some ⟨stDescriptor, struct, byte⟩
def badPart (struct byte : Nat) : Option Check := some ⟨stPartition, struct, byte⟩

/-- The first failed check of a list. -/
def firstBad : List (Option Check) → Option Check
  | [] => none
  | none :: cs => firstBad cs
  | some c :: _ => some c

/-- A check that must hold. -/
def need (b : Bool) (c : Option Check) : Option Check := if b then none else c

/-- Opcodes of haulage (R328). -/
def isHaul (op : Nat) : Bool := 0x38 ≤ op && op ≤ 0x3A

/-- The HAUL_ID that a haulage macro-op names (R329, R330). -/
def haulIdOf (s : State) (p : Nat) (m : Mop) : Nat := vnat s p (vnat s p (m.aux + 0x50) 8) 4

/-- The HAUL_IDs that a request lists. -/
def reqHauls (s : State) (r : Request) : List Nat :=
  ((List.range r.nops).filterMap fun i =>
    let m := mopOf s r i
    if isHaul m.opcode then some (haulIdOf s r.part m) else none).eraseDups

/-- A region is halted. -/
def Region.isHalted (x : Region) : Bool := x.halted || x.haltDbg || x.haltAll

/-- A region of partition p is halted, or is pre-empted and not yet restored (R341). -/
def partHalted (s : State) (p : Nat) : Bool :=
  ((partRgns s p).any fun r => (rgn s r).isHalted || (rgn s r).restoring) || s.fab.rgns.any fun g => g.saved.any (·.part == p)

/-- A haul of partition p is in flight (R331). -/
def haulsOf (s : State) (p : Nat) : List Haul := s.links.hauls.filter fun h => h.part == p

/-- The region whose cluster runs unit reductions for an edge die: that of the lowest cluster of the partition on the nearest compute die
that has one (R369). -/
def redRgn (s : State) (p edge : Nat) : Option Nat :=
  let dies := if edge == 0 then [0, 6, 1, 7, 2, 8, 3, 9, 4, 10, 5, 11] else [5, 11, 4, 10, 3, 9, 2, 8, 1, 7, 0, 6]
  dies.findSome? fun d => (partRgns s p).find? fun r => dieOf r == d

/-- Unit reductions of partition p on an edge die pause (R371). -/
def redPaused (s : State) (p edge : Nat) : Bool :=
  match redRgn s p edge with
  | some r => (rgn s r).isHalted || (rgn s r).restoring || (rgn s r).waking
  | none => true

/-- A unit reduction of partition p is paused. -/
def redHeld (s : State) (p : Nat) : Bool :=
  s.links.claims.any fun c => c.lapsed && redPaused s p c.edge
    && (match req? s c.req with | some r => r.part == p | none => false)

/-- Announce HELD for every slice with a haul in flight whose partition has a halted region, or with a paused unit reduction, and
clear the announcement when that is over (R341, R371). -/
def announceHeld (s : State) : State :=
  forEach (List.range 16) (fun s p =>
    let me := myRank s p
    let stands := s.links.heldMarks.any fun h => h.part == p && h.rank == me
    let should := ((partHalted s p && !(haulsOf s p).isEmpty) || redHeld s p) && (sliceBox s p).valid
    if should && !stands then
      bellFlood { s with links := { s.links with heldMarks := s.links.heldMarks ++ [⟨p, me⟩] } } p none bellHELD me 0 []
    else if !should && stands then
      bellFlood { s with links := { s.links with heldMarks := s.links.heldMarks.filter fun h => !(h.part == p && h.rank == me) } }
        p none bellUNHELD me 0 []
    else s) s

/-- Video segments that outlive the end of their request (R423, R458): those that run, unless a memory fault or the job's end stops them. -/
def Seg.outlives (status : Nat) (g : Seg) : Bool := g.running && status != stTierFail && status != stFault

/-- The units that still hold a tile: those of clusters that hold a group. -/
def busyUnits (held : List Held) (us : List UnitRun) : List UnitRun := us.filter fun u => held.any fun h => h.cluster == u.unit / 16

/-- The groups and saved groups of a request are not resumed (R123). -/
def dropGroups (f : Fabric) (id : Nat) : Fabric :=
  let keep (h : Held) : Bool := h.group.req != id
  let held := f.held.filter keep
  { f with
    queue := f.queue.filter (·.req != id)
    held := held
    units := busyUnits held f.units
    kept := f.kept.filter (·.req != id)
    rgns := f.rgns.map fun g => { g with saved := g.saved.map fun v =>
      { v with held := v.held.filter keep, units := busyUnits (v.held.filter keep) v.units, kept := v.kept.filter (·.req != id) } } }

/-- The tensors that the tiles of a macro-op write: OUT, and the statistics and gradients of an attention record (R299). -/
def tileTds (s : State) (p : Nat) (m : Mop) : List Nat :=
  (m.tdOut :: if [0x30, 0x32, 0x39, 0x3A].contains m.opcode then [0x38, 0x40, 0x48].map (fun o => vnat s p (m.aux + o) 8) else []).filter (· != 0)

/-- A range that tiles were writing when they stopped: each byte of its writable pages is open (R123; log 116). -/
def tearRange (p : Nat) (s : State) (r : Nat × Nat) : State :=
  match vwrite s none p (((List.range r.2).filter fun i => (translate s p (r.1 + i)).any (·.w)).map fun i =>
    (r.1 + i, BitVec.ofNat 8 (takeFree s i))) with
  | .ok t => bumpFree t
  | _ => s

/-- What a macro-op was writing when it stopped. -/
def tearMop (r : Request) (s : State) (st : MopSt) : State :=
  let m := mopOf s r st.idx
  forEach (tileTds s r.part m) (fun s va =>
    let t := tensor s r.part va st.sizes (largestBuckets (planOf s r.part m))
    forEach [(t.td.base, extentBytes t), (t.td.scale, scaleBytes t)] (tearRange r.part) s) s

/-- Macro-ops of an ended request that have begun tiles stop at their next tile boundary, and memory holds what they had written: which of the
tiles that is stays open (R123; DESIGN CHOICE, log 116). -/
def tearTiles (s : State) (r : Request) : State :=
  forEach (r.mops.filter fun st => st.tiles && (st.stage == .granted || st.stage == .leave)) (tearMop r) s

/-- A grant that has ended: what it drew is divided by its regions (R526). -/
def Leave.asEnded (l : Leave) : Ended :=
  { req := l.req, mop := l.mop, cls := l.cls, modwide := l.modwide
    peak := l.peak.map fun w => if l.modwide then w else w / Nat.max 1 l.got.length }

/-- Part of a leave request is granted. -/
def Leave.holds (l : Leave) : Bool := if l.modwide then !l.waits else !l.got.isEmpty

/-- The microseconds of waiting that are not yet in DEP_WAIT_US enter it. -/
def countWait (s : State) (l : Leave) : State := if l.waits then bump s pgDEP oDEP_WAIT_US ((now s - l.since) / 510) else s

/-- Leaves go: their waits are counted, and their grants wait for their measurement (R522, R523, R526). -/
def dropLeaves (s : State) (gone : Leave → Bool) : State :=
  let ls := s.power.leaves.filter gone
  let s := forEach ls countWait s
  { s with power := { s.power with
      leaves := s.power.leaves.filter fun l => !gone l
      ended := s.power.ended ++ (ls.filter Leave.holds).map Leave.asEnded } }

/-- End a request with a status (R123, R466): its leave requests and grants go, the tiles that it has begun stop, its groups and engines' work that has not begun are
dropped, its reservations fall with it. What video segments still run goes on under the grant of their VDEC (R421, R458). -/
def endRequest (s : State) (id status idx : Nat) : State :=
  match req? s id with
  | none => s
  | some r =>
    if r.st == .ended then s
    else
      let s := forEach (s.inp.batches.filter (·.req == id)) (fun s b => endBatch s b (status == 0x30)) s
      let s := tearTiles s r
      let s := modReq s id fun r => { r with st := .ended, status := status, failIdx := idx, tEnd := now s, rH := 0, rP := 0 }
      let segs := s.video.segs.filter fun g => g.req != id || g.outlives status
      let lives (l : Leave) : Bool := l.req != id || (!l.waits && segs.any fun g => g.req == id && g.mop == l.mop && !g.ended)
      let s := dropLeaves s fun l => !lives l
      let s := { s with
        fab := dropGroups s.fab id
        video := { s.video with segs := segs, encs := s.video.encs.filter (·.req != id) }
        inp := { s.inp with jobs := s.inp.jobs.filter (·.req != id), batches := s.inp.batches.filter (·.req != id) }
        links := { s.links with
          hauls := s.links.hauls.filter (·.req != id)
          colls := s.links.colls.filter (·.req != id)
          claims := s.links.claims.filter (·.req != id) } }
      traceRec s 4 r.part ((leadRgn s r.part).elim 0 rgnPage) r.tag 0xFFFFFFFF 0 status 0 0

/-- The statuses that end a request without success (R7). -/
def failCodes : List Nat :=
  [stShapeOver, stNoReservation, stLength, stDescriptor, stPartition, stCanaryPersist, stTierFail, stFault, stReset]

/-- Haul aborts that have been sent or passed on are noted, so that each travels once (R372). -/
def noteAborts (s : State) (p rank : Nat) (hs : List Nat) : State :=
  { s with links := { s.links with aborted := (s.links.aborted ++ hs.map fun h => (p, rank, h)).eraseDups } }

/-- Send a haul abort with the HAUL_IDs that a request lists, once for each request, when its status is not ST_FAULT (R339). -/
def sendAbort (s : State) (r : Request) (status : Nat) : State :=
  let hs := reqHauls s r
  if r.told || hs.isEmpty || status == stFault || status ≤ 0x09 then s
  else
    let s := modReq s r.id fun r => { r with told := true }
    bellFlood (noteAborts s r.part (myRank s r.part) hs) r.part none bellABORT (myRank s r.part) status (hs.map (BitVec.ofNat 32))

/-- A request ends under R123. The abort of the hauls that it lists leaves by HAUL_ABORT, or before its COMPLETE message (R339). -/
def failRequest (s : State) (id status idx : Nat) : State :=
  match req? s id with
  | none => s
  | some r => if r.st == .ended then s else announceHeld (endRequest s id status idx)

/-- A failed check of macro-op `idx`: the refusal is recorded on the lead region's page (R123, R160) and the request ends. -/
def refuse (s : State) (id : Nat) (c : Check) (opcode idx : Nat) : State :=
  match req? s id with
  | none => s
  | some r =>
    let s := match recordRgn s r.part with
      | none => s
      | some l =>
        let v := c.status * 2 ^ 56 + (opcode % 256) * 2 ^ 48 + c.struct * 2 ^ 44 + (c.byte % 4096) * 2 ^ 32 + idx % 2 ^ 32
        raise (bump (setReg s (rgnPage l) oRGN_LAST_REFUSAL v) (rgnPage l) oRGN_REFUSALS 1) (rgnPage l) 32
    failRequest s id c.status idx

/-- Discard the saved states of a partition (R479, R549); a region that was restoring one stays cleared, wakes and passes on (R478). -/
def discardSaved (s : State) (p : Nat) : State :=
  { s with fab := { s.fab with rgns := s.fab.rgns.map fun x =>
      let gone := x.restoring && x.owner == some p
      { x with saved := x.saved.filter (·.part != p), restoring := x.restoring && !gone, waking := x.waking || gone } } }

/-- End the job of partition p's slice on this module (R479), without a message. -/
def endJobHere (s : State) (p status : Nat) : State :=
  let ids := (s.sched.reqs.filter fun r => r.part == p && r.st != .ended).map (·.id)
  let s := forEach ids (fun s id => endRequest s id status 0xFFFFFFFF) s
  announceHeld (discardSaved { s with links := { s.links with
    ports := s.links.ports.map fun x => { x with wait := x.wait.filter (·.tag != p) }
    hauls := s.links.hauls.filter (·.part != p)
    heldChunks := s.links.heldChunks.filter fun c => c.hdr.tag != p
    pieces := s.links.pieces.filter (·.part != p)
    bells := s.links.bells.filter (·.part != p) } } p)

/-- End a slice's job with ST_FAULT and send FAULT over the bell path (R351, R479). -/
def jobFault (s : State) (p : Nat) : State :=
  let me := myRank s p
  let s := { s with links := { s.links with faults := s.links.faults.filter (· != (p, me)) ++ [(p, me)] } }
  endJobHere (bellFlood s p none bellFAULT stFault me []) p stFault

/-- A slice's box or a new job begins: messages of the job before are forgotten (R372). -/
def newJob (s : State) (p : Nat) (hauls : List Nat) : State :=
  { s with links := { s.links with
    faults := s.links.faults.filter (·.1 != p)
    aborted := s.links.aborted.filter fun a => !(a.1 == p && hauls.contains a.2.2) } }

/-- End the job of every partition of a list. -/
def jobFaults (s : State) (ps : List Nat) : State := forEach ps jobFault s

/-- A port meets an uncorrectable link error (R351). -/
def linkError (s : State) (port : Nat) : State :=
  let ps := (List.range 16).filter fun p => linkInBox s (sliceBox s p) port
  let wasUp := portLive s port
  let s := fldSet s (pgLNK + port) oLNK_STAT 2 0 5
  let s := raise s (pgLNK + port) 5
  let s := if wasUp then raise s (pgLNK + port) 2 else s
  jobFaults s ps

/-- The highest-numbered success code so far (R7, R109). -/
def earn (s : State) (id code : Nat) : State := modReq s id fun r => { r with status := Nat.max r.status code }

/-- A request waits on memory since now (R275). -/
def markWait (s : State) (id idx : Nat) : State :=
  modMop s id idx fun m => { m with memWait := some (m.memWait.getD (now s)) }

end Sys2Proof.Machine
end

