-- ==== Sys2Proof/Machine/Flags.lean ====
section
/-! DEFINITION. Every flag that the module computes: fields at their places, masks, alert causes, region states, and the counts that
status registers show (R255, R513, R518-R520, R540, R551, R559, R560, R595). -/

namespace Sys2Proof.Machine

/-- A field put at its place. -/
def at_ (v lo : Nat) : Nat := v * 2 ^ lo

/-- The mask of the regions that satisfy `p`. -/
def rgnMask (p : Nat → Bool) : Nat := sumNat ((List.range 48).map fun r => flag (p r) r)

/-- Default gains and default offsets of the calibration in use (R557). -/
def calValid (s : State) : Nat := if s.nv.cal.ok then s.nv.cal.valid else 0
def defaultOffsets (s : State) : Bool := !bit (calValid s) 3
def defaultGains (s : State) : Bool := !bit (calValid s) 4

/-- The deputy's margin (R518). -/
def margin (s : State) : Nat := fldGet s pgDEP oDEP_ENVELOPE 11 0 * (if defaultGains s then 6 else 2) / 100

/-- Watts of a held or waiting leave. -/
def Leave.mw (l : Leave) : Nat := if l.modwide then (if l.waits then 0 else l.each) else l.got.length * l.each

/-- G: the grants held, in mW (R520). -/
def grantedMw (s : State) : Nat := sumNat (s.power.leaves.map Leave.mw)

/-- Rank of leave requests: higher priority first, then the older (R519). -/
def leaveBefore (a b : Leave) : Bool := a.prio > b.prio || (a.prio == b.prio && a.age ≤ b.age)

/-- The leave requests that wait, highest rank first. -/
def waitingLeaves (s : State) : List Leave := sortBy leaveBefore (s.power.leaves.filter fun l => l.waits && (l.modwide || !l.want.isEmpty))

/-- The pace of a compute die (R255, THM_DIE): 0 when tripped. -/
def dieTripped (s : State) (d : Nat) : Bool := bit (regRaw s pgTHM oTHM_STAT) d
def diePace (s : State) (d : Nat) : Nat :=
  if d ≥ 12 then 16
  else if dieTripped s d then 0
  else
    let hbm := if fldGet s (pgHBM + d) oHBM_CTRL 0 0 == 0 then 16 - 2 * fldGet s (pgHBM + d) oHBM_STAT 10 8 else 16
    Nat.min (Nat.min (fldGet s pgTHM (oTHM_DIE + 8 * d) 20 16) (fldGet s pgTHM (oTHM_DIE + 8 * d) 12 8)) hbm

/-- The causes that drive ALERT_N (R513, R540, R566, R595): port, REF_LOST, trip, pace; or no firmware, or a tamper. -/
def alertPort (s : State) : Bool := s.host.state != 2
def alertPace (s : State) : Bool := s.power.slow.take 12 |>.any (· > 10000)
def alertLine (s : State) : Bool :=
  s.boot.pwrGood && (s.boot.phase != .running || alertPort s || fldGet s pgCLK oCLK_STAT 0 0 == 1
    || regRaw s pgTHM oTHM_STAT != 0 || alertPace s)

/-- The key copy in force: the one that checks with the higher counter (R551, R560). -/
def keyCopy (s : State) : Option KeyCopy :=
  match s.nv.keyA.intact, s.nv.keyB.intact with
  | true, true => some (if s.nv.keyB.counter > s.nv.keyA.counter then s.nv.keyB else s.nv.keyA)
  | true, false => some s.nv.keyA
  | false, true => some s.nv.keyB
  | false, false => none

/-- Key slot k as it stands (R559). -/
def keySlot (s : State) (k : Nat) : KeySlot :=
  if k == 0 then
    (match s.nv.life.state with
      | 0 => ⟨2, Config.romKey 4⟩
      | 1 | 2 => ⟨2, s.nv.life.ownerKey⟩
      | 3 => ⟨2, Config.romKey 5⟩
      | _ => {})
  else nth s.sec.slots (k - 1) {}

/-- A session owns a partition that owns an open context or stream context. -/
def sessOwns (s : State) (i owner : Nat) : Bool := ownsPart s i owner

/-- SCH_RGN.STATE. -/
def rgnState (s : State) (r : Nat) : Nat :=
  let x := rgn s r
  if !x.powered then 0
  else if x.restoring then 6
  else if x.isHalted then 3
  else
    match x.owner with
    | some p => if (reqsOf s p .admitted).isEmpty then 1 else 2
    | none => 1

/-- Claims of an edge's reduction store: waiting and free slots (R368). -/
def redFree (s : State) (edge : Nat) : Nat :=
  512 - sumNat ((s.links.claims.filter fun c => c.edge == edge && c.granted).map (·.slots))
def redQueue (s : State) (edge : Nat) : Nat :=
  (s.links.claims.filter fun c => c.edge == edge && !c.granted && !c.lapsed).length

end Sys2Proof.Machine
end

