-- ==== Sys2Proof/Machine/Regions.lean ====
section
/-! DEFINITION. Which partition holds each region (R20-R22, R461-R464, R471-R478), the end of a partition (R289, R405, R463), halts
by the debug block (R586) and the trace buffer (R583-R585). -/

namespace Sys2Proof.Machine

/-- The rank of a partition (R461): that of its admitted requests, which keep the priority of their admission; else that of its session which is in
effect. -/
def partPrio (s : State) (p : Nat) : Nat :=
  match (reqsOf s p .admitted).map (·.prio) with
  | [] => nth s.sched.prios (partSess s p) 0
  | ps => maxNat ps

/-- The claim of p that is in effect names the region. -/
def claims (s : State) (p r : Nat) : Bool := bit (nth s.sched.claims p 0) r

/-- An admission puts the writes of SCH_SESS and SCH_PART into effect (R484). -/
def takeEffect (s : State) : State :=
  { s with sched := { s.sched with
      claims := (List.range 16).map fun p => fldGet s pgSCH (oSCH_PART + 8 * p) 47 0
      prios := (List.range 16).map fun i => fldGet s pgSCH (oSCH_SESS + 8 * i) 2 0 } }

/-- The partition has an admitted request. -/
def partBusy (s : State) (p : Nat) : Bool := !(reqsOf s p .admitted).isEmpty

/-- A region that can run work: powered, awake, not halted, not being restored (R22, R235, R472). -/
def Region.runs (x : Region) : Bool := x.powered && !x.waking && !x.isHalted && !x.restoring

/-- The regions of p that can run work. -/
def runRgns (s : State) (p : Nat) : List Nat := (partRgns s p).filter fun r => (rgn s r).runs

/-- The controls that a region's registers hold now. -/
def regLatch (s : State) (r : Nat) : Latch :=
  let g (o : Nat) : Nat := regRaw s (rgnPage r) o
  { fmt := g oRGN_FMT_CTRL, canary := g oRGN_CANARY_CTRL, band := g oRGN_CANARY_BAND, limits := g oRGN_CANARY_LIMITS
    grad := g oRGN_GRAD_BAND, seq := g oRGN_SEQ_CTRL, flush := g oRGN_SFT_CTRL, mem := g oRGN_MEM_CTRL }

/-- The load of the partition's committed user image into the region's active bank, when it joins or resumes (R203): bank 0 holds it and no
image waits in the shadow bank (DESIGN CHOICE, log 96). -/
def Region.loadTable (x : Region) : Region := { x with staged := false, bankUser := false }

/-- A region that joins a partition: its table is loaded, and its first macro-op there latches its controls (R71, R159, R203). -/
def Region.joins (s : State) (r : Nat) (x : Region) : Region := { x.loadTable with latch := regLatch s r }

/-- Region r goes to partition p without a save: its memories are cleared, and it wakes by R235 (R464). -/
def giveRegion (s : State) (r p : Nat) : State :=
  modRgn (clearRgnMem s r) r fun x =>
    { (x.joins s r) with owner := some p, waking := true, halted := false, restoring := false }

/-- The partition of highest rank, the lowest-numbered among equals, of a list. -/
def bestPart (s : State) (ps : List Nat) : Option Nat :=
  (sortBy (fun a b => partPrio s a > partPrio s b || (partPrio s a == partPrio s b && a ≤ b)) ps).head?

/-- In early service only region 0 of a die may belong to a partition (R545). -/
def rgnOpen (s : State) (r : Nat) : Bool := s.boot.service == 2 || r % 4 == 0

/-- Partitions that may take region r under case 1 of R464, from a holder. -/
def takers (s : State) (r : Nat) (holder : Option Nat) : List Nat :=
  (List.range 16).filter fun p =>
    rgnOpen s r && partValid s p && claims s p r && partBusy s p && holder != some p
      && (match holder with
          | none => true
          | some q => partPrio s q < partPrio s p)

/-- The deputy's HBM stack of a region is out of the pool (R474). -/
def stackFenced (s : State) (r : Nat) : Bool := fenced s (dieOf r)

/-- Case 2 of R464: the region passes to the partition of its most recent saved state, which is then restored. -/
def beginRestore (s : State) (r : Nat) (v : Saved) : State :=
  modRgn (clearRgnMem s r) r fun x => { x with owner := some v.part, restoring := true, waking := false, halted := false }

/-- Take a region that runs work, by pre-emption (R474, R475). -/
def takeRunning (s : State) (r p : Nat) : State :=
  let x := rgn s r
  if x.saved.length ≥ 3 then raise (bump s pgSCH oSCH_SAVE_FULL 1) pgSCH 3
  else if stackFenced s r then s
  else
    let s := { s with sched := { s.sched with preAt := now s } }
    modRgn s r fun x => { x with takenFor := some p }

/-- Decide where region r goes (R464). A region that a debug halt holds is not moved (R586), and a fenced one goes nowhere (R546); a region
being pre-empted passes to a higher partition that claims it meanwhile (R478). -/
def assignRgn (s : State) (r : Nat) : State :=
  let x := rgn s r
  if x.haltDbg || x.restoring || bit (regRaw s pgCAL oCAL_FENCED) r then s
  else
    match x.takenFor with
    | some p =>
      (match bestPart s (takers s r (some p)) with
        | some q => modRgn s r fun x => { x with takenFor := some q }
        | none => s)
    | none =>
      let busy := match x.owner with | some q => partBusy s q | none => false
      let best := bestPart s (takers s r x.owner)
      match (if busy then none else x.saved.getLast?), best with
      | some v, some p => if partPrio s p > partPrio s v.part then giveRegion s r p else beginRestore s r v
      | some v, none => beginRestore s r v
      | none, some p => if busy then takeRunning s r p else giveRegion s r p
      | none, none =>
        if !busy && !((List.range 16).any fun p => partValid s p && claims s p r) then
          modRgn s r fun x => { x with owner := none, waking := false, testing := [] }
        else s

/-- The scheduler places every region (R464). -/
def assign (s : State) : State := forEach (List.range 48) assignRgn s

/-- What a per-region request asks and holds follows the partition's regions (R522). -/
def refreshLeave (s : State) (l : Leave) : Leave :=
  if l.modwide then l
  else
    match req? s l.req with
    | none => l
    | some r =>
      let rs := partRgns s r.part
      let got := l.got.filter rs.contains
      let want := rs.filter fun x => !got.contains x
      { l with got := got, want := want, waits := !want.isEmpty || got.isEmpty, since := if l.waits then l.since else now s }

/-- All of them. -/
def refreshLeaves (s : State) : State :=
  { s with power := { s.power with leaves := s.power.leaves.map (refreshLeave s) } }

/-- A request has ended, or a save or restore is done: regions move and hauls' announcements follow (R464, R341). -/
def settle (s : State) : State := announceHeld (refreshLeaves (assign s))

/-! ### The trace buffer (R583, R585). -/

/-- The buffer lies in a space of its partition, mapped, HBM tier and pinned (R583). -/
def traceBufferOk (s : State) : Bool :=
  let b := regRaw s pgDBG oDBG_TRACE_BASE
  let p := bits b 63 60
  let va := bits b 59 0
  let n := regRaw s pgDBG oDBG_TRACE_SIZE
  partValid s p && n != 0 && n % Config.pageLarge == 0 && va % Config.pageLarge == 0 && rangeInSpace va n
    && (match vaSpace p va with
        | .gen _ => true
        | .ctx i => match ctx? s i with | some c => c.owner == p | none => false)
    && (pageSteps va n).all fun a => match translate s p a with | some e => !e.flash && e.pin | none => false

/-- Tracing stops when its buffer is lost (R585). -/
def traceCheck (s : State) : State :=
  if tracing s && !traceBufferOk s then
    let s := fldSet (fldSet s pgDBG oDBG_CTRL 0 0 0) pgDBG oDBG_STAT 2 0 4
    raise s pgDBG 2
  else s

/-! ### Unmapping and the end of a partition. -/

/-- Drop every entry that satisfies `p`, freeing its frame (R268, R269). -/
def dropPtes (s : State) (p : Pte → Bool) : State := forEach (s.pool.ptes.filter p) (fun s e => dropPte s e) s

/-- Close a context: its pages are unmapped (R287). -/
def closeCtx (s : State) (i : Nat) : State :=
  let s := dropPtes s fun e => e.space == .ctx i
  { s with ctxs := s.ctxs.filter (·.index != i) }

/-- Partition p ceases to exist (R463): regions freed, contexts closed (R289, R405), pages unmapped, quotas 0, its user image gone. -/
def endPartition (s : State) (p : Nat) : State :=
  let s := forEach (partRgns s p) (fun s r => modRgn (clearRgnMem s r) r fun x =>
    { x.loadTable with owner := none, waking := false }) s
  let s := forEach ((s.ctxs.filter (·.owner == p)).map (·.index)) (fun s i => closeCtx s i) s
  let s := { s with
    video := { s.video with vctxs := s.video.vctxs.filter (·.owner != p), segs := s.video.segs.filter (·.part != p) }
    fab := { s.fab with users := setNth s.fab.users p {} }
    links := { s.links with heldMarks := s.links.heldMarks.filter (·.part != p) } }
  let s := dropPtes s fun e => e.owner == p || e.space == .gen p
  traceCheck (setReg s pgPOL (oPOL_QUOTA + 8 * p) 0)

/-! ### Debug halts (R586). -/

/-- The regions halted by debug, as DBG_HALTED shows them. -/
def haltedMask (s : State) : Nat := rgnMask fun r => (rgn s r).haltDbg

/-- DBG_HALT takes the value `m`: bits set begin a halt, which DEBUG_HALTED completes; bits cleared resume at once. -/
def setHalts (s : State) (m : Nat) : State :=
  let s := forEach (List.range 48) (fun s r => if bit m r then s else modRgn s r fun x => { x with haltDbg := false }) s
  let s := { s with ctl := { s.ctl with haltPending := (List.range 48).filter fun r => bit m r && !(rgn s r).haltDbg } }
  settle (setReg s pgDBG oDBG_HALTED (haltedMask s))

/-- Every region of the last write has reached its stop point. -/
def haltsReached (s : State) : State :=
  if s.ctl.haltPending.isEmpty then s
  else
    let s := forEach s.ctl.haltPending (fun s r => modRgn s r fun x => { x with haltDbg := true }) s
    let s := { s with ctl := { s.ctl with haltPending := [] } }
    announceHeld (raise (setReg s pgDBG oDBG_HALTED (haltedMask s)) pgDBG 3)

/-! ### Save slots (R473-R475). -/

/-- The base of save slot `k` of region r (R473). -/
def slotBase (r k : Nat) : Nat := hbmBase (dieOf r) + 0xFA0000000 + (3 * (r % 4) + k) * 0x8000000

/-- Write the region's memories to a slot: hawks, accumulator stores, cluster stores. -/
def saveRgn (s : State) (r k : Nat) : State :=
  let b := slotBase r k
  let s := memCopy s (hawkBase (192 * r)) b 0x3000000
  let s := memCopy s (accBase (192 * r)) (b + 0x3000000) 0x1800000
  memCopy s (storeBase (12 * r)) (b + 0x4800000) 0x3000000

/-- Read them back. -/
def loadRgn (s : State) (r k : Nat) : State :=
  let b := slotBase r k
  let s := memCopy s b (hawkBase (192 * r)) 0x3000000
  let s := memCopy s (b + 0x3000000) (accBase (192 * r)) 0x1800000
  memCopy s (b + 0x4800000) (storeBase (12 * r)) 0x3000000

/-- Bytes of one save or restore (R475). -/
abbrev saveBytes : Nat := 121 * 2 ^ 20

/-- The clusters of a region (R10). -/
def clusterRgn (c : Nat) : Nat := c / 12

/-- The next free slot of a region. -/
def freeSlot (x : Region) : Nat := ((List.range 3).find? fun k => !x.saved.any fun v => v.slot == k).getD 0

/-- Step 3 of R475: the state of the running partition goes to the next free slot, and the grants of the halted region are
released. A partition whose last request has ended meanwhile has no state to save (R464, R478). -/
def saveState (s : State) (r : Nat) : State :=
  let x := rgn s r
  match x.owner with
  | none => s
  | some q =>
    if !partBusy s q then s else
    let k := freeSlot x
    let mine := s.fab.held.filter fun h => clusterRgn h.cluster == r
    let s := saveRgn s r k
    let units := s.fab.units.filter fun u => clusterRgn (u.unit / 16) == r
    let kept := s.fab.kept.filter fun e => clusterRgn e.cluster == r
    let s := modRgn s r fun x => { x with saved := x.saved ++ [{
      part := q, slot := k, openSram := x.openSram, held := mine, units := units, latch := x.latch, kept := kept }] }
    let s := { s with
      fab := { s.fab with
        held := s.fab.held.filter fun h => clusterRgn h.cluster != r
        units := s.fab.units.filter fun u => clusterRgn (u.unit / 16) != r }
      power := { s.power with leaves := s.power.leaves.map fun l =>
        if l.waits || l.modwide then l else { l with got := l.got.filter (· != r) } } }
    bump (bump s pgSCH oSCH_PREEMPTS 1) pgSCH oSCH_SAVE_BYTES saveBytes

/-- Restore a saved state into a region that has been cleared (R235, R475 step 5, R477). -/
def restoreState (s : State) (r : Nat) (v : Saved) : State :=
  let s := loadRgn s r v.slot
  let s := modRgn s r fun x => { x.loadTable with
    owner := some v.part, restoring := false, waking := false, halted := false, powered := true, openSram := v.openSram, latch := v.latch
    saved := x.saved.filter (·.slot != v.slot) }
  let s := { s with fab := { s.fab with held := s.fab.held ++ v.held, units := s.fab.units ++ v.units, kept := s.fab.kept ++ v.kept } }
  raise (bump (bump s pgSCH oSCH_RESTORES 1) pgSCH oSCH_SAVE_BYTES saveBytes) pgSCH 2

/-- Grants that a save has left without a region: the macro-op asks again, with its original age (R477, R522). -/
def dropEmptyGrants (s : State) : State :=
  let gone (l : Leave) : Bool := !l.modwide && !l.waits && l.got.isEmpty
  let lost := s.power.leaves.filter gone
  let s := { s with power := { s.power with leaves := s.power.leaves.map fun l => if gone l then { l with waits := true, since := now s } else l } }
  forEach lost (fun s l => modMop s l.req l.mop fun m => if m.stage == .granted then { m with stage := .leave } else m) s

/-- Step 5 for one region of partition p: its own saved state comes back, or the region begins cleared. -/
def passRegion (s : State) (r p : Nat) : State :=
  let s := clearRgnMem s r
  match (rgn s r).saved.find? (·.part == p) with
  | some v => modRgn (restoreState s r v) r fun x => { x with takenFor := none }
  | none => modRgn s r fun x => { (x.joins s r) with
      owner := some p, takenFor := none, halted := false, waking := false, powered := true }

/-- The mask of a list of regions. -/
def maskOf (rs : List Nat) : Nat := rgnMask fun r => rs.contains r

/-- PREEMPTION: steps 1-6 of R475 for the regions taken for partition p. -/
def preempt (s : State) (p : Nat) : State :=
  let rs := (List.range 48).filter fun r => (rgn s r).takenFor == some p && !(rgn s r).haltDbg
  if rs.isEmpty then s
  else
    let s := announceHeld (forEach rs (fun s r => modRgn s r fun x => { x with halted := true }) s)
    let s := traceRec s 5 p pgSCH 0 0xFFFFFFFF 0 0 0 (maskOf rs + 1 * 2 ^ 48)
    let s := forEach rs (fun s r => saveState s r) s
    let s := dropEmptyGrants s
    let s := forEach rs (fun s r => passRegion s r p) s
    let s := setReg s pgSCH oSCH_LAST_PREEMPT (Nat.min ((now s - s.sched.preAt) / 510) 65535 * 2 ^ 48 + maskOf rs)
    let s := { s with sched := { s.sched with preRgns := rs } }
    let s := traceRec s 5 p pgSCH 0 0xFFFFFFFF 0 0 0 (maskOf rs + 6 * 2 ^ 48)
    settle (raise s pgSCH 1)

/-- REGION_RESTORE: the most recent saved state of a region comes back (R477). -/
def restoreRegion (s : State) (r : Nat) : State :=
  let x := rgn s r
  if !x.restoring then s
  else
    match x.saved.reverse.find? (fun v => x.owner == some v.part) with
    | some v => settle (restoreState s r v)
    | none => modRgn s r fun x => { x with restoring := false, waking := true }

end Sys2Proof.Machine
end

