-- ==== Sys2Proof/Machine/Wire.lean ====
section
/-! DEFINITION. The bulk lanes of a port: the credits, order and turns of its three channels, and flits that are sent again (R349, R355). -/

namespace Sys2Proof.Machine

/-- A port's record. -/
def portOf (s : State) (port : Nat) : Port := nth s.links.ports port {}

/-- Update it. -/
def modPort (s : State) (port : Nat) (f : Port → Port) : State :=
  { s with links := { s.links with ports := setNth s.links.ports port (f (portOf s port)) } }

/-- The port carries a channel: every one when it is UP or DEGRADED, and the service channel when it is TRAINED or MISCABLED too (R352). -/
def portCarries (s : State) (port ch : Nat) : Bool :=
  portLive s port || (ch == 2 && (portState s port == 2 || portState s port == 6))

/-- The edge die of a port: X-, Y- and Z- are E0's, X+, Y+ and Z+ are E1's (R346). -/
def portDie (port : Nat) : Nat := 12 + port / 3

/-- The router passes a channel through a port: the port carries it, and no trip has stopped the router (R531). -/
def routes (s : State) (port ch : Nat) : Bool := portCarries s port ch && !dieTripped s (portDie port)

/-- Bytes arrive on the bulk lanes of a port: how many codewords were corrected on the way is open (R374, log 8). -/
def rxOn (s : State) (port bytes : Nat) : State :=
  bumpOpen [(pgLNK + port, oLNK_FEC_CORR)] (bump s (pgLNK + port) oLNK_RX_BYTES bytes)

/-- Flits of some bytes (R349; log 99). -/
def flitCount (bytes : Nat) : Nat := Nat.max 1 (ceilDiv bytes 256)

/-! ### What goes next (R355). -/

/-- A channel may send: the port carries it, something waits on it, and the peer has room. -/
def Port.ready (carries : Nat → Bool) (x : Port) (ch : Nat) : Bool :=
  carries ch && 0 < nth x.credits ch 0 && x.wait.any (·.ch == ch)

/-- The channel that sends next: service first; collective and haulage in turn. -/
def Port.nextCh (carries : Nat → Bool) (x : Port) : Option Nat :=
  [2, 1 - x.turn, x.turn].find? (x.ready carries)

/-- What sends the next flit of a channel: the oldest of the tag whose turn it is. -/
def Port.nextOn (x : Port) (ch : Nat) : Option Waiting :=
  let mine := x.wait.filter (·.ch == ch)
  let after (w : Waiting) : Nat := (w.tag + 15 - nth x.tags ch 15) % 16
  mine.find? fun w => mine.all fun v => after w ≤ after v

/-- `n` flits of a tag go on a channel. -/
def Port.sends (x : Port) (ch tag n : Nat) : Port :=
  { x with
    credits := setNth x.credits ch (nth x.credits ch 0 - n)
    tx := setNth x.tx ch (nth x.tx ch 0 + n)
    tags := setNth x.tags ch tag
    turn := if ch < 2 then ch else x.turn }

/-- A flit of what waits goes. -/
def Port.pop (x : Port) (w : Waiting) : Port :=
  { x.sends w.ch w.tag 1 with
    wait := if w.left ≤ 1 then x.wait.erase w else updFirst (· == w) (fun v => { v with left := v.left - 1 }) x.wait }

/-- An item leaves a port. -/
def putOut (s : State) (port bytes : Nat) (item : Out) : State := emit (bump s (pgLNK + port) oLNK_TX_BYTES bytes) item

/-- Send what waits on a port, as far as the credits go. -/
def drainFlits (port : Nat) : Nat → State → State
  | 0, s => s
  | n + 1, s =>
    let x := portOf s port
    match (x.nextCh (routes s port)).bind x.nextOn with
    | none => s
    | some w =>
      let t := modPort s port (·.pop w)
      drainFlits port n (if w.left ≤ 1 then putOut t port w.bytes w.item else t)

/-- The same, with every flit that waits. -/
def drainPort (s : State) (port : Nat) : State := drainFlits port (sumNat ((portOf s port).wait.map (·.left))) s

/-- Nothing waits on the port, and the peer has room for an item. -/
def portIdle (s : State) (port ch bytes : Nat) : Bool :=
  (portOf s port).wait.isEmpty && routes s port ch && flitCount bytes ≤ nth (portOf s port).credits ch 0

/-- Hand an item to a port: it goes at once when nothing else waits there, else in its turn (R355, R358). -/
def sendOn (s : State) (port ch tag bytes : Nat) (item : Out) : State :=
  let n := flitCount bytes
  if portIdle s port ch bytes then putOut (modPort s port (·.sends ch tag n)) port bytes item
  else drainPort (modPort s port fun x => { x with wait := x.wait ++ [⟨ch, tag, n, bytes, item⟩] }) port

/-- The peer has room for more flits. -/
def giveCredits (s : State) (port : Nat) (n : List Nat) : State :=
  drainPort (modPort s port fun x => { x with credits := (List.range 3).map fun ch => nth x.credits ch 0 + nth n ch 0 }) port

/-- A write of LNK_CTRL takes effect as a collective begins (R374). -/
def latchLinks (s : State) : State :=
  forEach (List.range 6) (fun s port => modPort s port fun x => { x with ctrl := regRaw s (pgLNK + port) oLNK_CTRL }) s

/-! ### Flits sent again (R349, R350). -/

/-- RETRY_LIMIT in force on a port; on the bell lanes the fifth failure is one too many. -/
def retryLimit (x : Port) (ch : Nat) : Nat := if ch == 3 then 5 else Nat.max 1 (bits x.ctrl 11 8)

/-- Flits that the retry buffer of 4 MiB holds. -/
abbrev retryFlits : Nat := 16384

/-- The peer asks for a flit again: it and every later one of its channel go again from the retry buffer, in the original order. On the bell
lanes a message goes again. The last failure in a row that is allowed makes the port FAILED. -/
def resendFlits (s : State) (port ch seq : Nat) : State :=
  let x := portOf s port
  let n := if ch == 3 then 1 else nth x.tx ch 0 - seq
  let (last, tries) := nth x.asked ch (0, 0)
  let tries := if last == seq then tries + 1 else 1
  if ch > 3 || n == 0 || n > retryFlits then s
  else
    let s := modPort s port fun x => { x with asked := setNth x.asked ch (seq, tries) }
    if tries ≥ retryLimit x ch then linkError s port
    else emit (bump s (pgLNK + port) (if ch == 3 then oLNK_BELL_RETRY else oLNK_RETRY) n) (.resent port ch seq n)

/-- A flit fails its check after correction: the peer is asked for it again. -/
def flitFails (s : State) (port ch : Nat) : State :=
  let n := nth (portOf s port).fails ch 0 + 1
  let s := modPort s port fun x => { x with fails := setNth x.fails ch n }
  if n ≥ retryLimit (portOf s port) ch then linkError s port
  else emit s (.ask port ch (nth (portOf s port).rx ch 0))

/-- The flit that a channel expects has come. -/
def flitCame (s : State) (port ch : Nat) : State :=
  modPort s port fun x => { x with rx := setNth x.rx ch (nth x.rx ch 0 + 1), fails := setNth x.fails ch 0 }

end Sys2Proof.Machine
end

