-- ==== Sys2Proof/Machine/Power.lean ====
section
/-! DEFINITION. Leave to draw, heat and clocks (R516-R542), the die response to HBM heat (R255-R257), and their commands. Sensor readings
come as operands; consecutive readings stand for the spans of time that the rules give (log 14). -/

namespace Sys2Proof.Machine

/-- The module serves: firmware runs and REFCLK has not been lost (R538, R552, R563). -/
def serving (s : State) : Bool := s.boot.phase == .running && fldGet s pgCLK oCLK_STAT 0 0 == 0

/-! ### Leave (R519-R523). -/

/-- The estimate of a class: per region, or for the module, in mW (R137, R519). -/
def estOff (modwide : Bool) (cls : Nat) : Nat := (if modwide then oDEP_EST_MOD else oDEP_EST_RGN) + 8 * cls
def estimate (s : State) (modwide : Bool) (cls : Nat) : Nat := regRaw s pgDEP (estOff modwide cls)

/-- A macro-op asks for the whole module unless it is one of the unit queue that uses units: neither CTX (0x34) nor HAUL_SEND (0x38) does (R519). -/
def asksModwide (m : Mop) : Bool := queueOf m.opcode != 0 || m.opcode == 0x34 || m.opcode == 0x38

/-- The leave request of a macro-op, waiting (R519). -/
def askLeave (s : State) (r : Request) (idx : Nat) : State :=
  let m := mopOf s r idx
  let w := asksModwide m
  let l : Leave := { req := r.id, mop := idx, prio := r.prio, age := now s, cls := m.cls, modwide := w, want := partRgns s r.part, got := [],
                     each := estimate s w m.cls, waits := true, since := now s }
  { s with power := { s.power with leaves := s.power.leaves ++ [l] } }

/-- Update one leave. -/
def modLeave (s : State) (req mop : Nat) (f : Leave → Leave) : State :=
  { s with power := { s.power with leaves := updFirst (fun l => l.req == req && l.mop == mop) f s.power.leaves } }

/-- mW that the grants may still take: E - B - G - M, when the measured draw allows a grant at all (R520). -/
def room (s : State) : Option Nat :=
  let e := fldGet s pgDEP oDEP_ENVELOPE 11 0
  let used := s.power.baseline * 1000 + grantedMw s + margin s * 1000
  if 2 * s.power.draw + margin s > 2 * e || used > e * 1000 then none else some (e * 1000 - used)

/-- The mW of a request at its next grant: its class's estimate as it stands by then, and what a partial grant was made at (R521, R541). -/
def Leave.eachNow (l : Leave) (s : State) : Nat := if l.got.isEmpty then estimate s l.modwide l.cls else l.each

/-- What the deputy grants the head request: nothing, the whole module's leave, or the first regions that fit (R520, R521). -/
def grantable (s : State) (l : Leave) : Option (List Nat) :=
  match room s with
  | none => none
  | some mw =>
    let each := l.eachNow s
    if l.modwide then (if each ≤ mw then some [] else none)
    else
      let n := if each == 0 then l.want.length else Nat.min l.want.length (mw / each)
      if n == 0 then none else some (l.want.take n)

/-- Carry out a grant: the counters and the trace record of kind 6 (R521, R584). -/
def grantLeave (s : State) (l : Leave) (rs : List Nat) : State :=
  let part := !l.modwide && rs.length < l.want.length
  let each := l.eachNow s
  let s := modLeave (countWait s l) l.req l.mop fun l =>
    { l with each := each, since := now s, got := sortBy (· ≤ ·) (l.got ++ rs), want := l.want.drop rs.length, waits := !l.modwide && rs.length < l.want.length }
  let s := bump s pgDEP oDEP_GRANTS 1
  let s := if part then bump s pgDEP oDEP_PARTIALS 1 else s
  match req? s l.req with
  | some r => traceRec s 6 r.part pgDEP r.tag l.mop 0 0 0 ((if l.modwide then each else rs.length * each) / 1000)
  | none => s

/-- A macro-op's grant is released (R522): it waits for its measurement. -/
def releaseLeave (s : State) (req mop : Nat) : State :=
  dropLeaves s fun l => l.req == req && l.mop == mop

/-- The new estimate after a measurement (R526), held in its range. -/
def newEstimate (modwide : Bool) (est o : Nat) : Nat :=
  let e := if o > est then est + (o - est) / 2 else est - (est - o) / 16
  Nat.max 1000 (Nat.min (if modwide then 250000 else 60000) e)

/-- GRANT_RELEASE: a grant that has ended, with the time it was held. Its largest 10-µs average is that of the samples that have shown it, and the
deputy's own measurement `o`, in mW, where they have not shown ten microseconds (R526, log 14). -/
def execGrantRelease (m : MopRef) (o heldUs : Nat) (s : State) : Host.Outcome State Fault Refusal :=
  .next (match s.power.ended.find? (fun e => e.req == m.req && e.mop == m.idx) with
    | none => s
    | some e =>
      let s := { s with power := { s.power with ended := s.power.ended.filter fun e => !(e.req == m.req && e.mop == m.idx) } }
      if heldUs < 10 || e.cls == 0 then s
      else setReg s pgDEP (estOff e.modwide e.cls) (newEstimate e.modwide (estimate s e.modwide e.cls) (e.peak.getD o)))

/-- DEP_WAIT_LONG: raised once for a request that has waited WAIT_WARN; 0 is never (R523). -/
def execDepWaitLong (m : MopRef) (s : State) : Host.Outcome State Fault Refusal :=
  .next (if fldGet s pgDEP oDEP_CTRL 31 0 == 0 then s
    else if s.power.leaves.any (fun l => l.req == m.req && l.mop == m.idx && l.waits && !l.warned) then
      raise (modLeave s m.req m.idx fun l => { l with warned := true }) pgDEP 2
    else s)

/-! ### The clamp (R525, R527). -/

/-- The compute dies that hold a grant. -/
def grantedDies (s : State) : List Nat :=
  (List.range 12).filter fun d => s.power.leaves.any fun l => l.got.any fun r => dieOf r == d

/-- Power pace of a die. -/
def paceP (s : State) (d : Nat) : Nat := fldGet s pgTHM (oTHM_DIE + 8 * d) 20 16
def setPaceP (s : State) (d v : Nat) : State := fldSet s pgTHM (oTHM_DIE + 8 * d) 20 16 v
def paceT (s : State) (d : Nat) : Nat := fldGet s pgTHM (oTHM_DIE + 8 * d) 12 8
def setPaceT (s : State) (d v : Nat) : State := fldSet s pgTHM (oTHM_DIE + 8 * d) 12 8 v

/-- Some compute die's power pace is below 16. -/
def clamped (s : State) : Bool := (List.range 12).any fun d => paceP s d < 16

/-- A region runs no tile: none of its clusters holds a group (R524). -/
def runsNoTile (s : State) (r : Nat) : Bool := !s.fab.held.any fun h => h.cluster / 12 == r

/-- The idle floors after a microsecond: the supply of each region that ran no tile in it, and that of the edge dies and uncores while no module-wide
grant is held (R524; the latter DEDUCED, log 14). -/
def floorsAfter (s : State) (u : Supply) : State :=
  { s with power := { s.power with
      floors := (List.range 48).map fun r => if runsNoTile s r then nth u.regions r 0 else nth s.power.floors r 0
      edgeFloor := if s.power.leaves.any fun l => l.modwide && !l.waits then s.power.edgeFloor else u.edge } }

/-- What is above a floor, shared between grants in proportion to their estimates (R524). -/
def shareOf (above each total : Nat) : Nat := if total == 0 then 0 else above * each / total

/-- A grant's draw in a microsecond, in mW (R524). -/
def grantDraw (s : State) (u : Supply) (l : Leave) : Nat :=
  if l.modwide then
    (if l.waits then 0
      else shareOf (u.edge - s.power.edgeFloor) l.each (sumNat ((s.power.leaves.filter fun x => x.modwide && !x.waits).map (·.each))))
  else
    sumNat (l.got.map fun r => shareOf (nth u.regions r 0 - nth s.power.floors r 0) l.each
      (sumNat ((s.power.leaves.filter fun x => !x.modwide && x.got.contains r).map (·.each))))

/-- The draw of a microsecond enters a grant's record (R526). -/
def Leave.record (l : Leave) (mw : Nat) : Leave :=
  let ds := (mw :: l.draws).take 10
  let avg := sumNat ds / 10
  { l with draws := ds, peak := if ds.length < 10 then l.peak else some (Nat.max avg (l.peak.getD 0)) }

/-- The grants' draws are measured, and with them the baseline: the largest of the connector draw less the draws, in the last 1 ms, and no less than
BASE_MIN (R524, R525). -/
def measure (s : State) (draw : Nat) (u : Supply) : State :=
  let s := floorsAfter s u
  let sum := sumNat (s.power.leaves.map (grantDraw s u))
  let bases := ((draw - sum / 1000) :: s.power.bases).take 1000
  { s with power := { s.power with
      leaves := s.power.leaves.map fun l => l.record (grantDraw s u l), bases := bases
      baseline := Nat.max (maxNat bases) (fldGet s pgDEP oDEP_CTRL 47 32) } }

/-- POWER_SAMPLE: the readings of a microsecond, and the average draw (R517, R524, R525, R527). -/
def execPowerSample (draw : Nat) (supply : Supply) (avg : Nat) (s : State) : Host.Outcome State Fault Refusal :=
  .next (
    let s := measure { s with power := { s.power with draw := draw, avg := avg } } draw supply
    let e := fldGet s pgDEP oDEP_ENVELOPE 11 0
    let s := if draw > e then
        let s := forEach (grantedDies s) (fun s d => setPaceP s d (Nat.max 1 (paceP s d - 1))) s
        if clamped s && !s.power.clamping then raise { s with power := { s.power with clamping := true } } pgDEP 1 else s
      else s
    if clamped s then bump s pgDEP oDEP_CLAMP_US 1 else s)

/-- CLAMP_PACE_RISE: 10 µs of readings below E - M (R527). -/
def execClampPaceRise (s : State) : Host.Outcome State Fault Refusal :=
  .next (
    let s := forEach (List.range 12) (fun s d => setPaceP s d (Nat.min 16 (paceP s d + 1))) s
    if clamped s then s else { s with power := { s.power with clamping := false } })

/-! ### Heat (R529-R532). -/

/-- Degrees that the module acts early with default offsets (R557). -/
def early2 (s : State) : Nat := if defaultOffsets s then 2 else 0

/-- Consecutive readings: count up, or start again. -/
def countIf (b : Bool) (l : List Nat) (i : Nat) : List Nat := setNth l i (if b then nth l i 0 + 1 else 0)

/-- Trip a die (R531): a compute die ends the jobs of the partitions on it; an edge die ends every job and stops its video set. -/
def tripDie (s : State) (d : Nat) : State :=
  let s := setReg s pgTHM oTHM_STAT (Nat.lor (regRaw s pgTHM oTHM_STAT) (2 ^ d))
  let s := raise (bump s pgTHM oTHM_TRIPS 1) pgTHM 2
  if d < 12 then
    settle (jobFaults s ((List.range 16).filter fun p => (partRgns s p).any fun r => dieOf r == d))
  else
    settle (jobFaults { s with video := { s.video with stopped := setNth s.video.stopped (d - 12) true } } ((List.range 16).filter (partValid s)))

/-- DIE_TEMP_READ: a 10-µs reading of a die (R529-R531). A microsecond in which several dies stretch counts once: with the reading of the first. -/
def execDieTempRead (die temp : Nat) (s : State) : Host.Outcome State Fault Refusal :=
  .next (if die ≥ 14 then s
    else
      let s := fldSet s pgTHM (oTHM_DIE + 8 * die) 7 0 temp
      let th := fldGet s pgTHM oTHM_CTRL 7 0 - early2 s
      if dieTripped s die then s
      else if temp + early2 s ≥ 105 then tripDie s die
      else
        let pw := s.power
        let s := { s with power := { pw with hot := countIf (temp ≥ th) pw.hot die, cool := countIf (temp + 2 ≤ th) pw.cool die } }
        let s :=
          if nth s.power.hot die 0 ≥ 10 then
            let s := { s with power := { s.power with hot := setNth s.power.hot die 0 } }
            let began := paceT s die == 16
            let s := setPaceT s die (Nat.max 2 (paceT s die - 2))
            if began then raise s pgTHM 1 else s
          else if nth s.power.cool die 0 ≥ 100 then
            let s := { s with power := { s.power with cool := setNth s.power.cool die 0 } }
            setPaceT s die (Nat.min 16 (paceT s die + 1))
          else s
        let s := { s with power := { s.power with slow := countIf (paceT s die == 2) s.power.slow die } }
        if (List.range 14).find? (fun d => paceT s d < 16 && !dieTripped s d) == some die then bump s pgTHM oTHM_STRETCH_US 10 else s)

/-- TRIP_RESUME: every sensor of a tripped die has read 90 °C or below for 10 ms. The die resumes stretched, and its video and router go on (R531). -/
def execTripResume (die : Nat) (s : State) : Host.Outcome State Fault Refusal :=
  .next (if die < 14 && dieTripped s die then
      let s := setReg s pgTHM oTHM_STAT (regRaw s pgTHM oTHM_STAT - 2 ^ die)
      let s := setPaceT (if paceT s die == 16 then raise s pgTHM 1 else s) die 2
      if die ≥ 12 then
        forEach ((List.range 6).filter fun port => portDie port == die) drainPort
          { s with video := { s.video with stopped := setNth s.video.stopped (die - 12) false } }
      else s
    else s)

/-- COOLANT_READ: raised once per excursion (R532). -/
def execCoolantRead (inlet outlet : Nat) (s : State) : Host.Outcome State Fault Refusal :=
  .next (
    let s := setReg s pgTHM oTHM_COOLANT (outlet % 256 * 256 + inlet % 256)
    let out := inlet < 15 || inlet > 40 || outlet > inlet + 20
    let s := if out && !s.power.coolant then raise s pgTHM 3 else s
    { s with power := { s.power with coolant := out } })

/-! ### Stack temperatures (R255-R257). -/

/-- Update stack record `d`. -/
def modStack (s : State) (d : Nat) (f : Stack → Stack) : State :=
  { s with pool := { s.pool with hbms := updNth s.pool.hbms d f } }

/-- Partitions that have a page in a stack. -/
def partsInStack (s : State) (d : Nat) : List Nat :=
  (List.range 16).filter fun p => s.pool.ptes.any fun e => e.owner == p && !e.flash && e.pa / hbmSize == d

/-- HBM_TEMP_READ: a 100-µs reading of stack d (R255-R257). HBM_STAT: TEMP [7:0], THROTTLE [10:8], TRAF_THROTTLE [11]. -/
def execHbmTempRead (stack temp : Nat) (s : State) : Host.Outcome State Fault Refusal :=
  .next (if stack ≥ 12 then s
    else
      let pg := pgHBM + stack
      let s := fldSet s pg oHBM_STAT 7 0 temp
      let th := fldGet s pg oHBM_CTRL 15 8 - early2 s
      let crit := fldGet s pg oHBM_CTRL 23 16 - early2 s
      let st := nth s.pool.hbms stack {}
      let s :=
        if temp ≥ crit && !st.hot then
          let s := raise (modStack s stack fun x => { x with hot := true }) pg 3
          settle (jobFaults s (partsInStack s stack))
        else if st.hot && temp < th then modStack s stack fun x => { x with hot := false }
        else s
      let t := fldGet s pg oHBM_STAT 10 8
      let mode := fldGet s pg oHBM_CTRL 0 0
      let cool := temp + 2 ≤ th
      let s := modStack s stack fun x => { x with cool := if cool then x.cool + 1 else 0 }
      let s :=
        if temp > th then
          let s := fldSet s pg oHBM_STAT 10 8 (Nat.min 6 (t + 1))
          if t == 0 then raise s pg 1 else s
        else if (nth s.pool.hbms stack {}).cool ≥ 10 then
          fldSet (modStack s stack fun x => { x with cool := 0 }) pg oHBM_STAT 10 8 (t - 1)
        else s
      let t := fldGet s pg oHBM_STAT 10 8
      let s := modStack s stack fun x => { x with atFloor := if t == 6 && mode == 0 then x.atFloor + 1 else 0 }
      let s := if t > 0 || fldGet s pg oHBM_STAT 11 11 == 1 then bump s pg oHBM_THROTTLE_US 100 else s
      let traf := fldGet s pg oHBM_STAT 11 11 == 1
      if traf && cool then fldSet s pg oHBM_STAT 11 11 0
      else if !traf && mode == 0 && (nth s.pool.hbms stack {}).atFloor ≥ 100 && temp ≥ th + 5 then
        raise (fldSet s pg oHBM_STAT 11 11 1) pg 2
      else s)

/-! ### Clocks (R535, R538, R539). -/

/-- SSC_UPDATE: a write of CLK_CTRL takes effect at the turn of the triangle (R535). -/
def execSscUpdate (s : State) : Host.Outcome State Fault Refusal :=
  .next (match s.power.pendingClk with
    | some v => setReg { s with power := { s.power with pendingClk := none } } pgCLK oCLK_CTRL v
    | none => s)

/-- The host port leaves or reaches a state (R513, R515). -/
def setPort (s : State) (st lanes : Nat) : State :=
  let was := s.host.state
  let s := { s with host := { s.host with state := st, lanes := lanes } }
  if was != 2 && st == 2 then pumpAll (raise { s with boot := { s.boot with portWasUp := true } } pgHPT 1)
  else if was == 2 && st != 2 then raise s pgHPT 2
  else s

/-- REFCLK_LOST: the module coasts, halts its regions and its links go down (R538). -/
def execRefclkLost (s : State) : Host.Outcome State Fault Refusal :=
  .next (
    let s := { s with boot := { s.boot with refclk := false } }
    if s.boot.phase != .running || fldGet s pgCLK oCLK_STAT 0 0 == 1 then s
    else
      let s := raise (bump (fldSet s pgCLK oCLK_STAT 0 0 1) pgCLK oCLK_REF_LOSSES 1) pgCLK 1
      let s := forEach (List.range 6) (fun s port =>
        let s := if portLive s port then raise s (pgLNK + port) 2 else s
        fldSet s (pgLNK + port) oLNK_STAT 2 0 0) s
      let s := setPort s 0 0
      let s := forEach (List.range 48) (fun s r => modRgn s r fun x => { x with haltAll := true }) s
      { s with
        pool := { s.pool with hbms := s.pool.hbms.map fun x => { x with held := true } }
        video := { s.video with stopped := [true, true] } })

/-- CLK_REF_BACK: REFCLK is valid again; REF_LOST stands (R539). -/
def execClkRefBack (s : State) : Host.Outcome State Fault Refusal :=
  .next (
    let s := { s with boot := { s.boot with refclk := true } }
    if fldGet s pgCLK oCLK_STAT 0 0 == 1 then raise s pgCLK 2 else s)

end Sys2Proof.Machine
end

