-- ==== Sys2Proof/Machine/Sessions.lean ====
section
/-! DEFINITION. Closing and losing sessions, and the messages kept for the next opening (R501-R503). -/

namespace Sys2Proof.Machine

/-- Close session i, keeping its COMPLETE and MEM_DATA messages that are not acknowledged (R502). -/
def closeSess (s : State) (i : Nat) : State :=
  modSess s i fun x =>
    { x with
      isOpen := false, asm := none, sent := [], early := [], events := [], opening := none
      kept := x.kept ++ keepSent x.keySlot x.sent }

/-- Session i is lost (R497, R502). -/
def loseSess (s : State) (i : Nat) : State := if (sess s i).isOpen then raise (closeSess s i) pgIVT 2 else s

/-- Every open session of a key slot is lost (R559). -/
def loseSlot (s : State) (k : Nat) : State :=
  forEach ((List.range 16).filter fun i => (sess s i).isOpen && (sess s i).keySlot == k) (fun s i => loseSess s i) s

/-- A warm reset closes every session and keeps the REQ_TAGs of its requests (R503). -/
def resetSess (s : State) (i : Nat) : State :=
  let tags := (s.sched.reqs.filter fun r => r.sess == i && r.st != .ended).map fun r => (r.keySlot, r.tag, r.part)
  let x := sess s i
  let s := if x.isOpen then closeSess s i else modSess s i fun x => { x with opening := none }
  modSess s i fun y =>
    { y with
      lastReset := 2
      resetTags := y.resetTags ++ tags }

end Sys2Proof.Machine
end

