-- ==== Sys2Proof/Machine/Sf.lean ====
section
/-! DEFINITION. The special-function unit (R186-R196, R198): exact values to far more places than a result holds, the special inputs, the
segments of the fixed image with the conditions that R189 and R194 put on them, the evaluation from them, and the flush. -/

namespace Sys2Proof.Machine

/-- 2^(2^-i) for i = 1, 2, ..., 48, times 2^96, rounded down. -/
def exp2Roots : List Nat := [
  0x16a09e667f3bcc908b2fb1366, 0x1306fe0a31b7152de8d5a4630, 0x1172b83c7d517adcdf7c8c50e,
  0x10b5586cf9890f6298b92b718, 0x1059b0d31585743ae7c548eb6, 0x102c9a3e778060ee6f7caca4f,
  0x10163da9fb33356d84a66ae33, 0x100b1afa5abcbed6129ab13ec, 0x10058c86da1c09ea1ff19d294,
  0x1002c605e2e8cec506d21bfc8, 0x100162f3904051fa128bca9c5, 0x1000b175effdc76ba38e31671,
  0x100058ba01fb9f96d6cacd4b1, 0x10002c5cc37da9491d0985c34, 0x1000162e525ee054754457d59,
  0x10000b17255775c040618bf4a, 0x1000058b91b5bc9ae2eed81e9, 0x100002c5c89d5ec6ca4d7c8ac,
  0x10000162e43f4f831060e02d8, 0x100000b1721bcfc99d9f890ea, 0x10000058b90cf1e6d97f9ca14,
  0x1000002c5c863b73f016468f6, 0x100000162e430e5a18f6119e3, 0x1000000b1721835514b86e6d9,
  0x100000058b90c0b48c6be5df8, 0x10000002c5c8601cc6b9e9421, 0x1000000162e42fff037df38aa,
  0x10000000b17217fba9c739aa5, 0x1000000058b90bfcdee5acd3c, 0x100000002c5c85fe31f35a6a3,
  0x10000000162e42ff0999ce354, 0x100000000b17217f80f4ef5aa, 0x10000000058b90bfbf8479bd5,
  0x1000000002c5c85fdf84bd62a, 0x100000000162e42fefb2fed25, 0x1000000000b17217f7d5a7716,
  0x100000000058b90bfbe9ddbac, 0x10000000002c5c85fdf4b15de, 0x1000000000162e42fefa494f1,
  0x10000000000b17217f7d20cf9, 0x1000000000058b90bfbe8f71c, 0x100000000002c5c85fdf477b6,
  0x10000000000162e42fefa3ae5, 0x100000000000b17217f7d1d35, 0x10000000000058b90bfbe8e8b,
  0x1000000000002c5c85fdf4741, 0x100000000000162e42fefa39f, 0x1000000000000b17217f7d1cf]

/-- 2^f for f = n / 2^48, times 2^96. -/
def exp2Fix (n : Nat) : Nat :=
  ((List.range 48).zip exp2Roots).foldl (fun acc (i, r) => if bit n (47 - i) then (acc * r) >>> 96 else acc) (2 ^ 96)

/-- Bits of log2 of `y` / 2^160, a number in [1, 2), by squaring. -/
def log2Bits : Nat → Nat → Nat → Nat
  | 0, _, acc => acc
  | n + 1, y, acc =>
    let z := (y * y) >>> 160
    if z ≥ 2 ^ 161 then log2Bits n (z / 2) (2 * acc + 1) else log2Bits n z (2 * acc)

/-- EXP2 of a finite input of magnitude below 1,024 (R188). -/
def exp2Num (v : Num) : Num :=
  -- x in units of 2^-48, rounded down; the inputs that reach here are exact at that unit
  let k : Int := if v.exp ≥ -48 then v.sig * (2 ^ (v.exp + 48).toNat : Nat) else v.sig.fdiv (2 ^ (-48 - v.exp).toNat : Nat)
  let n := k.fdiv (2 ^ 48 : Nat)
  let f := (k - n * (2 ^ 48 : Nat)).toNat
  if f == 0 then .num false 1 n else .num false (2 * exp2Fix f + 1) (n - 97)

/-- LOG2 of a positive finite input (R188). -/
def log2Num (v : Num) : Num :=
  match v with
  | .num _ m e =>
    let h := Nat.log2 m
    let top : Int := e + (h : Int)
    if m == 2 ^ h then .ofInt top
    else
      let frac := log2Bits 100 (m <<< (160 - h)) 0
      .ofSig (2 * (top * (2 ^ 100 : Nat) + (frac : Int)) + 1) (-101)
  | x => x

/-- RCP and RSQRT of a finite non-zero input. -/
def rcpNum (v : Num) : Num := Num.one.div v
def rsqrtNum (v : Num) : Num := Num.one.div (v.sqrt)

/-- The fixed functions, in the order of SFN's SUBOP. -/
inductive Sfn where
  | exp2 | log2 | rcp | rsqrt
  deriving DecidableEq, Repr

/-- Exact value, or one that no rounding of the module tells from it. -/
def Sfn.exact (f : Sfn) (v : Num) : Num :=
  match f with
  | .exp2 => exp2Num v
  | .log2 => log2Num v
  | .rcp => rcpNum v
  | .rsqrt => rsqrtNum v

/-- A subnormal input counts as a zero of its sign (R190). -/
def flushIn (x : W32) : W32 := if (x &&& 0x7F800000) == 0 then x &&& 0x80000000 else x

/-- The special inputs (R190): the result, where the table gives one. -/
def Sfn.special (f : Sfn) (x : W32) : Option W32 :=
  let v := f32 x
  match f, v with
  | _, .nan => some nan32
  | .exp2, .inf n => some (if n then 0 else 0x7F800000)
  | .log2, .inf n => some (if n then nan32 else 0x7F800000)
  | .rcp, .inf n => some (if n then 0x80000000 else 0)
  | .rsqrt, .inf n => some (if n then nan32 else 0)
  | .exp2, .num n m _ =>
    if m == 0 then some 0x3F800000
    else if !n && Num.le (.num false 128 0) v then some 0x7F800000
    else if v.abs.lt (.num false 1 (-24)) then some 0x3F800000
    else none
  | .log2, .num n m _ => if m == 0 then some 0xFF800000 else if n then some nan32 else none
  | .rcp, .num n m _ => if m == 0 then some (if n then 0xFF800000 else 0x7F800000) else none
  | .rsqrt, .num n m _ => if m == 0 then some (if n then 0xFF800000 else 0x7F800000) else if n then some nan32 else none

/-- Exact results that the first coefficients fix (R189): an integer power of two or the function of one. -/
def Sfn.isExact (f : Sfn) (v : Num) : Bool :=
  match v with
  | .num _ m e =>
    let pow2 := m == 2 ^ Nat.log2 m
    (match f with
      | .exp2 => e ≥ 0 || m % 2 ^ (-e).toNat == 0
      | .log2 | .rcp => pow2
      | .rsqrt => pow2 && (e + (Nat.log2 m : Int)) % 2 == 0)
  | _ => true

/-- FP32 codes as integers in the order of their values; both zeros are 0. -/
def ordOf (w : W32) : Int := if w.msb then -((w &&& 0x7FFFFFFF).toNat : Int) else w.toNat

/-- The code of an order number; 0 is +0. -/
def ofOrd (i : Int) : W32 := if i < 0 then BitVec.ofNat 32 i.natAbs ||| 0x80000000 else BitVec.ofNat 32 i.toNat

/-- A code between two values, where the unit leaves the last places open (R187; log 13). -/
def between (lo hi : Int) (raw : W32) : W32 := if hi ≤ lo then ofOrd lo else ofOrd (lo + (raw.toNat : Int) % (hi - lo + 1))

/-! ### Segments (R187, R188) and the conditions on them (R189, R194, R199). -/

/-- p(t) of four coefficients, exactly (R187). -/
def polyAt (c : Nat → W32) (t : Num) : Num := (f32 (c 0)).add (t.mul ((f32 (c 1)).add (t.mul ((f32 (c 2)).add (t.mul (f32 (c 3)))))))

/-- The derivative's sign in the declared direction at a position: C1 + 2 C2 t + 3 C3 t^2 (R199). -/
def slopeOk (up : Bool) (c : Nat → W32) (t : Num) : Bool :=
  let d := (f32 (c 1)).add (t.mul (((f32 (c 2)).mul (.num false 2 0)).add (t.mul ((f32 (c 3)).mul (.num false 3 0)))))
  if up then Num.le Num.zero d else Num.le d Num.zero

/-- The derivative keeps its sign at t = 0, t = 1 and its stationary point -C2 / (3 C3) when that lies in (0, 1); the value there is
C1 - C2^2 / (3 C3), compared without a quotient (R199). -/
def segMonotone (up : Bool) (co : Nat → W32) : Bool :=
  let c (k : Nat) := f32 (co k)
  let fin := (List.range 4).all fun k => (c k).finite
  let a := (c 2).neg
  let b := (c 3).mul (.num false 3 0)
  let s := if b.lt Num.zero then (a.neg, b.neg) else (a, b)
  let inside := Num.lt Num.zero s.1 && s.1.lt s.2
  -- sign of C1 - C2^2 / (3 C3) is that of (C1 * 3 C3 - C2^2) times the sign of C3
  let num := ((c 1).mul b).add (((c 2).mul (c 2)).neg)
  let pos := if b.lt Num.zero then num.neg else num
  fin && slopeOk up co Num.zero && slopeOk up co Num.one
    && (!inside || (if up then Num.le Num.zero pos else Num.le pos Num.zero))

/-- Two values, each rounded to FP32, in order and at most `gap` apart in units of the last place, in the declared direction (R194). -/
def stepOk (up : Bool) (a b : Num) (gap : Option Nat) : Bool :=
  let d := ordOf (toF32 b) - ordOf (toF32 a)
  let d := if up then d else -d
  a.finite && b.finite && 0 ≤ d && (match gap with | some g => d ≤ (g : Int) | none => true)

/-- The first of a function's segments among the 160 of the fixed image, and how many it has (R188, R196). -/
def Sfn.base : Sfn → Nat
  | .exp2 => 0 | .log2 => 32 | .rcp => 64 | .rsqrt => 96
def Sfn.segs : Sfn → Nat
  | .rsqrt => 64
  | .exp2 | .log2 | .rcp => 32

/-- The function's direction (R194). -/
def Sfn.up : Sfn → Bool
  | .exp2 | .log2 => true
  | .rcp | .rsqrt => false

/-- The first coefficient of segment 0 (R189). -/
def Sfn.firstCoef : Sfn → W32
  | .log2 => 0
  | .exp2 | .rcp | .rsqrt => 0x3F800000

/-- v− and v+ at the upper boundary of a segment, in the scale of the segment's binade (R194). -/
def Sfn.boundary (f : Sfn) (c : Nat → Nat → W32) (i : Nat) : Num × Num :=
  let v := polyAt (c (f.base + i)) Num.one
  if i + 1 < f.segs then (v, polyAt (c (f.base + i + 1)) Num.zero)
  else
    let w := polyAt (c f.base) Num.zero
    (v, match f with
      | .exp2 => w.mul (.num false 2 0)
      | .log2 => w.add Num.one
      | .rcp | .rsqrt => w.mul (.num false 1 (-1)))

/-- The condition of R194 at a boundary: for LOG2, whose binades differ by what is added, in each of them. -/
def Sfn.boundaryOk (f : Sfn) (c : Nat → Nat → W32) (i : Nat) : Bool :=
  let v := f.boundary c i
  match f with
  | .log2 => (List.range 254).all fun k => let e := Num.ofInt ((k : Int) - 126); stepOk true (e.add v.1) (e.add v.2) (some 1)
  | .exp2 | .rcp | .rsqrt => stepOk f.up v.1 v.2 (some 1)

/-- What R189 and R194 say of the coefficients of a fixed function. -/
def Sfn.made (f : Sfn) (c : Nat → Nat → W32) : Bool :=
  c f.base 0 == f.firstCoef && (List.range f.segs).all fun i => segMonotone f.up (c (f.base + i)) && f.boundaryOk c i

/-- What R189 and R194 say of the fixed image. -/
def fixedMade (c : Nat → Nat → W32) : Bool := Sfn.exp2.made c && Sfn.log2.made c && Sfn.rcp.made c && Sfn.rsqrt.made c

/-- Reference segments of exp2: C0, C2 and C3 in units of their grid. -/
def exp2Ref : List (Int × Int × Int) := [
  (8388608, 1968, 14), (8572295, 2011, 15), (8760003, 2055, 15), (8951823, 2100, 15), (9147842, 2146, 16), (9348154, 2193, 16),
  (9552851, 2241, 16), (9762032, 2290, 17), (9975792, 2340, 17), (10194234, 2391, 17), (10417458, 2444, 18), (10645571, 2497, 18),
  (10878679, 2552, 19), (11116891, 2608, 19), (11360319, 2665, 19), (11609078, 2723, 20), (11863283, 2783, 20), (12123055, 2844, 21),
  (12388516, 2906, 21), (12659789, 2970, 22), (12937002, 3035, 22), (13220286, 3101, 23), (13509772, 3169, 23), (13805598, 3239, 24),
  (14107901, 3310, 24), (14416824, 3382, 25), (14732511, 3456, 25), (15055111, 3532, 26), (15384775, 3609, 26), (15721658, 3688, 27),
  (16065917, 3769, 28), (16417715, 3851, 28)]

/-- Reference segments of log2: C0, C2 and C3 in units of their grid. -/
def log2Ref : List (Int × Int × Int) := [
  (0, -11813, 235), (744810, -11108, 215), (1467383, -10465, 197), (2169009, -9875, 180), (2850868, -9335, 166), (3514044, -8837, 153),
  (4159533, -8378, 141), (4788255, -7954, 131), (5401057, -7562, 121), (5998727, -7197, 113), (6581994, -6859, 105), (7151536, -6544, 98),
  (7707984, -6250, 92), (8251926, -5975, 86), (8783912, -5718, 80), (9304457, -5477, 75), (9814042, -5252, 71), (10313120, -5039, 67),
  (10802114, -4840, 63), (11281425, -4652, 59), (11751428, -4475, 56), (12212479, -4308, 53), (12664911, -4150, 50), (13109041, -4000, 47),
  (13545168, -3859, 45), (13973576, -3724, 42), (14394532, -3597, 40), (14808293, -3476, 38), (15215099, -3361, 36), (15615181, -3252, 35),
  (16008758, -3148, 33), (16396036, -3049, 32)]

/-- Reference segments of rcp: C0, C2 and C3 in units of their grid. -/
def rcpRef : List (Int × Int × Int) := [
  (16777216, 16369, -481), (16268816, 14926, -426), (15790321, 13648, -379), (15339169, 12512, -338), (14913081, 11499, -303),
  (14510025, 10592, -272), (14128182, 9778, -244), (13765921, 9045, -221), (13421773, 8384, -200), (13094412, 7785, -181), (12782641, 7242, -165),
  (12485370, 6749, -150), (12201612, 6299, -137), (11930465, 5889, -125), (11671107, 5513, -115), (11422785, 5169, -105), (11184811, 4852, -97),
  (10956549, 4562, -89), (10737418, 4293, -83), (10526881, 4046, -76), (10324441, 3817, -71), (10129640, 3605, -66), (9942054, 3408, -61),
  (9761289, 3226, -57), (9586981, 3056, -53), (9418788, 2898, -49), (9256395, 2751, -46), (9099507, 2613, -43), (8947849, 2485, -40),
  (8801162, 2365, -38), (8659208, 2252, -35), (8521761, 2147, -33)]

/-- Reference segments of rsqrtLow: C0, C2 and C3 in units of their grid. -/
def rsqrtLowRef : List (Int × Int × Int) := [
  (16777216, 6140, -152), (16521060, 5685, -136), (16276290, 5277, -123), (16042087, 4908, -111), (15817711, 4574, -101), (15602494, 4272, -92),
  (15395829, 3996, -84), (15197165, 3745, -77), (15005998, 3515, -70), (14821869, 3305, -64), (14644355, 3112, -59), (14473070, 2934, -55),
  (14307658, 2770, -50), (14147791, 2619, -47), (13993165, 2479, -43), (13843502, 2349, -40), (13698540, 2229, -37), (13558038, 2117, -35),
  (13421773, 2013, -32), (13289535, 1916, -30), (13161131, 1825, -28), (13036378, 1740, -26), (12915107, 1660, -25), (12797158, 1586, -23),
  (12682383, 1516, -22), (12570642, 1451, -21), (12461803, 1389, -19), (12355743, 1331, -18), (12252346, 1276, -17), (12151502, 1224, -16),
  (12053108, 1176, -15), (11957066, 1130, -15)]

/-- Reference segments of rsqrtHigh: C0, C2 and C3 in units of their grid. -/
def rsqrtHighRef : List (Int × Int × Int) := [
  (11863283, 4342, -107), (11682154, 4020, -96), (11509075, 3731, -87), (11343468, 3471, -79), (11184811, 3235, -71), (11032629, 3021, -65),
  (10886495, 2826, -59), (10746018, 2648, -54), (10610843, 2486, -50), (10480644, 2337, -46), (10355123, 2200, -42), (10234006, 2075, -39),
  (10117042, 1959, -36), (10003999, 1852, -33), (9894662, 1753, -31), (9788834, 1661, -28), (9686330, 1576, -26), (9586981, 1497, -25),
  (9490627, 1423, -23), (9397121, 1354, -21), (9306325, 1290, -20), (9218111, 1230, -19), (9132360, 1174, -18), (9048957, 1122, -16),
  (8967799, 1072, -15), (8888786, 1026, -15), (8811826, 982, -14), (8736830, 941, -13), (8663717, 902, -12), (8592410, 866, -11),
  (8522834, 831, -11), (8454922, 799, -10)]

/-- Reference segments with their grids: (function's base, grid, value after the last). -/
def refRows : List (Int × Int × Int) := exp2Ref ++ log2Ref ++ rcpRef ++ rsqrtLowRef ++ rsqrtHighRef

/-- A set of coefficients that meets R189 and R194, so that there is one: C1 closes each segment on the next. -/
def refCoef (i k : Nat) : W32 :=
  let r := nth refRows i (0, 0, 0)
  let g : Int := if i < 32 then -23 else -24
  let next : Int := if i == 31 || i == 63 then 2 ^ 24 else if i == 95 || i == 159 then 2 ^ 23 else (nth refRows (i + 1) (0, 0, 0)).1
  toF32 (.ofSig (match k with | 0 => r.1 | 1 => next - r.1 - r.2.1 - r.2.2 | 2 => r.2.1 | _ => r.2.2) g)

/-- A coefficient of the fixed image that the firmware of a body hash carries (R196). What the firmware carries meets R189 and R194: an open table
that did not would be no image of the module's, and the reference segments stand for it (log 13). -/
def fixedCoef (fw : Bytes) (i k : Nat) : W32 := if fixedMade (Config.fixedRaw fw) then Config.fixedRaw fw i k else refCoef i k

/-- A byte of the fixed image in force (R196): its header, and the segment entries from 0x040 on. -/
def fixedImage (fw : Bytes) (off : Nat) : Byte :=
  if off < 0x40 then Config.fixedHeader fw off
  else BitVec.ofNat 8 ((fixedCoef fw ((off - 0x40) / 16) (off / 4 % 4)).toNat >>> (8 * (off % 4)))

/-- The range reduction of R188: the segment of the function, t within it, and the exponent or integer of the result. EXP2's input is taken in
units of 2^-48. -/
def Sfn.reduce (f : Sfn) (v : Num) : Nat × Num × Int :=
  match f with
  | .exp2 =>
    let k : Int := if v.exp ≥ -48 then v.sig * (2 ^ (v.exp + 48).toNat : Nat) else v.sig.fdiv (2 ^ (-48 - v.exp).toNat : Nat)
    let n := k.fdiv (2 ^ 48 : Nat)
    let r := (k - n * (2 ^ 48 : Nat)).toNat
    (r / 2 ^ 43, .num false (r % 2 ^ 43) (-43), n)
  | .log2 | .rcp | .rsqrt =>
    let m := v.sig.natAbs
    let frac := m <<< (23 - Nat.log2 m) % 2 ^ 23
    let e := v.log2
    let t := Num.num false (frac % 2 ^ 18) (-18)
    if f == .log2 then (frac / 2 ^ 18, t, e)
    else if f == .rcp then (frac / 2 ^ 18, t, -e)
    else if e % 2 == 0 then (frac / 2 ^ 18, t, -(e / 2)) else (32 + frac / 2 ^ 18, t, -((e - 1) / 2))

/-- p(t) of the reduced argument, scaled or added to by R188. The spec gives t and the significand "at least 40 bits" each: they are exact here,
so that R195 follows from R194 (DESIGN CHOICE, log 13). -/
def Sfn.poly (f : Sfn) (c : Nat → Nat → W32) (v : Num) : Num :=
  let r := f.reduce v
  let p := polyAt (c (f.base + r.1)) r.2.1
  if f == .log2 then (Num.ofInt r.2.2).add p else p.mul (.num false 1 r.2.2)

/-- FP32 value rounded downward or upward, as an order number. -/
def floorOrd (v : Num) : Int :=
  let c := toF32 v
  if v.lt (f32 c) then ordOf c - 1 else ordOf c
def ceilOrd (v : Num) : Int :=
  let c := toF32 v
  if (f32 c).lt v then ordOf c + 1 else ordOf c

/-- The FP32 unit in the last place at a value. -/
def ulpAt (v : Num) : Num := .num false 1 (Max.max (v.log2 - 23) (-149))

/-- The error bound of R192. -/
def Sfn.bound (f : Sfn) (v : Num) : Num :=
  match f with
  | .exp2 => (ulpAt v).mul (.num false 2 0)
  | .log2 => if v.abs.lt Num.one then .num false 1 (-22) else (ulpAt v).mul (.num false 2 0)
  | .rcp | .rsqrt => ulpAt v

/-- A result and whether it was flushed (R191). -/
structure SfRes where
  code : W32
  flushed : Bool
  deriving DecidableEq, Repr

/-- Flush a result whose magnitude lies below the threshold: FLUSH_T for EXP2 and USER, 2^-126 for the others. `zero` says that the
exact value is zero (R191). -/
def flushSf (t : W32) (zero : Bool) (r : W32) : SfRes :=
  let mag := r &&& 0x7FFFFFFF
  if mag == 0 then (if zero then ⟨r, false⟩ else ⟨0, true⟩)
  else if mag.toNat < t.toNat then ⟨0, true⟩ else ⟨r, false⟩

/-- The threshold of a fixed function. -/
def Sfn.threshold (f : Sfn) (flushT : W32) : W32 := match f with | .exp2 => flushT | _ => 0x00800000

/-- Two bounds that the exactness of R189 and the direction of R195 put on a result whose exact value is `y`: an integer power of two of either
side for EXP2, RCP and RSQRT, an integer for LOG2. -/
def Sfn.ends (f : Sfn) (y : Num) : Num × Num :=
  match f with
  | .log2 =>
    let n := y.sig.fdiv (2 ^ (-y.exp).toNat : Nat) * (2 ^ y.exp.toNat : Nat)
    (.ofInt n, .ofInt (n + 1))
  | .exp2 | .rcp | .rsqrt => (.num false 1 y.log2, .num false 1 (y.log2 + 1))

/-- The magnitude of an inexact result, or LOG2's result: the segment's polynomial by R188, rounded once, within the error bound of R192. Tables of
the firmware keep the bound by themselves. -/
def Sfn.inexact (f : Sfn) (fw : Bytes) (v : Num) : W32 :=
  let y := f.exact v
  let e := f.ends y
  let lo := Max.max (ceilOrd (y.add (f.bound y).neg)) (ordOf (toF32 e.1))
  let hi := Min.min (floorOrd (y.add (f.bound y))) (ordOf (toF32 e.2))
  ofOrd (Max.max lo (Min.min hi (ordOf (toF32 (f.poly (fixedCoef fw) v)))))

/-- A fixed function with an FP32 result under the tables of a firmware image (R187-R195). -/
def Sfn.eval (f : Sfn) (fw : Bytes) (flushT x : W32) : SfRes :=
  let x := flushIn x
  match f.special x with
  | some r => ⟨r, false⟩
  | none =>
    let v := f32 x
    if f == .exp2 && v.lt (.num true 1000 0) then ⟨0, true⟩
    else
      let y := f.exact v
      let r := if f.isExact v then toF32 y else if v.sig < 0 && f == .rcp then fNeg (f.inexact fw v.abs) else f.inexact fw v
      flushSf (f.threshold flushT) (y.isZero) r

/-- The same with a BF16 result: the exact value rounded once (R193), widened to FP32. -/
def Sfn.evalBf16 (f : Sfn) (flushT x : W32) : SfRes :=
  let x := flushIn x
  match f.special x with
  | some r => ⟨r, false⟩
  | none =>
    let v := f32 x
    if f == .exp2 && v.lt (.num true 1000 0) then ⟨0, true⟩
    else
      let y := f.exact v
      flushSf (f.threshold flushT) y.isZero (BitVec.ofNat 32 ((FFmt.bf16.encode false y).1 <<< 16))

/-! ### The user slot (R197, R198). -/

/-- Fields of a user image. -/
def uSign (im : Bytes) : Nat := fld im 1 1
def uBinades (im : Bytes) : Nat := fld im 2 1
def uLo (im : Bytes) : Int := signed 16 (fld im 4 2)

/-- Coefficient `k` of segment `i`, counting NEG after POS. -/
def uCoef (im : Bytes) (i k : Nat) : W32 := BitVec.ofNat 32 (fld im (0x40 + 16 * i + 4 * k) 4)

/-- The polynomial of a segment of the user table at t, exactly (R187). -/
def segPoly (im : Bytes) (i : Nat) (t : Num) : Num := polyAt (uCoef im i) t

/-- A bound on what a significand of 40 bits may differ by from the exact polynomial (R187; log 13). -/
def segSlack (im : Bytes) (i : Nat) : Num :=
  ((List.range 4).foldl (fun a k => a.add (f32 (uCoef im i k)).abs) Num.zero).mul (.num false 1 (-37))

/-- Segment and position of a normal magnitude in a covered binade. -/
def segAt (im : Bytes) (w : W32) : Option (Nat × Num) :=
  let m := (w &&& 0x7FFFFFFF).toNat
  let e : Int := (m >>> 23 : Nat) - 127
  let b := e - uLo im
  if 0 ≤ b && b < (uBinades im : Int) then some (32 * b.toNat + bits m 22 18, .num false (bits m 17 0) (-18)) else none

/-- USER of a magnitude (sign 0) by a table that begins at segment `base`, with results below and above the covered binades. -/
def userMag (im : Bytes) (base : Nat) (under overTop w : W32) : W32 × Bool :=
  let m := w &&& 0x7FFFFFFF
  match segAt im m with
  | some (i, t) =>
    let v := segPoly im (base + i) t
    let d := segSlack im (base + i)
    (match v with
      | .num _ _ _ => (between (ordOf (toF32 (v.add d.neg))) (ordOf (toF32 (v.add d))) (Config.sfnRaw w), v.isZero)
      | x => (toF32 x, false))
  | none =>
    let e : Int := (m.toNat >>> 23 : Nat) - 127
    if e < uLo im || m == 0 then (under, under &&& 0x7FFFFFFF == 0) else (overTop, overTop &&& 0x7FFFFFFF == 0)

/-- USER (R198). -/
def userEval (im : Bytes) (flushT x : W32) : SfRes :=
  let x := flushIn x
  let u (o : Nat) : W32 := BitVec.ofNat 32 (fld im o 4)
  if (f32 x) == .nan then ⟨nan32, false⟩
  else
    let (r, z) :=
      if !x.msb then userMag im 0 (u 8) (u 0xC) x
      else if uSign im == 2 then userMag im (32 * uBinades im) (u 0x10) (u 0x14) x
      else
        let (r, z) := userMag im 0 (u 8) (u 0xC) (x &&& 0x7FFFFFFF)
        ((if uSign im == 0 then fNeg r else r), z)
    if (f32 r) == .nan then ⟨nan32, false⟩ else flushSf flushT z r

end Sys2Proof.Machine
end

