-- ==== Sys2Proof/Machine/Sft.lean ====
section
/-! DEFINITION. The user table of a partition: its staging pages, the checks of an arm, and the reload (R196-R205, R219, R220). -/

namespace Sys2Proof.Machine

/-- Physical address of a staging image: pages 0x0210 + 8p (R196). -/
def stageAddr (p : Nat) : Nat := regBase + (0x210 + 8 * p) * 4096

/-- The partition of a staging page, if it is one. -/
def stagePart (page : Nat) : Option Nat := if 0x210 ≤ page && page < 0x290 then some ((page - 0x210) / 8) else none

/-- Bytes of an image that has BINADES and SIGN_MODE. -/
def imageBytes (im : Bytes) : Nat := 0x40 + 512 * uBinades im * (if uSign im == 2 then 2 else 1)

/-- The first segment of a table of `n` segments from `base` that fails (R199). -/
def tableFail (up : Bool) (im : Bytes) (base n : Nat) (under overTop : W32) : Option Nat :=
  (List.range n).findSome? fun i =>
    let j := base + i
    let ends := (i != 0 || endOk up (f32 under) (segPoly im j Num.zero))
      && (i + 1 != n || endOk up (segPoly im j Num.one) (f32 overTop))
    let next := i + 1 == n || stepOk up (segPoly im j Num.one) (segPoly im (j + 1) Num.zero) (some 1)
    if segMonotone up (uCoef im j) && ends && next then none else some j
where
  /-- one value not above (or below) the next, infinities allowed -/
  endOk (up : Bool) (a b : Num) : Bool :=
    let a := f32 (toF32 a)
    let b := f32 (toF32 b)
    if up then a.le b else b.le a

/-- The result of an arm's check, as RGN_SFT_STAT.CHECK has it, and FAIL_SEG (R199). -/
def checkImage (im : Bytes) : Nat × Nat :=
  let b := uBinades im
  let lo := uLo im
  let ranges := fld im 0 1 == 1 && uSign im ≤ 2 && 1 ≤ b && b ≤ 31 && fld im 3 1 ≤ 2 && -126 ≤ lo && lo + (b : Int) - 1 ≤ 127
    && fld im 6 2 == 0 && allZero ((im.drop 0x1C).take 36) && (uSign im == 2 || (fld im 0x10 4 == 0 && fld im 0x14 4 == 0))
  if !ranges then (2, 0xFFFF)
  else if (crc32 (setBytes (im.take (imageBytes im)) 0x18 (zeros 4))).toNat != fld im 0x18 4 then (3, 0xFFFF)
  else if fld im 3 1 == 0 then (1, 0xFFFF)
  else
    let up := fld im 3 1 == 1
    let u (o : Nat) : W32 := BitVec.ofNat 32 (fld im o 4)
    let neg := if uSign im == 2 then tableFail up im (32 * b) (32 * b) (u 0x10) (u 0x14) else none
    match (tableFail up im 0 (32 * b) (u 8) (u 0xC)).or neg with
    | some i => (4, i)
    | none => (1, 0xFFFF)

/-- The user tables of a partition. -/
def userTab (s : State) (p : Nat) : UserTab := nth s.fab.users p {}

/-- Update them. -/
def modUser (s : State) (p : Nat) (f : UserTab → UserTab) : State :=
  { s with fab := { s.fab with users := updNth s.fab.users p f } }

/-- Record CHECK and FAIL_SEG on every region of the partition. -/
def setSftStat (s : State) (p check seg : Nat) : State :=
  forEach (partRgns s p) (fun s r => setReg s (rgnPage r) oRGN_SFT_STAT (seg * 2 ^ 16 + check * 2 ^ 8)) s

/-- Steps 1 and 2 of a reload are under way (R200, R202). -/
def UserTab.loading (u : UserTab) (t : Nat) : Bool := u.arming && t < u.stagedAt

/-- An arm of partition p's staging image: steps 1 and 2 of R200 begin, or it is refused (R199, R202). They last an open time of at most 13 µs,
6,630 SCLK cycles (R537). -/
def armUser (s : State) (p : Nat) : State :=
  if (userTab s p).arming then
    let s := forEach (partRgns s p) (fun s r => fldSet s (rgnPage r) oRGN_SFT_STAT 15 8 5) s
    raiseLead s p 26
  else
    let im := memRead s (stageAddr p) 32768
    let (check, seg) := checkImage im
    let s := setSftStat s p check seg
    if check == 1 then
      let s := modUser s p fun u =>
        { committed := some (im.take (imageBytes im)), old := u.committed, arming := true, armed := some (im.take (imageBytes im))
          stagedAt := now s + takeFree s 0 % 6631 }
      bumpFree (forEach (partRgns s p) (fun s r => modRgn s r fun x => { x with staged := true }) s)
    else raiseLead s p 25

/-- A macro-op of a unit queue that has come to step 4 and has not completed (R135): pre-emption may have sent it back for leave, or the canary
to run again. -/
def unitOpsRunning (s : State) (p : Nat) : List (Nat × Nat) :=
  ((reqsOf s p .admitted).map fun r =>
    (r.mops.filter fun m => (m.begun || m.redo) && m.stage != .done && queueOf (mopOf s r m.idx).opcode == 0).map fun m => (r.id, m.idx)).flatten

/-- Step 4 of R200: with every region staged, a unit-queue macro-op reaches step 4 of R135; it and every later one read the new bank. One that is
run again stays on the bank that it began on (R100, R201). -/
def swapAt (s : State) (p req idx : Nat) : State :=
  let u := userTab s p
  if u.arming && !u.swapped && !u.loading (now s) && !((req? s req).bind (mopSt? · idx)).any (·.redo) then
    let olds := (unitOpsRunning s p).filter fun m => m != (req, idx)
    modUser s p fun u => { u with swapped := true, onOld := olds }
  else s

/-- The table that a macro-op reads (R201, R204). -/
def userTable (s : State) (p req idx : Nat) : Option Bytes :=
  let u := userTab s p
  if u.arming && (!u.swapped || u.onOld.contains (req, idx)) then u.old else u.committed

/-- Step 5 of R200, once every macro-op on the old bank has completed. -/
def swapDone (s : State) (p : Nat) : State :=
  let u := userTab s p
  let left := u.onOld.filter fun m => (unitOpsRunning s p).contains m
  if u.arming && u.swapped && left.isEmpty then
    let s := modUser s p fun u => { committed := u.committed }
    let s := forEach (partRgns s p) (fun s r =>
      bump (modRgn s r fun x => { x with staged := false, bankUser := !x.bankUser }) (rgnPage r) oRGN_SFT_SWAPS 1) s
    raiseLead s p 24
  else s

/-- RGN_MEM_CTRL as it holds in a region: a write waits for the macro-op that runs (R247). -/
def memCtl (s : State) (r : Nat) : Nat :=
  match (rgn s r).owner with
  | some p => if (unitOpsRunning s p).isEmpty then regRaw s (rgnPage r) oRGN_MEM_CTRL else (rgn s r).latch.mem
  | none => regRaw s (rgnPage r) oRGN_MEM_CTRL

end Sys2Proof.Machine
end

