-- ==== Sys2Proof/Machine/Boot.lean ====
section
/-! DEFINITION. Power, cold start, secure boot, calibration and training, and the four kinds of reset (R250-R252, R543-R557, R563, R579,
R580, R590, R595, R596), with their commands. -/

namespace Sys2Proof.Machine

/-! ### Secure boot (R552, R553). -/

/-- The boot ROM accepts a slot (R552). -/
def slotAccepted (s : State) (f : FwSlot) : Bool :=
  f.sealed && f.formOk && f.sigOk && f.bodyOk && !bit s.nv.revoked f.keyId && s.nv.svnFuse ≤ f.svn

/-- The sealed slots in the order the boot ROM tries them: descending GENERATION. -/
def slotOrder (s : State) : List Nat :=
  sortBy (fun a b => (nth s.nv.fw a {}).generation ≥ (nth s.nv.fw b {}).generation) [0, 1]

/-- Every optical port is dark: the six link ports and the host port (R552, R563). -/
def darkPorts (s : State) : State := setPort (forEach (List.range 6) (fun s port => fldSet s (pgLNK + port) oLNK_STAT 2 0 0) s) 0 0

/-- Step 4 of the cold start: the first slot accepted runs; each slot refused counts in SEC_BOOT_FAILS (R552). A scrapped module runs
no firmware (R562). -/
def bootSlots (s : State) : State :=
  let order := slotOrder s
  let good := if s.nv.scrapFuse || s.nv.life.state == 4 then none else order.find? fun k => slotAccepted s (nth s.nv.fw k {})
  let refused := match good with
    | some k => (order.takeWhile (· != k)).length
    | none => order.length
  let s := setReg s pgSEC oSEC_BOOT_FAILS refused
  match good with
  | some k => { s with boot := { s.boot with phase := .running, fwSlot := k, fw := nth s.nv.fw k {} } }
  | none => darkPorts { s with boot := { s.boot with phase := .noFirmware } }

/-- Burn the fuses that the running image names and that are not burnt yet; one that burns raises SEC_SVN_BURNT (R553;
DEDUCED, log 121). -/
def burnSvn (s : State) : State :=
  let nv := { s.nv with svnFuse := Nat.max s.nv.svnFuse s.boot.fw.svn, revoked := Nat.lor s.nv.revoked s.boot.fw.revoke }
  if nv = s.nv then s else raise { s with nv := nv } pgSEC 3

/-! ### The key store and the secure store (R246, R551, R560-R563). -/

/-- Write new contents over the copy with the lower counter (R551, R560). -/
def writeKeyStore (nv : Nv) (f : KeyCopy → KeyCopy) : Nv :=
  let cur := match nv.keyA.intact, nv.keyB.intact with
    | true, true => if nv.keyB.counter > nv.keyA.counter then nv.keyB else nv.keyA
    | true, false => nv.keyA
    | false, true => nv.keyB
    | false, false => {}
  let new := { f cur with intact := true, counter := cur.counter + 1 }
  if !nv.keyA.intact || (nv.keyB.intact && nv.keyA.counter < nv.keyB.counter) then { nv with keyA := new } else { nv with keyB := new }

/-- Load the key store into the secure store (R560). -/
def loadKeys (s : State) : State :=
  match keyCopy s with
  | some k => { s with sec := { loaded := true, slots := k.slots, cak := k.cak, ckn := k.ckn } }
  | none => { s with sec := {} }

/-- Erase slots 1-15, the CAK and CKN; with `media`, the media key too (R561, R563). -/
def erasedStore (media : Option Nat) (k : KeyCopy) : KeyCopy :=
  { k with slots := List.replicate 15 {}, cak := [], ckn := [], mediaKey := media.getD k.mediaKey }

/-- Erasing the media key makes the image and pool areas of flash unreadable (R560): nothing there is sealed or mapped again. -/
def loseFlash (s : State) : State :=
  { s with mem := s.mem.filter fun (a, _) => a < flashBase 0 || (a - flashBase 0) % 0x40000000000 < 16 * 2 ^ 30 }

/-- Finish a transition that was cut short: a record one above the fuse counter (R562). The key store is erased as for the state that it leads to. -/
def finishTransition (s : State) : State :=
  let nv := s.nv
  if nv.life.counter == nv.transitions + 1 && nv.transitions < 64 then
    let nv := { nv with transitions := nv.transitions + 1 }
    if nv.life.state == 2 then { s with nv := nv }
    else
      loseFlash { bumpFree s with nv := writeKeyStore nv (erasedStore (some (if nv.life.state == 1 then takeFree s 0 + 1 else 0))) }
  else s

/-! ### Tamper (R563). -/

/-- The tamper loop is armed (life-cycle table). -/
def loopArmed (s : State) : Bool := s.nv.life.state == 1 || s.nv.life.state == 2

/-- What a tamper leaves: stores wiped, jobs ended, HBM zeroed, ports dark. -/
def tampered (s : State) : State :=
  let s := jobFaults s ((List.range 16).filter (partValid s))
  let nv := writeKeyStore s.nv (erasedStore none)
  let nv := { nv with life := { nv.life with tampers := nv.life.tampers + 1 } }
  let s := { s with sec := {}, nv := nv, boot := { s.boot with phase := .tampered, loopOpen := true } }
  let s := forEach (List.range 48) (fun s r => modRgn s r fun x => { x with haltAll := true }) (memZero s 0 (12 * hbmSize))
  darkPorts { s with ctl := {}, host := { s.host with macsecLive := false } }

/-- TAMPER: an armed loop found open for 50 µs. -/
def execTamper (s : State) : Host.Outcome State Fault Refusal :=
  .next (if loopArmed s && (s.boot.phase == .running || s.boot.phase == .noFirmware) then tampered s
    else { s with boot := { s.boot with loopOpen := true } })

/-! ### Cold reset and cold start (R543, R544, R548, R549, R590, R595, R596). -/

/-- Everything that a cold reset loses is at its cold value; fuses, records, flash and pins stay (R549). -/
def coldState (s : State) (phase : Phase) : State :=
  { pending := s.pending, freeCtr := s.freeCtr, out := s.out, nv := s.nv
    mem := s.mem.filter fun (a, _) => flashBase 0 ≤ a
    boot := { blade := s.boot.blade, pwrGood := s.boot.pwrGood, resetN := s.boot.resetN, refclk := s.boot.refclk
              loopOpen := s.boot.loopOpen, slotId := s.boot.slotId, holdDone := s.boot.holdDone, phase := phase } }

/-- Steps 2-5 of the cold start. -/
def startCold (s : State) : State :=
  if !s.boot.refclk then { s with boot := { s.boot with phase := .refWait } }
  else
    let s := { s with sclk := 0, sec := {}, boot := { s.boot with phase := .running, lastReset := 1 } }
    if loopArmed s && s.boot.loopOpen then tampered s
    else
      let s := bootSlots (loadKeys (finishTransition s))
      -- step 5 wakes region 0 of each die
      if s.boot.phase == .running then
        forEach (List.range 12) (fun s d => modRgn s (4 * d) fun x => { x with powered := true }) s
      else s

/-- POWER_ON: the blade rises above 41 V; the regulators ramp and PWR_GOOD rises (R543, R590). -/
def execPowerOn (s : State) : Host.Outcome State Fault Refusal :=
  .next (if s.boot.blade && s.boot.pwrGood then s
    else
      let s := coldState s .held
      { s with boot := { s.boot with blade := true, pwrGood := true, holdDone := false } })

/-- BLADE_UNDERVOLTAGE: PWR_GOOD falls and the module enters cold reset (R590). -/
def execBladeUndervoltage (s : State) : Host.Outcome State Fault Refusal :=
  .next (
    let s := coldState s .off
    { s with boot := { s.boot with blade := false, pwrGood := false, holdDone := false } })

/-- RESET_HOLD_EXPIRY: 1 ms after PWR_GOOD rose; with RESET_N high the cold start runs (R543). -/
def execResetHoldExpiry (loopOpen : Bool) (s : State) : Host.Outcome State Fault Refusal :=
  .next (if s.boot.phase == .held && s.boot.pwrGood && !s.boot.holdDone then
      let s := { s with boot := { s.boot with holdDone := true, loopOpen := loopOpen } }
      if s.boot.resetN then startCold s else s
    else s)

/-- RESET_N_RELEASE: SLOT_ID is sampled, and after the hold the cold start runs (R543, R578). -/
def execResetNRelease (slot : Nat) (s : State) : Host.Outcome State Fault Refusal :=
  .next (if s.boot.resetN then s
    else
      let s := { s with boot := { s.boot with resetN := true, slotId := slot % 16 } }
      if s.boot.phase == .held && s.boot.pwrGood && s.boot.holdDone then startCold s else s)

/-- COLD_RESET: RESET_N held low for 10 µs (R543). -/
def execColdReset (s : State) : Host.Outcome State Fault Refusal :=
  .next (
    let s := coldState s (if s.boot.pwrGood then .held else .off)
    { s with boot := { s.boot with resetN := false } })

/-! ### Warm reset (R252, R503, R549-R551, R575). -/

/-- A register that a locked page keeps (R571): its RWL fields stand, but for TRACE_EN (R585). -/
def lockedReg (s : State) (page off : Nat) : Bool :=
  page == pgDBG && bit (regRaw s page oPAGE_CTRL) 0
    && (match regDesc page off with | some d => d.flds.any (·.acc == .rwl) | none => false)

/-- Registers after a warm reset (R571, R575). -/
def warmRegs (s : State) : List (Nat × Word) :=
  s.regs.foldl (fun acc (a, v) =>
    let page := a / 4096
    let off := a % 4096
    let w := if lockedReg s page off then (if off == oDBG_CTRL then v.toNat / 2 * 2 else v.toNat) else warmReg page off v.toNat
    cellSet acc a (BitVec.ofNat 64 w) (BitVec.ofNat 64 (coldReg page off))) []

/-- A region after a warm reset: what repairs and background tests have used stays. -/
def Region.warm (x : Region) : Region := { spares := x.spares, testPos := x.testPos, exhausted := x.exhausted, powered := x.powered, tested := x.tested }

/-- The warm reset itself; `byCmd` for one by MOD_RESET (R578). -/
def doWarmReset (s : State) (byCmd : Bool) : State :=
  let s := forEach ((List.range 16).filter fun p => (sliceBox s p).valid) (fun s p => bellFlood s p none bellFAULT stFault (myRank s p) []) s
  let s := forEach (List.range 16) (fun s i => resetSess s i) s
  let s := forEach s.sched.reqs (fun s r =>
    if r.st == .ended then s else traceRec s 4 r.part pgSCH r.tag 0xFFFFFFFF 0 stReset 0 0) s
  let s := { s with
    regs := warmRegs s
    mem := s.mem.filter fun (a, _) => 12 * hbmSize ≤ a && (windowRgn a).isNone
    pool := { hbms := s.pool.hbms.map fun x => { attempts := x.attempts } }
    ctxs := [], video := {}, inp := {}, sched := { nextReq := s.sched.nextReq }, ctl := {}
    fab := { rgns := s.fab.rgns.map Region.warm }
    power := { baseline := s.power.baseline, draw := s.power.draw, avg := s.power.avg, coolant := s.power.coolant }
    links := { ports := s.links.ports.map fun x => { x with wait := [] } }
    boot := { s.boot with service := 0, lastReset := 2, portWasUp := false, warmWait := none } }
  let s := bump (fldSet s pgMOD oMOD_RESET_STAT 55 48 (if byCmd then 1 else 0)) pgMOD oMOD_WARM_RESETS 1
  let s := forEach (List.range 6) (fun s port =>
    if [0, 5, 6].contains (portState s port) then fldSet s (pgLNK + port) oLNK_STAT 2 0 1 else s) s
  bootSlots s

/-- A warm reset waits for REFCLK while it is lost (R539). A tampered module stays so until a cold reset (R563). -/
def warmReset (s : State) (byCmd : Bool) : State :=
  if s.boot.phase != .running then s
  else if !s.boot.refclk then { s with boot := { s.boot with warmWait := some (if byCmd then 1 else 0) } }
  else doWarmReset s byCmd

/-- WARM_RESET: a MOD_RESET OP 1 that has been accepted (R550, R579). -/
def execWarmReset (s : State) : Host.Outcome State Fault Refusal := .next (warmReset s true)

/-- REFCLK_VALID_WAIT_END: REFCLK has been valid for 1 ms; a held cold start or warm reset goes on (R539, R596). -/
def execRefclkValidWaitEnd (s : State) : Host.Outcome State Fault Refusal :=
  .next (
    let s := { s with boot := { s.boot with refclk := true } }
    if s.boot.phase == .refWait then startCold s
    else
      match s.boot.warmWait with
      | some c => doWarmReset s (c == 1)
      | none => s)

/-! ### Partition and block resets (R549, R550, R579, R580). -/

/-- End a partition's requests with ST_RESET, clear its regions and tallies, discard its saved slots. -/
def partitionReset (s : State) (p : Nat) : State :=
  let ids := (s.sched.reqs.filter fun r => r.part == p && r.st != .ended).map (·.id)
  let s := forEach ids (fun s id => failRequest s id stReset 0xFFFFFFFF) s
  let s := forEach ids (fun s id => match req? s id with | some r => sendAbort s r stReset | none => s) s
  let s := discardSaved s p
  let s := forEach (partRgns s p) (fun s r => clearRgnMem s r) s
  let t := regRaw s pgSCH (oSCH_TALLY + 8 * p)
  let s := clearTallies s (bits t 13 0) (bits t 30 16)
  settle { s with ctl := { s.ctl with rst := some (2, p) } }

/-- Requests with work on a video set: VDECs with segments there, and VENCs. -/
def videoReqs (s : State) (n : Nat) : List Nat :=
  (((s.video.segs.filter fun g => g.set == n && !g.ended).map (·.req)) ++ ((s.video.encs.filter (·.set == n)).map (·.req))).eraseDups

/-- Begin a port's bring-up again (R351, R550). -/
def retrainPort (s : State) (port : Nat) : State :=
  let s := if portLive s port then raise s (pgLNK + port) 2 else s
  fldSet s (pgLNK + port) oLNK_STAT 2 0 1

/-- The pages of the block-reset table (R550). -/
def blockPage (page : Nat) : Bool := (0x90 ≤ page && page ≤ 0x93) || page == 0x98 || (0x28 ≤ page && page ≤ 0x2D) || page == 0x20

/-- The effect of a block soft reset (R550). -/
def blockReset (s : State) (page : Nat) : State :=
  let s :=
    if 0x90 ≤ page && page ≤ 0x93 then
      let n := page % 2
      let ids := videoReqs s n
      let s := forEach ids (fun s id => failRequest s id stReset 0xFFFFFFFF) s
      { s with video := { s.video with
          segs := s.video.segs.filter (·.set != n), encs := s.video.encs.filter (·.set != n), vctxs := s.video.vctxs.filter (·.set != n) } }
    else if page == 0x98 then
      let ids := (s.inp.batches.map (·.req)).eraseDups
      let s := forEach ids (fun s id => failRequest s id stReset 0xFFFFFFFF) s
      { s with inp := {} }
    else if page == 0x20 then setPort s 1 0
    else
      let port := page - 0x28
      let ps := (List.range 16).filter fun p => linkInBox s (sliceBox s p) port
      retrainPort (jobFaults s ps) port
  settle { s with ctl := { s.ctl with rst := some (3, page) } }

/-- Carry out resets that MOD_RESET has accepted; a warm reset supersedes the others (R580). -/
def runResets (s : State) : State :=
  let rs := s.ctl.rstReq
  let s := { s with ctl := { s.ctl with rstReq := [] } }
  if rs.any (·.1 == 1) then warmReset s true
  else
    forEach rs (fun s (k, t) => if k == 2 then partitionReset s t else blockReset s t) s

/-- MOD_RESET_STAT shows a command accepted or refused. -/
def setRstStat (s : State) (busy : Bool) (op result : Nat) : State :=
  setReg s pgMOD oMOD_RESET_STAT ((if busy then 2 ^ 63 else 0) + op % 256 * 2 ^ 48 + result)

/-- A refused MOD_RESET (R579). -/
def refuseReset (s : State) (op result : Nat) : State :=
  let busy := s.ctl.rst.isSome || s.ctl.rstReq.any (·.1 != 1)
  bump (setRstStat s busy op result) pgMOD oMOD_RESET_REFUSED 1

/-- A write of MOD_RESET by session i (R579, R580): the state, and the IVT status of the entry. The reset itself begins once the reply
has been sent. -/
def modReset (s : State) (i v : Nat) : State × Nat :=
  let op := bits v 63 56
  let p := bits v 51 48
  let page := bits v 15 0
  let busy := s.ctl.rst.isSome || s.ctl.rstReq.any (·.1 != 1)
  let form := bits v 47 32 == 0xA55A && bits v 55 52 == 0 && bits v 31 16 == 0 && 1 ≤ op && op ≤ 3
    && (op == 2 || p == 0) && (op == 3 || page == 0) && (op != 2 || partValid s p)
  if !form then (refuseReset s op 1, 4)
  else if !((sess s i).secure || (op == 2 && partSess s p == i)) then (bump (refuseReset s op 2) pgIVT oIVT_ADDR_ERR 1, 2)
  else if op == 3 && !blockPage page then (bump (refuseReset s op 4) pgIVT oIVT_ADDR_ERR 1, 1)
  else if op != 1 && busy then (refuseReset s op 3, 0)
  else
    let s := setRstStat s (op != 1) op 0
    ({ s with ctl := { s.ctl with rstReq := s.ctl.rstReq ++ [(op, if op == 2 then p else page)] } }, 0)

/-- PARTITION_RESET: an accepted MOD_RESET OP 2 (R550). A partition that does not exist, or a running reset, refuses it (R579, R580). -/
def execPartitionReset (part : Nat) (s : State) : Host.Outcome State Fault Refusal :=
  .next (if !partValid s part then refuseReset s 2 1
    else if s.ctl.rst.isSome then refuseReset s 2 3
    else partitionReset (setRstStat s true 2 0) part)

/-- BLOCK_SOFT_RESET: an accepted MOD_RESET OP 3 (R550). -/
def execBlockSoftReset (page : Nat) (s : State) : Host.Outcome State Fault Refusal :=
  .next (if !blockPage page then bump (refuseReset s 3 4) pgIVT oIVT_ADDR_ERR 1
    else if s.ctl.rst.isSome then refuseReset s 3 3
    else blockReset (setRstStat s true 3 0) page)

/-- MOD_RESET_DONE: BUSY clears once the partition's segments have ended, or the block is idle (R580, R588). -/
def execModResetDone (s : State) : Host.Outcome State Fault Refusal :=
  .next (match s.ctl.rst with
    | some (k, t) =>
      if k == 2 && s.video.segs.any (fun g => g.part == t && g.running && !g.ended) then s
      else
        let s := fldSet { s with ctl := { s.ctl with rst := none } } pgMOD oMOD_RESET_STAT 63 63 0
        if k == 2 then raise (bump s pgMOD oMOD_PART_RESETS 1) pgMOD 1 else raise (bump s pgMOD oMOD_BLOCK_RESETS 1) pgMOD 2
    | none => s)

/-! ### Service levels, calibration and training (R250, R251, R544-R547, R555). -/

/-- EARLY_SERVICE: the host port is up (R544). -/
def execEarlyService (s : State) : Host.Outcome State Fault Refusal :=
  .next (if serving s && s.boot.service == 0 then raise { s with boot := { s.boot with service := 1 } } pgCAL 1 else s)

/-- The record of a self-calibration: sections 0, 1, 2 and 5 measured, 3 and 4 defaults, SOURCE 2 (R557). -/
def selfCalRecord (s : State) (sections : Bytes) : CalRec :=
  { ok := true, source := 2, valid := 0x27, serial := s.nv.serial, writes := s.nv.cal.writes + 1, sections := sections }

/-- The first whole background test has passed over every cluster store of the region (R238). A store whose test has stopped or is switched off,
and the stores of a region that is off, are not waited for (DESIGN CHOICE, log 119). -/
def storesTested (s : State) (r : Nat) : Bool :=
  let x := rgn s r
  !x.powered || !bit (memCtl s r) 24 || (List.range 12).all fun k => x.tested.contains k || x.exhausted.contains k

/-- What full service waits for (R238, R544): every region calibrated, its stores tested, or fenced, every stack trained or fenced, and no port
in training. -/
def fullReady (s : State) : Bool :=
  (List.range 48).all (fun r => (s.boot.calibrated.contains r && storesTested s r) || bit (regRaw s pgCAL oCAL_FENCED) r)
    && (List.range 12).all (fun d => inPool s d || fenced s d)
    && (List.range 6).all fun port => portState s port != 1 && portState s port != 2

/-- FULL_SERVICE: every item of R544's last column is done. A module whose record failed self-calibrates first (R555); SVN_AUTO burns
the fuses (R553); the scheduler moves regions (R545). -/
def execFullService (s : State) : Host.Outcome State Fault Refusal :=
  .next (if serving s && s.boot.service == 1 && fullReady s then
      let s := if s.nv.cal.ok then s else { s with nv := { s.nv with cal := selfCalRecord s [] } }
      let s := raise { s with boot := { s.boot with service := 2 } } pgCAL 2
      let s := if fldGet s pgSEC oSEC_CTRL 0 0 == 1 then burnSvn s else s
      settle s
    else s)

/-- Fence a region (R241, R546). -/
def fenceRgn (s : State) (r : Nat) : State :=
  let s := setReg s pgCAL oCAL_FENCED (Nat.lor (regRaw s pgCAL oCAL_FENCED) (2 ^ r))
  settle (raise (modRgn s r fun x => { x with owner := none, waking := false, restoring := false, takenFor := none, powered := false, testing := [] }) pgCAL 3)

/-- REGION_CALIBRATION: a region, powered for its known-answer products, is settled at a trim, or fenced (R546). -/
def execRegionCalibration (region : Nat) (ok : Bool) (trim : Int) (s : State) : Host.Outcome State Fault Refusal :=
  .next (if region ≥ 48 then s
    else if ok then
      let s := modRgn s region fun x => { x with powered := true }
      { s with boot := { s.boot with
          calibrated := s.boot.calibrated.filter (· != region) ++ [region]
          trims := s.boot.trims.filter (fun t => t.1 != region) ++ [(region, trim)] } }
    else fenceRgn (bump s pgCAL oCAL_KAT_FAILS 1) region)

/-- HBM_TRAINING_DONE: a stack joins the pool zeroed, is trained again, or is fenced at its third failure (R250, R251). -/
def execHbmTrainingDone (stack : Nat) (lanesOk : Bool) (repairs spares : Nat) (s : State) : Host.Outcome State Fault Refusal :=
  .next (if stack ≥ 12 || fenced s stack || inPool s stack then s
    else
      let pg := pgHBM + stack
      if lanesOk then
        let s := fldSet (fldSet s pg oHBM_STAT 31 24 repairs) pg oHBM_STAT 23 16 (Nat.min spares 64)
        memZero (fldSet s pg oHBM_STAT 12 12 1) (hbmBase stack) (hbmBase (stack + 1))
      else
        let s := modStack s stack fun x => { x with attempts := x.attempts + 1 }
        if (nth s.pool.hbms stack {}).attempts ≥ 3 then raise (fldSet (fldSet s pg oHBM_STAT 13 13 1) pg oHBM_STAT 12 12 0) pg 5 else s)

end Sys2Proof.Machine
end

