-- ==== Sys2Proof/Machine/Requests.lean ====
section
/-! DEFINITION. Requests: the assembly of SUBMIT, the partition's queue, and what a host gets when a request has ended (R458, R465, R493,
R508-R510). -/

namespace Sys2Proof.Machine

/-- A COMPLETE payload (R510). -/
def completePayload (tag part status cflags idx bytes tEnd : Nat) : Bytes :=
  natLe 4 tag ++ natLe 1 part ++ natLe 1 status ++ natLe 1 cflags ++ zeros 1 ++ natLe 4 idx ++ zeros 4 ++ natLe 8 bytes ++ natLe 8 tEnd

/-- Send or keep a message of type COMPLETE. -/
def sendComplete (s : State) (i slot : Nat) (payload : Bytes) : State :=
  let (s, m) := takeMsg s i
  deliverMsg s i { slot := slot, type := tComplete, msg := m, payload := payload }

/-! ### SUBMIT. -/

/-- The header's fixed rules (R508). -/
def submitHeadOk (b : Bytes) : Bool :=
  b.length ≥ 32 && fld b 5 1 < 2 && fld b 6 2 ≤ 64 && 1 ≤ fld b 8 4 && fld b 8 4 ≤ 2 ^ 20 && fld b 0xC 4 == 0
    && fld b 0x10 8 % 128 == 0 && fld b 0x10 8 < 2 ^ 48 && fld b 0x18 8 == 0

/-- Where an inline list begins in the message. -/
def listStart (b : Bytes) : Nat := 32 + 32 * fld b 6 2

/-- A SUBMIT that has ended before it was queued: its COMPLETE (R465, R493, R509). -/
def submitEnds (s : State) (i : Nat) (b : Bytes) (status : Nat) : State :=
  sendComplete s i (sess s i).keySlot (completePayload (fld b 0 4) (if b.length ≥ 5 then fld b 4 1 else 0xFF) status 0 0xFFFFFFFF 0 (now s))

/-- The list bytes of a frame go to LIST_ADDR as they arrive (R509): `b` is the message so far, `old` its length before the frame. -/
def landInline (s : State) (i : Nat) (b : Bytes) (old : Nat) : Option State :=
  let p := fld b 4 1
  if fld b 5 1 == 0 || !ownsPart s i p then some s
  else
    let lo := Nat.max old (listStart b)
    let hi := Nat.min b.length (listStart b + 128 * fld b 8 4)
    if lo ≥ hi then some s
    else
      match vwrite s none p (bytesAt (fld b 0x10 8 + (lo - listStart b)) ((b.drop lo).take (hi - lo))) with
      | .ok s => some s
      | _ => none

/-- Return entries of a whole message. -/
def submitRets (b : Bytes) : List Ret :=
  (List.range (fld b 6 2)).map fun k => ⟨fld b (32 + 32 * k) 8, fld b (40 + 32 * k) 8, fld b (48 + 32 * k) 8⟩

/-- A whole message obeys R508 and R509. -/
def submitOk (s : State) (i : Nat) (b : Bytes) : Bool :=
  submitHeadOk b && b.length == listStart b + (if fld b 5 1 == 1 then 128 * fld b 8 4 else 0)
    && (List.range (fld b 6 2)).all (fun k => fld b (56 + 32 * k) 8 == 0)
    && (!ownsPart s i (fld b 4 1)
        || (rangeInSpace (fld b 0x10 8) (128 * fld b 8 4) && rangeWritable s (fld b 4 1) (fld b 0x10 8) (128 * fld b 8 4)))

/-- A SUBMIT's LAST frame has taken effect: the request is refused, or enters its partition's queue (R465, R509). -/
def submitWhole (s : State) (i : Nat) (a : Asm) : State :=
  let b := a.bytes
  let p := fld b 4 1
  if a.bad || !submitOk s i b then submitEnds s i b stDescriptor
  else if !ownsPart s i p then submitEnds s i b stPartition
  else if (reqsOf s p .queued).length ≥ 32 then submitEnds s i b stNoReservation
  else
    let id := s.sched.nextReq
    let r : Request := { id := id, part := p, sess := i, keySlot := (sess s i).keySlot, tag := fld b 0 4, list := fld b 0x10 8,
                         nops := fld b 8 4, rets := submitRets b }
    { s with sched := { s.sched with nextReq := id + 1, reqs := s.sched.reqs ++ [r] } }

/-- One frame of a SUBMIT message (R493, R508, R509). -/
def submitFrame (s : State) (i msg off : Nat) (last : Bool) (payload : Bytes) : State :=
  let s :=
    match (sess s i).asm with
    | some a => if a.msg == msg then s else submitEnds (modSess s i fun x => { x with asm := none }) i a.bytes stDescriptor
    | none => s
  let a := match (sess s i).asm with | some a => a | none => { msg := msg, bytes := [] }
  let fits := !a.bad && off == a.bytes.length && (off != 0 || submitHeadOk payload)
  let a' : Asm := if fits then { a with bytes := a.bytes ++ payload }
    else { a with bad := true, bytes := if off == 0 && a.bytes.isEmpty then payload else a.bytes }
  let landed := if fits then landInline s i a'.bytes off else some s
  let a' := if landed.isNone then { a' with bad := true } else a'
  let s := landed.getD s
  if last then submitWhole (modSess s i fun x => { x with asm := none }) i a'
  else modSess s i fun x => { x with asm := some a' }

/-! ### Memory by a session (R506, R507). -/

/-- How many bytes of a range partition p can read, page by page. -/
def readable (s : State) (p va n : Nat) : Nat :=
  let good := (pageSteps va n).takeWhile fun a => rangeInSpace a 1 && mayTouch s p a && (translate s p a).isSome
  match good.getLast? with
  | none => 0
  | some a => Nat.min n ((a / Config.pageSmall + 1) * Config.pageSmall - va)

/-- A range needs a page of the flash tier. -/
def needsFlash (s : State) (p va n : Nat) : Bool := (pageSteps va n).any fun a => (translate s p a).any (·.flash)

/-- How many bytes of a range partition p can read before a page of the flash tier. -/
def readableHbm (s : State) (p va n : Nat) : Nat :=
  let good := (pageSteps va n).takeWhile fun a => rangeInSpace a 1 && mayTouch s p a && (translate s p a).any (!·.flash)
  match good.getLast? with
  | none => 0
  | some a => Nat.min n ((a / Config.pageSmall + 1) * Config.pageSmall - va)

/-- The failure of a flash read for session i meets its access to a range that needs flash (R277, R505). -/
def takeReadFail (s : State) (i p va n : Nat) : State × Bool :=
  if (sess s i).readFail && needsFlash s p va n then (modSess s i fun x => { x with readFail := false }, true) else (s, false)

/-- The status of a MEM_WRITE's or MEM_READ's fields for session i: MALFORMED, DENIED, or OK. -/
def memStatus (s : State) (i p : Nat) (reserved : Bool) : Nat :=
  if reserved || p ≥ 16 then 4 else if !ownsPart s i p then 2 else 0

/-- A MEM_WRITE: the state and the status; a failed one writes nothing (R506). -/
def memWriteReq (s : State) (i p : Nat) (reserved : Bool) (va : Nat) (data : Bytes) : State × Nat :=
  let st := memStatus s i p reserved
  if st != 0 then (s, st)
  else if !rangeInSpace va data.length then (s, 1)
  else if !mayTouch s p va then (s, 2)
  else if (takeReadFail s i p va data.length).2 then ((takeReadFail s i p va data.length).1, 3)
  else
    match vwrite s none p (bytesAt va data) with
    | .ok s => (bumpOpen trafficCounters s, 0)
    | .bad => (s, 1)
    | .full => (s, 3)

/-! ### Returns and COMPLETE (R458, R510). -/

/-- Send the returns of a request in order; the bytes sent, whether a length was capped, and the first status other than 0. -/
def sendRets (s : State) (r : Request) : List Ret → Nat → Bool → State × Nat × Bool × Nat
  | [], n, cap => (s, n, cap, 0)
  | e :: es, n, cap =>
    let bad := e.ptr != 0 && !rangeMapped s r.part e.ptr 8
    let actual := if e.ptr == 0 then e.len else vnat s r.part e.ptr 8
    let len := if bad then 0 else Nat.min e.len actual
    let good := if r.retFail then readableHbm s r.part e.addr len else readable s r.part e.addr len
    let st := if bad then 1 else if good == len then 0 else if r.retFail && good < readable s r.part e.addr len then 3 else 1
    let (s, m) := takeMsg s r.sess
    let s := deliverMsg s r.sess { slot := r.keySlot, type := tMemData, msg := m, part := r.part, addr := e.addr, status := st,
                                   payload := vread s r.part e.addr good }
    let cap := cap || (e.ptr != 0 && !bad && actual > e.len)
    if st != 0 then (s, n + framedBytes ((sess s r.sess).maxPayload - 16) good st, cap, st) else sendRets s r es (n + good) cap

/-- An ended request may answer: every segment of its VDECs has ended (R458). -/
def mayComplete (s : State) (r : Request) : Bool :=
  r.st == .ended && !s.video.segs.any fun g => g.req == r.id && !g.ended

/-- The end of a request toward its host: its returns and COMPLETE, which carries ST_TIER_FAIL where a return meets a tier failure (R510). -/
def completeRequest (s : State) (id : Nat) : State :=
  match req? s id with
  | none => s
  | some r =>
    if !mayComplete s r then s
    else
      let s := sendAbort s r r.status
      let (s, bytes, cap, st) := if r.status ≤ 0x09 then sendRets s r r.rets 0 false else (s, 0, false, 0)
      let s := sendComplete s r.sess r.keySlot (completePayload r.tag r.part (if st == 3 then stTierFail else r.status) (if cap then 1 else 0) r.failIdx bytes r.tEnd)
      { s with sched := { s.sched with reqs := s.sched.reqs.filter (·.id != id) }
               video := { s.video with segs := s.video.segs.filter (·.req != id) } }

/-- REQUEST_COMPLETE (R510). -/
def execRequestComplete (req : Nat) (s : State) : Host.Outcome State Fault Refusal := .next (completeRequest s req)

end Sys2Proof.Machine
end

