-- ==== Sys2Proof/Machine/MemEvents.lean ====
section
/-! DEFINITION. Events of the memories: errors of HBM, on-chip memories and table banks, tests and repairs, power of regions, flash wear
and read failures, evictions and zeroing (R205, R235-R245, R258-R261, R269, R275-R277). -/

namespace Sys2Proof.Machine

/-- The HBM or flash page holds the physical address. -/
def Pte.holds (e : Pte) (pa : Nat) : Bool := e.pa ≤ pa && pa < e.pa + e.size

/-- A region is restoring a state of partition p from the save slot that holds the physical address (R473, R478). -/
def restoringFrom (s : State) (p pa : Nat) : Bool :=
  (List.range 48).any fun r =>
    let x := rgn s r
    x.restoring && x.owner == some p
      && x.saved.any fun v => v.part == p && slotBase r v.slot ≤ pa && pa < slotBase r v.slot + 0x8000000

/-- Partitions that map the page of a physical address; of an image page, every partition that maps the image (R258); and the one whose saved state is
being read from there (R478). -/
def partsOnPage (s : State) (pa : Nat) : List Nat :=
  let hit := s.pool.ptes.filter (·.holds pa)
  let images := hit.filterMap (·.image)
  let all := hit ++ s.pool.ptes.filter fun e => match e.image with | some i => images.contains i | none => false
  (List.range 16).filter fun p => restoringFrom s p pa || all.any fun e => e.owner == p

/-- HBM_UNCORRECTABLE: an uncorrectable error at a physical address of a stack (R258). -/
def execHbmUncorrectable (pa : Nat) (s : State) : Host.Outcome State Fault Refusal :=
  .next (if pa ≥ 12 * hbmSize || !serving s then s
    else
      let pg := pgHBM + pa / hbmSize
      let ps := partsOnPage s pa
      let s := bump s pg oHBM_UNCORR 1
      if ps.isEmpty then s else settle (jobFaults (raise s pg 4) ps))

/-- An uncorrectable error in a memory of a region (R245): the job of the slice that owns the region ends. -/
def sramFails (s : State) (r : Nat) : State :=
  if r ≥ 48 || !(rgn s r).powered then s
  else
    let s := bump s (rgnPage r) oRGN_ECC_UNCORR 1
    match (rgn s r).owner with
    | some p => settle (jobFault (raise s (rgnPage r) 42) p)
    | none => s

/-- SRAM_UNCORRECTABLE: an uncorrectable error of a hawk, an accumulator store, a side array, a cluster store outside the catch or a spare bank
(R242, R245); one of the secure store wipes it (R246). -/
def execSramUncorrectable (site : SramSite) (s : State) : Host.Outcome State Fault Refusal :=
  .next (match site with
    | .at pa => (windowRgn pa).elim s (sramFails s)
    | .side u => sramFails s (clusterRgn (u / 16))
    | .spare c => sramFails s (clusterRgn c)
    | .secure => { s with sec := {} })

/-- CATCH_ECC_DISCARD: an uncorrectable error in a catch entry (R244): the entry goes, its chunk is fetched again as on a miss, and nothing else
stops. The entry may be one that the walk of the commands does not show (log 112). -/
def execCatchEccDiscard (site : CatchSite) (s : State) : Host.Outcome State Fault Refusal :=
  .next (if site.cluster < 576 && (rgn s (clusterRgn site.cluster)).powered then
      let pg := rgnPage (clusterRgn site.cluster)
      let again := match (s.fab.kept.filter (·.cluster == site.cluster))[site.entry]? with
        | some e => s.fab.kept.erase e ++ [e]
        | none => s.fab.kept
      bump (bump { s with fab := { s.fab with kept := again } } pg oRGN_ECC_UNCORR 1) pg oRGN_CATCH_MISSES 1
    else s)

/-- SFT_ECC: an uncorrectable error of a table bank in a lookup; firmware rewrites both banks of the region, and the committed user image,
before it runs again (R205). -/
def execSftEcc (region : Nat) (s : State) : Host.Outcome State Fault Refusal :=
  .next (if region ≥ 48 then s
    else
      match (rgn s region).owner with
      | some p => settle (jobFault (raiseLead (modRgn s region Region.loadTable) p 27) p)
      | none => s)

/-! ### Tests and repairs (R235-R241). -/

/-- Redundant words that a bank of a region has used. -/
def sparesOf (x : Region) (bank : Nat) : Nat := cellGet x.spares bank 0

/-- Replace a failing word by a redundant word of its bank, of which there are `cap`; false when none is left (R236, R241). -/
def repairWord (r cap : Nat) (s : State) (bank : Nat) : State × Bool :=
  if sparesOf (rgn s r) bank < cap then
    let s := modRgn s r fun x => { x with spares := cellSet x.spares bank (sparesOf x bank + 1) 0 }
    (raise (bump s (rgnPage r) oRGN_REPAIRS 1) (rgnPage r) 40, true)
  else (s, false)

/-- Repair failing words one after another; false when a word found no redundant word. -/
def repairWords (r cap : Nat) : List Nat → State → State × Bool
  | [], s => (s, true)
  | b :: bs, s =>
    let (s, ok) := repairWord r cap s b
    let (s, ok') := repairWords r cap bs s
    (s, ok && ok')

/-- The test region of a cluster store that its spare bank holds and serves (R236, R240): bank and eighth. A test changes no value (R238), so the
bytes at the addresses of the test region are the spare bank's while it holds them. -/
def spareHolds (s : State) (c : Nat) : Option (Nat × Nat) :=
  let x := rgn s (clusterRgn c)
  if x.testing.contains (c % 12) || x.exhausted.contains (c % 12) then some (nth x.testPos (c % 12) 0 / 8, nth x.testPos (c % 12) 0 % 8) else none

/-- Step 1 of a test: the test region is copied to the spare bank and is served from there; the registers name it (R236). -/
def testBegins (s : State) (r k : Nat) : State :=
  let pg := rgnPage r
  let pos := nth (rgn s r).testPos k 0
  let s := fldSet (fldSet (fldSet s pg oRGN_MEM_STAT 27 24 k) pg oRGN_MEM_STAT 14 9 (pos / 8)) pg oRGN_MEM_STAT 8 6 (pos % 8)
  modRgn s r fun x => { x with testing := x.testing ++ [k] }

/-- Steps 2 to 5: the march, the repairs, and the copy back; with no redundant word left the test region stays in the spare bank and the test of
the store stops (R236, R240). Its reads correct single-bit errors (R243). -/
def testEnds (s : State) (r k : Nat) (f : MarchFacts) : State :=
  let pg := rgnPage r
  let pos := nth (rgn s r).testPos k 0
  let s := modRgn s r fun x => { x with testing := x.testing.filter (· != k) }
  let s := if f.corrected == 0 then s else bump s pg oRGN_ECC_CORR f.corrected
  let (s, ok) := repairWords r 16 ((f.failing.filter (· < 128)).eraseDups.map fun _ => 64 * k + pos / 8) s
  if ok then
    let s := modRgn s r fun x => { x with testPos := setNth x.testPos k ((pos + 1) % 512) }
    if pos == 511 then bump (modRgn s r fun x => { x with tested := x.tested.filter (· != k) ++ [k] }) pg oRGN_TEST_PASSES 1 else s
  else
    let s := modRgn s r fun x => { x with exhausted := x.exhausted ++ [k] }
    raise (fldSet s pg oRGN_MEM_STAT (32 + k) (32 + k) 1) pg 41

/-- The background test of a store: a command begins the test of its next test region, and the command after it ends it. While the region is
halted or restored, none begins (R239). -/
def testRegion (s : State) (c : Nat) (f : MarchFacts) : State :=
  let r := clusterRgn c
  let k := c % 12
  let x := rgn s r
  if c ≥ 576 || !x.powered || x.waking then s
  else if x.testing.contains k then testEnds s r k f
  else if x.exhausted.contains k || x.halted || x.restoring || !bit (memCtl s r) 24 then s
  else testBegins s r k

/-- CS_TEST_REGION: the background test of one test region, in two commands: it begins, and it ends (R236-R240; DESIGN CHOICE, log 113). -/
def execCsTestRegion (cluster : Nat) (facts : MarchFacts) (s : State) : Host.Outcome State Fault Refusal :=
  .next (testRegion s cluster facts)

/-- A region wakes (R235): power, march test, clear, the partition's table. `failing` names the bank, of the 9,216 of its hawks and
accumulator stores, of each word that fails; a side array counts with the accumulator store that it stands beside (R221; log 113). -/
def wakeRegion (s : State) (r : Nat) (failing : List Nat) : State :=
  if r ≥ 48 || !(rgn s r).waking then s
  else
    let (s, ok) := repairWords r 8 ((failing.filter (· < 9216)).map (1000 + ·)) s
    if ok then
      let s := clearRgnMem s r
      modRgn s r fun x => { (x.joins s r) with powered := true, waking := false }
    else settle (fenceRgn (raise s (rgnPage r) 41) r)

/-- REGION_WAKE (R235, R241). -/
def execRegionWake (region : Nat) (failing : List Nat) (s : State) : Host.Outcome State Fault Refusal := .next (wakeRegion s region failing)

/-- REGION_POWER_OFF: 100 µs without a partition (R235). -/
def execRegionPowerOff (region : Nat) (s : State) : Host.Outcome State Fault Refusal :=
  .next (if region < 48 && (rgn s region).owner.isNone && (rgn s region).powered then
      modRgn (clearRgnMem s region) region fun x => { x with powered := false }
    else s)

/-! ### Flash (R260, R261, R277). -/

/-- FLASH_WEAR: where a stack's spare blocks and rated writes stand (R260). -/
def execFlashWear (stack : Nat) (life : FlashLife) (s : State) : Host.Outcome State Fault Refusal :=
  let spare := life.spare
  .next (if stack ≥ 4 then s
    else
      let pg := pgFLS + stack
      let s := { s with nv := { s.nv with
        flashSpare := setNth s.nv.flashSpare stack (Nat.min (spare / 100) 255)
        flashWear := setNth s.nv.flashWear stack (Nat.min life.wear 255) } }
      let s := if spare < 100 && !nth s.nv.wearRaised stack true then
          raise { s with nv := { s.nv with wearRaised := setNth s.nv.wearRaised stack true } } pg 1
        else s
      if spare == 0 && !nth s.nv.flashReadOnly stack true then
        raise { s with nv := { s.nv with flashReadOnly := setNth s.nv.flashReadOnly stack true } } pg 2
      else s)

/-- A macro-op of the request has begun and is not done. -/
def Request.begun (r : Request) : Bool := r.mops.any fun m => m.stage != .done

/-- A request ends with ST_TIER_FAIL (R277). -/
def tierFail (s : State) (id : Nat) : State :=
  settle (failRequest (raise (bump s pgPOL oPOL_TIER_FAILS 1) pgPOL 1) id stTierFail 0xFFFFFFFF)

/-- A flash read for somebody is late or has failed: a running request ends; one that has ended fails its returns (R510); a session's next access
that needs flash fails (R505). -/
def tierMiss (s : State) : TierWait → State
  | .request id =>
    match req? s id with
    | some r =>
      if r.st == .admitted && r.begun then tierFail s id
      else if r.st == .ended && r.status ≤ 9 && !r.retFail && r.rets.any fun e => needsFlash s r.part e.addr e.len then
        modReq (raise (bump s pgPOL oPOL_TIER_FAILS 1) pgPOL 1) id fun r => { r with retFail := true }
      else s
    | none => s
  | .session i => if i < 16 && (sess s i).isOpen then modSess s i fun x => { x with readFail := true } else s

/-- FLASH_READ_FAIL: a read fails after 8 retries (R261, R277). -/
def execFlashReadFail (who : TierWait) (stack : Nat) (s : State) : Host.Outcome State Fault Refusal :=
  .next (if stack ≥ 4 || !serving s then s
    else
      tierMiss (bump (bump s (pgFLS + stack) oFLS_READ_RETRY 8) (pgFLS + stack) oFLS_READ_FAIL 1) who)

/-- The partition has an eviction under way. -/
def evicting (s : State) (p : Nat) : Bool := s.pool.ptes.any fun e => e.owner == p && e.evicting

/-- Its evictions are cancelled: the pages stay in HBM. -/
def cancelEvictions (s : State) (p : Nat) : State :=
  { s with pool := { s.pool with ptes := s.pool.ptes.map fun e => if e.owner == p then { e with evicting := false } else e } }

/-- TIER_DEADLINE_EXPIRY: a wait on HBM room that no page can give ends with ST_NO_RESERVATION (R275), one on a flash read or on an eviction
under way with ST_TIER_FAIL, and a late eviction is cancelled (R277). -/
def execTierDeadlineExpiry (who : TierWait) (stack : Nat) (s : State) : Host.Outcome State Fault Refusal :=
  .next (if stack ≥ 4 then s
    else
      let late (s : State) : State := tierMiss (bump s (pgFLS + stack) oFLS_LATE 1) who
      match who with
      | .session _ => late s
      | .request req =>
        match req? s req with
        | some r =>
          if r.st == .ended then late s
          else if r.st != .admitted || !r.begun then s
          else if r.mops.any (fun m => m.memWait.isSome) && !evicting s r.part then settle (failRequest s req stNoReservation 0xFFFFFFFF)
          else late (cancelEvictions s r.part)
        | none => s)

/-! ### The pool (R269, R275, R276). -/

/-- A request of the partition waits on HBM room. -/
def roomWanted (s : State) (p : Nat) : Bool := (reqsOf s p .admitted).any fun r => r.mops.any fun m => m.memWait.isSome

/-- POOL_EVICTION: the pool ends the eviction under way, or begins one of the oldest page that can go while the partition's HBM use stands
above its quota or a request waits on room: a CLEAN page is dropped at once, a dirty one loses W until it stands in flash (R275, R279). -/
def poolEvict (s : State) (p : Nat) : State :=
  match s.pool.ptes.find? (fun e => e.owner == p && e.evicting) with
  | some e =>
    (match evictPage s p { e with evicting := false } with
      | some s => s
      | none => modPte s e.space e.va fun x => { x with evicting := false })
  | none =>
    if hbmUse s p ≤ quotaH s p && !roomWanted s p then s
    else
      match (evictable s p).find? fun e => (evictPage s p e).isSome with
      | none => s
      | some e =>
        if e.clean && e.home.isSome then (evictPage s p e).getD s
        else modPte s e.space e.va fun x => { x with evicting := true }

/-- POOL_EVICTION (R275). -/
def execPoolEviction (part : Nat) (s : State) : Host.Outcome State Fault Refusal := .next (if part < 16 then poolEvict s part else s)

/-- ALLOCATION_WAIT_END: a page has become evictable or the use has fallen, and the request goes on (R275). -/
def execAllocationWaitEnd (req : Nat) (s : State) : Host.Outcome State Fault Refusal :=
  .next (match req? s req with
    | some r =>
      if hbmUse s r.part + Config.pageSmall ≤ quotaH s r.part || (evictOldest s r.part).isSome then
        modReq s req fun r => { r with mops := r.mops.map fun m => { m with memWait := none } }
      else s
    | none => s)

/-- FRAME_ZEROING: a freed HBM frame is zeroed and free again (R269). -/
def execFrameZeroing (pa : Nat) (s : State) : Host.Outcome State Fault Refusal :=
  .next (match s.pool.dirty.find? (·.1 == pa) with
    | some (a, small) =>
      memZero { s with pool := { s.pool with dirty := s.pool.dirty.filter (·.1 != pa) } } a
        (a + if small then Config.pageSmall else Config.pageLarge)
    | none => s)

end Sys2Proof.Machine
end

