-- ==== Sys2Proof/Machine/Banks.lean ====
section
/-! DEFINITION. Banks, words and ports of the on-chip memories: which accesses a bank serves in a cycle, two accesses to one word, the modes of a
cluster store, and the atomics at its banks (R221-R231, R242-R245). The commands of the module show a bank through the window: a window access
comes with what other ports ask of its bank in the same cycle. An atomic's two slots delay no other access, as the chapter's example has it
(DEDUCED, log 111). -/

namespace Sys2Proof.Machine

/-- Where an address of the on-chip windows lies (R29, R221): a hawk (0), an accumulator store (1) or a cluster store (2), its base, its
banks, and the bank and the word there that hold the address. -/
structure BankAt where
  mem : Nat
  base : Nat
  banks : Nat
  bank : Nat
  word : Nat
  deriving DecidableEq, Repr

/-- The banking table (R221). -/
def bankOf (pa : Nat) : BankAt :=
  let at_ (mem start size banks : Nat) : BankAt :=
    let o := (pa - start) % size
    ⟨mem, pa - o, banks, o / 64 % banks, o / 64 / banks⟩
  if pa < accBase 0 then at_ 0 (hawkBase 0) 0x40000 32
  else if pa < storeBase 0 then at_ 1 (accBase 0) 0x20000 16
  else at_ 2 (storeBase 0) 0x400000 64

/-- The address of a word of the same bank. -/
def BankAt.at_ (b : BankAt) (word : Nat) : Nat := b.base + 64 * (b.banks * word + b.bank)

/-- The window's port (R222). -/
def BankAt.windowPort (b : BankAt) : Nat := if b.mem == 0 then 7 else if b.mem == 1 then 2 else 18

/-- An operation that changes its word. -/
def opWrites : BankOp → Bool
  | .read => false
  | .write .. | .atomic .. => true

/-- An atomic. -/
def opIsAtomic : BankOp → Bool
  | .atomic .. => true
  | .read | .write .. => false

/-- An atomic add. -/
def opIsAdd : BankOp → Bool
  | .atomic k _ _ => k != .swap4 && k != .swap8
  | .read | .write .. => false

/-- The operation reads its word: a write does where it covers a part of an 8-byte granule (R242). -/
def opReads : BankOp → Bool
  | .read | .atomic .. => true
  | .write e _ => (List.range 8).any fun g => bits e (8 * g + 7) (8 * g) != 0 && bits e (8 * g + 7) (8 * g) != 255

/-- The memory has the port, beside the window's, its bank has the word, and only a cluster store has atomics (R222, R228). -/
def BankAt.takes (b : BankAt) (a : PortAcc) : Bool :=
  (if b.mem == 0 then a.port < 7 && a.word < 128 else if b.mem == 1 then a.port < 2 && a.word < 128 else a.port < 20 && a.port != 18 && a.word < 1024)
    && (b.mem == 2 || !opIsAtomic a.op)

/-! ### One operation on a word. -/

/-- Bytes of an element of an atomic. -/
def atomSize : AtomKind → Nat
  | .addInt32 | .addFp32 | .swap4 => 4
  | .addInt64 | .swap8 => 8
  | .addBf16 => 2

/-- A masked element after an atomic (R228). A BF16 sum beyond the range follows the conversions table of R57 (DEDUCED, log 111). -/
def atomElem (k : AtomKind) (old operand : Nat) : Nat :=
  match k with
  | .addInt32 => (old + operand) % 2 ^ 32
  | .addInt64 => (old + operand) % 2 ^ 64
  | .addFp32 => (fAdd (BitVec.ofNat 32 old) (BitVec.ofNat 32 operand)).toNat
  | .addBf16 => (FFmt.bf16.encode true ((FFmt.bf16.decode old).add (FFmt.bf16.decode operand))).1
  | .swap4 | .swap8 => operand

/-- A word after an atomic: the elements that the mask leaves out keep what they hold (R228). -/
def atomWord (k : AtomKind) (mask : Nat) (operand old : Bytes) : Bytes :=
  let n := atomSize k
  ((List.range (64 / n)).map fun i =>
    natLe n (if bit mask i then atomElem k (fld old (n * i) n) (fld operand (n * i) n) else fld old (n * i) n)).flatten

/-- A word after an operation. -/
def opWord (op : BankOp) (old : Bytes) : Bytes :=
  match op with
  | .read => old
  | .write e data => (List.range 64).map fun i => if bit e i then nth data i 0 else nth old i 0
  | .atomic k mask operand => atomWord k mask operand old

/-- What a port is answered: the conflict status, or done, with the word that a read or an atomic returns. -/
structure Served where
  port : Nat
  conflict : Bool
  word : Option Bytes
  deriving DecidableEq, Repr

/-- The word that a read or an atomic returns: open where tile work has left it so, and after an uncorrectable error (R245). -/
def wordRead (s : State) (r pa : Nat) (a : PortAcc) : Bytes :=
  if (rgn s r).openSram || a.ecc == .bad then (List.range 64).map fun i => BitVec.ofNat 8 (takeFree s (100 + 64 * a.port + i))
  else memRead s pa 64

/-- A port carries its operation out (R224-R231): `was` is the state whose word a plain read returns. An atomic that meets an uncorrectable error
changes nothing (R245). -/
def carryOut (b : BankAt) (r : Nat) (was s : State) (a : PortAcc) : State × Served :=
  let pa := b.at_ a.word
  let spoilt := a.ecc == .bad && opIsAtomic a.op
  let ans : Served := ⟨a.port, false, match a.op with
    | .read => some (wordRead was r pa a)
    | .atomic .. => some (wordRead s r pa a)
    | .write .. => none⟩
  let s := if opWrites a.op && !spoilt then memWrite s pa (opWord a.op (memRead s pa 64)) else s
  let s := if opIsAtomic a.op && !spoilt then bump s (rgnPage r) oRGN_ATOMICS 1 else s
  (if a.ecc == .corrected && (opReads a.op || a.port == b.windowPort) then bump s (rgnPage r) oRGN_ECC_CORR 1 else s, ans)

/-! ### A cycle of a bank. -/

/-- Of two ports, the one served first: one that has waited 16 cycles before one that has not, then the lower (R223). -/
def firstPort (a b : PortAcc) : PortAcc :=
  if (a.waited ≥ 16) == (b.waited ≥ 16) then (if b.port < a.port then b else a) else if b.waited ≥ 16 then b else a

/-- The first of some ports, and the others. -/
def takeFirst (l : List PortAcc) : Option (PortAcc × List PortAcc) :=
  match l with
  | [] => none
  | a :: as =>
    let f := as.foldl firstPort a
    some (f, l.erase f)

/-- The higher port's write or atomic loses to the lower's on the same word (R226, R230): under WW_MODE 1, unless both are atomics. -/
def loses (mode : Bool) (a b : PortAcc) : Bool :=
  mode && a.word == b.word && opWrites a.op && opWrites b.op && !(opIsAtomic a.op && opIsAtomic b.op)

/-- A port that reissues what has lost (R227): the fetch engine with the halo transfers, the die fabric, an engine's add. -/
def reissues (a : PortAcc) : Bool := a.port == 16 || a.port == 17 || (a.engine && opIsAdd a.op)

/-- A bank serves one or two ports in a cycle, in ascending port order; what a port has to reissue comes back (R223-R230). -/
def bankCycle (b : BankAt) (r : Nat) (mode : Bool) (s : State) (x : PortAcc) (y : Option PortAcc) : State × List Served × List PortAcc :=
  match y with
  | none => let c := carryOut b r s s x; (c.1, [c.2], [])
  | some y =>
    let lo := if x.port < y.port then x else y
    let hi := if x.port < y.port then y else x
    let c := carryOut b r s s lo
    if loses mode lo hi then
      (bump c.1 (rgnPage r) oRGN_WW_CONFLICTS 1, if reissues hi then [c.2] else [c.2, ⟨hi.port, true, none⟩],
        if reissues hi then [{ hi with waited := 0 }] else [])
    else
      let d := carryOut b r s c.1 hi
      (d.1, [c.2, d.2], [])

/-- A bank serves its ports cycle by cycle; each cycle that a port waits counts (R223). -/
def runBank (b : BankAt) (r : Nat) (mode : Bool) : Nat → State → List PortAcc → State × List Served
  | 0, s, _ => (s, [])
  | n + 1, s, l =>
    match takeFirst l with
    | none => (s, [])
    | some (x, l) =>
      let y := takeFirst l
      let left := match y with | some (_, l) => l | none => []
      let c := bankCycle b r mode s x (y.map (·.1))
      let s := if left.isEmpty then c.1 else bump c.1 (rgnPage r) oRGN_BANK_WAITS left.length
      let d := runBank b r mode n s (c.2.2 ++ left.map fun a => { a with waited := a.waited + 1 })
      (d.1, c.2.1 ++ d.2)

/-- A window access beside what other ports ask of its bank: the state, and what the window is answered. The other ports' answers leave the
bank; an uncorrectable error that any of them meets ends the job (R245). -/
def windowCycle (s : State) (r pa : Nat) (op : BankOp) (c : BankCycle) : State × Served :=
  let b := bankOf pa
  let others := c.others.filter b.takes
  let all := ⟨b.windowPort, 0, b.word, op, false, c.ecc⟩ :: others
  let mode := b.mem == 2 && bit (memCtl s r) ((pa - storeBase 0) / 0x400000 % 12)
  let d := runBank b r mode all.length s all
  let s := bumpFree d.1
  let s := forEach (d.2.filter fun x => x.port != b.windowPort || x.conflict) (fun s x => emit s (.portAnswer x.port x.conflict x.word)) s
  let bad := all.any fun a => a.ecc == .bad && (opReads a.op || a.port == b.windowPort)
  (if bad then sramFails s r else s, (d.2.find? (·.port == b.windowPort)).getD ⟨b.windowPort, true, none⟩)

/-- The window has its bank for itself and error correction finds nothing. -/
def plainCycle (c : BankCycle) : Bool := c.others.isEmpty && c.ecc == .clean

end Sys2Proof.Machine
end

