-- ==== Sys2Proof/Machine/HostPort.lean ====
section
/-! DEFINITION. The host port below IVT: Ethernet frames, the receive buffer and PFC, MKA, ARP, neighbour solicitation and echo, and the
port's state (R485-R491, R513). -/

namespace Sys2Proof.Machine

/-- Bits of HPT_CTRL. -/
def pfcEn (s : State) (p : Nat) : Bool := fldGet s pgHPT oHPT_CTRL (8 + p) (8 + p) == 1
def macsecReq (s : State) : Bool := fldGet s pgHPT oHPT_CTRL 16 16 == 1

/-- The port is up and the module's firmware runs. -/
def hostUp (s : State) : Bool := s.boot.phase == .running && s.host.state == 2

/-! ### Addresses (R489). -/

/-- The IPv6 link-local address: fe80::/64 with the modified EUI-64 of HPT_MAC. -/
def linkLocal (s : State) : Nat :=
  let m := s.nv.mac
  0xFE80 * 2 ^ 112 + (Nat.xor (bits m 47 24) 0x20000) * 2 ^ 40 + 0xFFFE * 2 ^ 24 + bits m 23 0

/-- HPT_IPV6 as one number. -/
def hptIpv6 (s : State) : Nat := regRaw s pgHPT oHPT_IPV6 * 2 ^ 64 + regRaw s pgHPT (oHPT_IPV6 + 8)

/-- The module holds an address. -/
def ownsIp (s : State) (v6 : Bool) (ip : Nat) : Bool :=
  if v6 then ip == linkLocal s || (ip != 0 && ip == hptIpv6 s)
  else ip != 0 && ip == regRaw s pgHPT oHPT_IPV4

/-- ARP_REQUEST: answered for the module's IPv4 address (R489). -/
def execArpRequest (ip mac : Nat) (s : State) : Host.Outcome State Fault Refusal :=
  .next (if hostUp s && ownsIp s false ip then emit s (.answer 1 ip mac) else s)

/-- NEIGHBOUR_SOLICITATION: answered for the module's IPv6 addresses (R489). -/
def execNeighbourSolicitation (ip mac : Nat) (s : State) : Host.Outcome State Fault Refusal :=
  .next (if hostUp s && ownsIp s true ip then emit s (.answer 2 ip mac) else s)

/-- ECHO_REQUEST (R489). -/
def execEchoRequest (ipv6 : Bool) (ip token : Nat) (s : State) : Host.Outcome State Fault Refusal :=
  .next (if hostUp s && ownsIp s ipv6 ip then emit s (.answer 3 ip token) else s)

/-! ### The receive buffer and PFC (R487). -/

/-- Bytes in the receive buffer. -/
def bufBytes (s : State) : Nat := sumNat s.host.buf

/-- Send XOFF or XON for one priority. -/
def sendPfc (xoff : Bool) (s : State) (p : Nat) : State :=
  let s := { s with host := { s.host with xoff := if xoff then s.host.xoff ++ [p] else s.host.xoff.filter (· != p) } }
  emit (bump s pgHPT oHPT_PFC_TX 1) (.pfc p xoff)

/-- Above 75 % of 16 MiB, XOFF for every enabled priority; below 50 %, XON. -/
def pfcCheck (s : State) : State :=
  if bufBytes s > 12 * 2 ^ 20 then
    forEach ((List.range 8).filter fun p => pfcEn s p && !s.host.xoff.contains p) (sendPfc true) s
  else if bufBytes s < 8 * 2 ^ 20 then forEach s.host.xoff (sendPfc false) s
  else s

/-- The module takes the oldest frame of the buffer. -/
def takeBuf (s : State) : State := pfcCheck { s with host := { s.host with buf := s.host.buf.drop 1 } }

/-- The VLAN rule of R486. -/
def vlanOk (s : State) (v : Option Nat) : Bool :=
  if fldGet s pgHPT oHPT_VLAN 12 12 == 1 then v == some (fldGet s pgHPT oHPT_VLAN 11 0) else v.isNone || v == some 0

/-- The UDP ports at which the module takes IVT: UDP_PORT, and the port at which an open session was opened (R490, R514). -/
def ivtPort (s : State) (p : Nat) : Bool :=
  p == fldGet s pgIVT oIVT_CTRL 15 0 || (List.range 16).any fun i => (sess s i).isOpen && (sess s i).udp == p

/-- The datagram is one of IVT for this module (R490). -/
def ivtDatagram (s : State) (f : EthFacts) : Bool :=
  f.isUdp && ownsIp s f.ipv6 f.dstIp && ivtPort s f.dstPort && !f.fragment && !f.optionsOrExt
    && (match f.checksum with
        | some ok => ok
        | none => !f.ipv6)

/-- Counters of codewords that a frame moves: those corrected, and of a frame that fails its FCS those that were past correction (R485, log 8). -/
def fecCounters (f : EthFacts) : List (Nat × Nat) := (pgHPT, oHPT_FEC_CORR) :: if f.fcsOk then [] else [(pgHPT, oHPT_FEC_UNCORR)]

/-- ETH_FRAME_RECEIVE: drops by R486-R488, then the buffer. A frame that R486 lets pass with a VLAN other than the configured one does
not exist while TAGGED is 1; PFC frames carry no VLAN. -/
def execEthFrameReceive (f : EthFacts) (s : State) : Host.Outcome State Fault Refusal :=
  .next (if !(s.host.state == 2 || s.host.state == 3) || s.boot.phase != .running then s
    else
    let s := bumpOpen (fecCounters f) s
    if !f.fcsOk || f.length > 9216 || (!f.isPfc && !vlanOk s f.vlan) then bump s pgHPT oHPT_RX_DROPS 1
    else if f.isPfc then bump s pgHPT oHPT_RX_FRAMES 1
    else if !f.isMka && ((macsecReq s && !f.macsec) || (f.macsec && !s.host.macsecLive)) then bump s pgHPT oHPT_MACSEC_DROPS 1
    else if !pfcEn s (f.priority % 8) && bufBytes s + f.length > 16 * 2 ^ 20 then bump s pgHPT oHPT_RX_DROPS 1
    else
      let s := bump s pgHPT oHPT_RX_FRAMES 1
      if !f.isMka && !f.isAnswered && ivtDatagram s f then pfcCheck { s with host := { s.host with buf := s.host.buf ++ [f.length] } } else s)

/-- PFC_FRAME_RECEIVE: each priority named is paused, or resumes; a priority whose PFC_EN bit is 0 takes no part (R487). -/
def execPfcFrameReceive (pauses : List (Nat × Bool)) (s : State) : Host.Outcome State Fault Refusal :=
  .next (if !hostUp s then s
    else
      let s := bump s pgHPT oHPT_PFC_RX 1
      pumpAll (forEach pauses (fun s (p, pause) =>
        if p < 8 && pfcEn s p then
          let rest := s.host.paused.filter (· != p)
          { s with host := { s.host with paused := if pause then rest ++ [p] else rest } }
        else s) s))

/-- PFC_PAUSE_EXPIRY (R487). -/
def execPfcPauseExpiry (priority : Nat) (s : State) : Host.Outcome State Fault Refusal :=
  .next (pumpAll { s with host := { s.host with paused := s.host.paused.filter (· != priority) } })

/-! ### The port's state and MACsec (R488, R513). -/

/-- UP, or SECURING while MACsec is required and no association is live. -/
def upState (s : State) : Nat := if macsecReq s && !s.host.macsecLive then 3 else 2

/-- A link that stands is UP or SECURING as MACsec has it. -/
def reSecure (s : State) : State := if s.host.state == 2 || s.host.state == 3 then setPort s (upState s) s.host.lanes else s

/-- MKA_FRAME_RECEIVE: a valid frame establishes or renews the association while a CAK is held (R488). -/
def execMkaFrameReceive (ok : Bool) (s : State) : Host.Outcome State Fault Refusal :=
  .next (if ok && !s.sec.cak.isEmpty && s.boot.phase == .running && (s.host.state == 2 || s.host.state == 3) then
      reSecure { s with host := { s.host with macsecLive := true } }
    else s)

/-- HPT_MKA_FAIL: MKA fails to establish or renew the association, which lapses (R488, R515). -/
def execHptMkaFail (s : State) : Host.Outcome State Fault Refusal :=
  .next (if s.boot.phase == .running then reSecure (raise { s with host := { s.host with macsecLive := false } } pgHPT 3) else s)

/-- HOST_PORT_STATE_CHANGE (R513). -/
def execHostPortStateChange (linkUp training : Bool) (lanes : Nat) (s : State) : Host.Outcome State Fault Refusal :=
  .next (if !serving s then s
    else setPort s (if linkUp then upState s else if training then 1 else 0) (Nat.min lanes 8))

end Sys2Proof.Machine
end

