-- ==== Sys2Proof/Machine/Images.lean ====
section
/-! DEFINITION. Image slots in flash (R259, R262, R263): slot k of image i holds AREA x 2 GiB, striped over the four stacks in 2 MiB
pages. Where a slot lies within the image area is the module's own affair: slot 2i + k takes the next AREA x 512 MiB of each stack. -/

namespace Sys2Proof.Machine

/-- Bytes of a slot. -/
def imgSlotSize (s : State) : Nat := s.nv.area * 2 * 2 ^ 30

/-- The physical address of byte `x` of a slot. -/
def imgPa (s : State) (i k x : Nat) : Nat :=
  let page := x / Config.pageLarge
  flashBase (page % 4) + 16 * 2 ^ 30 + (2 * i + k) * (s.nv.area * 2 ^ 29) + page / 4 * Config.pageLarge + x % Config.pageLarge

/-- Bytes of a slot. -/
def imgRead (s : State) (i k x : Nat) : Nat → Bytes
  | 0 => []
  | n + 1 => memGet s (imgPa s i k x) :: imgRead s i k (x + 1) n

/-- Store bytes in a slot. -/
def imgWrite (s : State) (i k x : Nat) : Bytes → State
  | [] => s
  | b :: bs => imgWrite (memSet s (imgPa s i k x) b) i k (x + 1) bs

/-- A field of a slot's header. -/
def imgFld (s : State) (i k off n : Nat) : Nat := leNat (imgRead s i k off n)

/-- LENGTH of a slot. -/
def imgLen (s : State) (i k : Nat) : Nat := imgFld s i k 0x10 8

/-- A slot is sealed (R262). -/
def imgSealed (s : State) (i k : Nat) : Bool :=
  imgFld s i k 0 8 == 0x5EA1ED0000000001 && imgLen s i k ≤ imgSlotSize s - 4096
    && sha3 (imgRead s i k 4096 (imgLen s i k)) == imgRead s i k 0x20 64

/-- The slot in force: the sealed slot with the larger GENERATION. -/
def imgInForce (s : State) (i : Nat) : Option Nat :=
  match imgSealed s i 0, imgSealed s i 1 with
  | true, true => some (if imgFld s i 1 8 8 > imgFld s i 0 8 8 then 1 else 0)
  | true, false => some 0
  | false, true => some 1
  | false, false => none

/-- The slot that a commit writes (R263). -/
def imgFree (s : State) (i : Nat) : Nat := match imgInForce s i with | some 0 => 1 | _ => 0

/-- Some image slot is sealed (R259). -/
def anySealed (s : State) : Bool := (List.range 16).any fun i => imgSealed s i 0 || imgSealed s i 1

end Sys2Proof.Machine
end

