-- ==== Sys2Proof/Machine/Links.lean ====
section
/-! DEFINITION. The Swilar links: bring-up, sparing and degrading, flits through the routers, the installation table and the slice
boxes, and the flooded bell messages (R346-R359, R372). LNK_STAT: STATE [2:0], BULK_LANES [18:11], SPARES_USED [21:19], BELL_LANES
[23:22]. -/

namespace Sys2Proof.Machine

/-- The states of a port. -/
abbrev lnkDARK : Nat := 0
abbrev lnkTRAINING : Nat := 1
abbrev lnkTRAINED : Nat := 2
abbrev lnkUP : Nat := 3
abbrev lnkDEGRADED : Nat := 4
abbrev lnkFAILED : Nat := 5
abbrev lnkMISCABLED : Nat := 6

/-- Put a port in a state. -/
def setPortState (s : State) (port st : Nat) : State := fldSet s (pgLNK + port) oLNK_STAT 2 0 st

/-- Lanes of a port. -/
def bulkLanes (s : State) (port : Nat) : Nat := fldGet s (pgLNK + port) oLNK_STAT 18 11
def sparesUsed (s : State) (port : Nat) : Nat := fldGet s (pgLNK + port) oLNK_STAT 21 19
def bellLanes (s : State) (port : Nat) : Nat := fldGet s (pgLNK + port) oLNK_STAT 23 22

/-- The peer reports the module's own plane, the coordinates one step beyond the port, and the opposite port (R352). -/
def peerFits (s : State) (port : Nat) : Bool :=
  let v := regRaw s (pgLNK + port) oLNK_PEER
  let want (a : Nat) : Nat := if portAxis port == a then beyond s port else coord s a
  bits v 31 24 == fldGet s pgRTR oRTR_PLANE 31 24 && bits v 2 0 == want 0 && bits v 6 4 == want 1 && bits v 11 8 == want 2
    && (nth s.links.ports port {}).peerPort == (port + 3) % 6

/-- Step 5 of the bring-up: a port whose peer has reported is judged once the installation table is valid; on an axis of length 1
the port is DARK (R352). What waits for the port goes once it is UP. -/
def judgePort (s : State) (port : Nat) : State :=
  if planeLen s (portAxis port) == 1 then setPortState s port lnkDARK
  else if fldGet s pgRTR oRTR_COORD 31 31 == 0 then s
  else if peerFits s port then
    let s := raise (setPortState s port lnkUP) (pgLNK + port) 1
    drainPort (if bulkLanes s port < 72 then raise (setPortState s port lnkDEGRADED) (pgLNK + port) 4 else s) port
  else raise (setPortState s port lnkMISCABLED) (pgLNK + port) 6

/-- Spares that a bring-up assigns: one in place of every lane that fails its test, as far as they go (R347). -/
def usedSpares (f : BringupFacts) : Nat := Nat.min (Nat.min f.badBulk 72 + Nat.min f.badBell 2) (4 - f.badSpare)

/-- Bell and bulk lanes after it: where there are fewer spares than failing lanes, bell lanes come first (DESIGN CHOICE, log 100). -/
def goodBell (f : BringupFacts) : Nat := 2 - (Nat.min f.badBell 2 - usedSpares f)
def goodBulk (f : BringupFacts) : Nat := 72 - (Nat.min f.badBulk 72 - (usedSpares f - Nat.min f.badBell 2))

/-- A port's record as step 3 leaves it: flits are numbered anew, and the peer has said what it has room for (R349, R355, R374). -/
def freshPort (s : State) (port : Nat) (f : BringupFacts) : Port :=
  { spares := 4 - f.badSpare, ctrl := regRaw s (pgLNK + port) oLNK_CTRL, credits := (List.range 3).map fun ch => nth f.credits ch 0
    wait := (portOf s port).wait }

/-- Steps 1-5 of a bring-up with what the port has found (R346-R348, R352). -/
def bringup (s : State) (port : Nat) (f : BringupFacts) : State :=
  let pg := pgLNK + port
  let st := portState s port
  if port ≥ 6 || !serving s || !(st == lnkDARK || st == lnkTRAINING) then s
  else if !f.light || planeLen s (portAxis port) == 1 then setPortState s port lnkDARK
  else
    let s := setReg s pg oLNK_STAT (at_ (goodBell f) 22 + at_ (usedSpares f) 19 + at_ (goodBulk f) 11 + lnkTRAINING)
    let s := modPort s port fun _ => freshPort s port f
    if goodBulk f < 64 || goodBell f == 0 then setPortState s port lnkFAILED
    else
      let s := setReg s pg oLNK_PEER
        (at_ (f.peerPlane % 256) 24 + at_ (f.peerZ % 16) 8 + flag true 7 + at_ (f.peerY % 8) 4 + f.peerX % 8)
      judgePort (setPortState (modPort s port fun x => { x with peerPort := f.peerPort }) port lnkTRAINED) port

/-- LINK_BRINGUP: a port goes through its bring-up (R347, R352). -/
def execLinkBringup (port : Nat) (f : BringupFacts) (s : State) : Host.Outcome State Fault Refusal := .next (bringup s port f)

/-- A valid slice entry contains the port's link. -/
def linkInUse (s : State) (port : Nat) : Bool := (List.range 16).any fun p => linkInBox s (sliceBox s p) port

/-- A write of LNK_CTRL.RETRAIN: a FAILED port stays so while a valid slice entry contains its link (R351). -/
def linkRetrain (s : State) (port : Nat) : State :=
  if portState s port == lnkFAILED && linkInUse s port then s
  else
    let s := if portLive s port then raise s (pgLNK + port) 2 else s
    setReg (setPortState s port lnkTRAINING) (pgLNK + port) oLNK_PEER 0

/-- A spare lane is left. -/
def spareLeft (s : State) (port : Nat) : Bool := sparesUsed s port < Nat.min 4 (portOf s port).spares

/-- A bit error rate, in parts of 10^15, lies above 10^-SPARE_BER (R347). -/
def aboveBer (s : State) (port ber : Nat) : Bool := ber > 10 ^ (15 - Nat.max 4 (bits (portOf s port).ctrl 15 12))

/-- LANE_SPARED: a lane's bit error rate before correction has stayed for 1 ms where it stands; a spare takes the place of the lane when
that is too high (R347). What the swap damages, the peer asks for again (R349). -/
def execLaneSpared (lane : LaneRate) (s : State) : Host.Outcome State Fault Refusal :=
  let port := lane.port
  .next (if port < 6 && portLive s port && spareLeft s port && aboveBer s port lane.ber then
      raise (fldSet s (pgLNK + port) oLNK_STAT 21 19 (sparesUsed s port + 1)) (pgLNK + port) 3
    else s)

/-- A lane fails and no spare is left (R348). -/
def laneFails (s : State) (port : Nat) (bellLane : Bool) : State :=
  if port ≥ 6 || !portLive s port || spareLeft s port then s
  else if bellLane then
    let s := fldSet s (pgLNK + port) oLNK_STAT 23 22 (bellLanes s port - 1)
    if bellLanes s port == 0 then settle (linkError s port) else s
  else
    let s := fldSet s (pgLNK + port) oLNK_STAT 18 11 (bulkLanes s port - 1)
    if bulkLanes s port < 64 then settle (linkError s port)
    else if portState s port == lnkUP then raise (setPortState s port lnkDEGRADED) (pgLNK + port) 4
    else s

/-- LINK_DEGRADED: the port runs on its remaining lanes, or fails (R348). -/
def execLinkDegraded (port : Nat) (bellLane : Bool) (s : State) : Host.Outcome State Fault Refusal := .next (laneFails s port bellLane)

/-- LINK_UNCORRECTABLE: retries are used up, or light is lost, on a port that carries any channel (R349-R351). -/
def execLinkUncorrectable (port : Nat) (s : State) : Host.Outcome State Fault Refusal :=
  .next (if port < 6 && portCarries s port 2 then settle (linkError s port) else s)

/-! ### Flits (R355, R356). -/

/-- A flit that a router drops. -/
def dropFlit (s : State) : State := raise (bump s pgRTR oRTR_TAG_DROPS 1) pgRTR 3

/-- Hops from offset `u` to offset `v` on an axis of the box: a box that fills the axis is a ring. -/
def hops (n l u v : Nat) : Nat :=
  let d := if u ≤ v then v - u else u - v
  if n == l then Nat.min d (l - d) else d

/-- The module's port brings a flit nearer to its destination without leaving the box (R356). -/
def portNearer (s : State) (b : Box) (dst : List Nat) (port : Nat) : Bool :=
  let a := portAxis port
  let n := nth b.extent a 1
  let l := planeLen s a
  let v := boxOff s b a (nth dst a 0)
  linkInBox s b port && hops n l (boxOff s b a (beyond s port)) v < hops n l (boxOff s b a (coord s a)) v

/-- The port by which a haulage flit goes on: a step forward in the rank ring, whose destination stands at offset 0 on the box's first axis,
returns along X, then Y, then Z; a step backward takes the same links the other way (R326). -/
def haulPort (s : State) (b : Box) (dst : List Nat) : Option Nat :=
  let u (a : Nat) : Nat := boxOff s b a (coord s a)
  let v (a : Nat) : Nat := boxOff s b a (nth dst a 0)
  let forward := (([0, 1, 2].find? fun a => nth b.extent a 1 ≥ 2).map v).getD 0 == 0
  ((if forward then [0, 1, 2] else [2, 1, 0]).find? fun a => u a != v a).map fun a => if v a < u a then a else a + 3

/-- The ports by which a flit for another module may go on: for haulage that of its route, else those that bring it nearer (R326, R356). -/
def flitPorts (s : State) (f : Flit) : List Nat :=
  let b := sliceBox s f.tag
  let dst := [f.dstX, f.dstY, f.dstZ]
  if f.channel == 1 then (haulPort s b dst).toList.filter (linkInBox s b) else (List.range 6).filter (portNearer s b dst)

/-- A flit goes on toward another module, by a port that the model leaves open where there are several; one whose link or destination lies
outside its box is dropped (R356). What a flit for this module carries arrives by commands of its own. A flit whose port is down waits there:
it never goes round (R358). -/
def routeFlit (s : State) (port : Nat) (f : Flit) : State :=
  let b := sliceBox s f.tag
  if !linkInBox s b port || !inBox s b f.dstX f.dstY f.dstZ then dropFlit s
  else if [f.dstX, f.dstY, f.dstZ] == [coord s 0, coord s 1, coord s 2] then s
  else
    match flitPorts s f with
    | [] => dropFlit s
    | p :: ps =>
      let out := nth (p :: ps) (takeFree s 0 % (ps.length + 1)) p
      bumpFree (sendOn s out f.channel f.tag f.bytes (.flit out f))

/-- FLIT_RECEIVE: a flit with a wrong CRC is asked for again, and what follows on its channel before it comes again is not taken; one that is
taken brings credits and the peer's own requests, and goes on if it is for another module (R349, R352, R355, R356). -/
def execFlitReceive (port : Nat) (f : Flit) (s : State) : Host.Outcome State Fault Refusal :=
  .next (if port ≥ 6 || !serving s || !routes s port f.channel then s
    else if !f.crcOk then settle (flitFails s port f.channel)
    else if f.seq != nth (portOf s port).rx f.channel 0 then s
    else
      let s := giveCredits (flitCame (rxOn s port f.bytes) port f.channel) port f.credits
      match f.ask with
      | some (ch, seq) => settle (resendFlits (routeFlit s port f) port ch seq)
      | none => routeFlit s port f)

/-! ### Bell messages that flood the box (R339, R341, R372). -/

/-- A bell message of tag p may enter by a port (R356). -/
def bellOk (s : State) (port p : Nat) : Bool := port < 6 && serving s && portLive s port && p < 16

/-- A flooded bell message: dropped outside its box, else handled by `f`. -/
def onBell (s : State) (port p : Nat) (f : State → State) : State :=
  if !bellOk s port p then s else if !linkInBox s (sliceBox s p) port then dropFlit s else f s

/-- BELL_FAULT: the job ends here with ST_FAULT, and the message is passed on once (R351, R372, R479). -/
def execBellFault (port tag rank : Nat) (s : State) : Host.Outcome State Fault Refusal :=
  .next (onBell s port tag fun s =>
    if s.links.faults.contains (tag, rank) then s
    else
      let s := { s with links := { s.links with faults := s.links.faults ++ [(tag, rank)] } }
      settle (endJobHere (bellFlood s tag (some port) bellFAULT stFault rank []) tag stFault))

/-- BELL_HELD: an announcement of another module is set or cleared (R341, R371). -/
def execBellHeld (port tag rank : Nat) (set : Bool) (s : State) : Host.Outcome State Fault Refusal :=
  .next (onBell s port tag fun s =>
    let stands := s.links.heldMarks.contains ⟨tag, rank⟩
    if set == stands then s
    else
      let marks := s.links.heldMarks.filter (· != ⟨tag, rank⟩)
      let s := { s with links := { s.links with heldMarks := if set then marks ++ [⟨tag, rank⟩] else marks } }
      bellFlood s tag (some port) (if set then bellHELD else bellUNHELD) rank 0 [])

/-! ### The installation table and the slice boxes (R353, R354, R357). -/

/-- A write of RTR_COORD or RTR_PLANE: ignored while a slice entry is valid; every port that is not DARK or FAILED goes back to
step 5, as far as it has come to step 4 (R353). -/
def coordWrite (s : State) (plane : Bool) (v : Nat) : State :=
  if (List.range 16).any fun p => (sliceBox s p).valid then s
  else
    let s := if plane then setReg s pgRTR oRTR_PLANE (at_ (bits v 31 24) 24 + at_ (bits v 11 8) 8 + at_ (bits v 6 4) 4 + bits v 2 0)
      else setReg s pgRTR oRTR_COORD (at_ (bits v 31 31) 31 + at_ (bits v 11 8) 8 + at_ (bits v 6 4) 4 + bits v 2 0)
    forEach (List.range 6) (fun s port =>
      let st := portState s port
      if st == lnkDARK || st == lnkTRAINING || st == lnkFAILED then s
      else
        let s := if portLive s port then raise s (pgLNK + port) 2 else s
        judgePort (setPortState s port lnkTRAINED) port) s

/-- The box contains a module whose connecting port is FAILED or MISCABLED (R357). -/
def boxBroken (s : State) (b : Box) : Bool :=
  (List.range 6).any fun port => linkInBox s { b with valid := true } port && (portState s port == lnkFAILED || portState s port == lnkMISCABLED)

/-- A write of RTR_SLICE[p] that R357 rejects. -/
def sliceRejected (s : State) (p v : Nat) : Bool :=
  let b := boxOf v
  let axisBad (a : Nat) : Bool :=
    let l := planeLen s a
    let n := nth b.extent a 1
    n > l || (l < fullLen a && n != l && nth b.origin a 0 + n > l)
  partBusy s p || (b.valid && !inBox s b (coord s 0) (coord s 1) (coord s 2)) || [0, 1, 2].any axisBad || boxBroken s b

/-- A write of RTR_SLICE[p] (R357). -/
def sliceWrite (s : State) (p v : Nat) : State :=
  if sliceRejected s p v then raise s pgRTR 5
  else
    newJob (setReg s pgRTR (oRTR_SLICE + 8 * p) (at_ (bits v 63 63) 63 + at_ (bits v 27 24) 24 + at_ (bits v 22 20) 20
      + at_ (bits v 18 16) 16 + at_ (bits v 15 12) 12 + at_ (bits v 10 8) 8 + at_ (bits v 6 4) 4)) p []

end Sys2Proof.Machine
end

