-- ==== Sys2Proof/Machine/Security.lean ====
section
/-! DEFINITION. SEC and CAL commands (R553, R554, R556, R557, R559-R562, R566): their checks, their results, and what their end applies. A
command's effect is applied at its end, so that a reset meanwhile leaves the old contents (R551). -/

namespace Sys2Proof.Machine

/-- A register that names a range: PARTITION [63:60] and a virtual address [59:0] (SEC_SRC, CAL_SRC). -/
def srcPart (v : Nat) : Nat := bits v 63 60
def srcVa (v : Nat) : Nat := bits v 59 0

/-- The range is mapped in a partition that the session owns (R566). -/
def srcOk (s : State) (i v n : Nat) (write : Bool) : Bool :=
  ownsPart s i (srcPart v) && rangeInSpace (srcVa v) n && rangeMapped s (srcPart v) (srcVa v) n
    && (!write || rangeWritable s (srcPart v) (srcVa v) n)

/-- The bytes of SEC_STAGE. -/
def stageBytes (s : State) : Bytes := ((List.range 324).map fun k => natLe 8 (regRaw s pgSEC (oSEC_STAGE + 8 * k))).flatten

/-- What a SEC command comes to: its result, and, when 0, the stores as they will stand, key slots to lose sessions of, and whether a warm
reset follows. -/
structure SecPlan where
  result : Nat
  nv : Option Nv := none
  lose : Option Nat := none

/-- The result only. -/
def SecPlan.fail (r : Nat) : SecPlan := { result := r }

/-- Slots 1-15 may be written (life-cycle table). -/
def slotsWritable (s : State) : Bool := s.nv.life.state ≤ 2

/-- KEY_WRITE: ARG holds slot [3:0] and role [5:4] (R559). -/
def planKeyWrite (s : State) (arg : Nat) : SecPlan :=
  let k := bits arg 3 0
  let role := bits arg 5 4
  if k == 0 || role == 0 || role == 3 || arg ≥ 64 then .fail 1
  else if !slotsWritable s then .fail 2
  else
    { result := 0
      nv := some (writeKeyStore s.nv fun c => { c with slots := setNth c.slots (k - 1) ⟨role, (stageBytes s).take 2592⟩ })
      lose := some k }

/-- KEY_ERASE: ARG holds the slot. -/
def planKeyErase (s : State) (arg : Nat) : SecPlan :=
  if arg == 0 || arg ≥ 16 then .fail 1
  else if !slotsWritable s then .fail 2
  else { result := 0, nv := some (writeKeyStore s.nv fun c => { c with slots := setNth c.slots (arg - 1) {} }), lose := some arg }

/-- CAK_WRITE: CAK in bytes 0-31, CKN length in byte 32, CKN in 33-64 (R560). -/
def planCakWrite (s : State) (arg : Nat) : SecPlan :=
  let b := stageBytes s
  let n := fld b 32 1
  if arg != 0 || n > 32 then .fail 1
  else { result := 0, nv := some (writeKeyStore s.nv fun c => { c with cak := b.take 32, ckn := (b.drop 33).take n }) }

/-- The facts that the boot ROM's checks need of an image (R552). -/
def imageFacts (im : Bytes) : FwSlot :=
  let len := fld im 0x18 8
  let key := fld im 9 1
  { sealed := true
    formOk := fld im 0 8 == 0x4B4C594600000001 && fld im 8 1 < 64 && key ≤ 3 && fld im 0x0A 1 < 16 && allZero ((im.drop 0xB).take 5)
      && len ≤ 256 * 2 ^ 20 - 12 * 1024 && allZero ((im.drop 0x60).take 32) && allZero ((im.drop 0x1293).take 3437)
    sigOk := Config.verify (Config.romKey key) (im.take 0x80) ((im.drop 0x80).take 4627)
    bodyOk := sha3 ((im.drop 0x2000).take len) == (im.drop 0x20).take 64
    svn := fld im 8 1, keyId := key, revoke := fld im 0xA 1, build := fld im 0x10 8, len := len, bodyHash := (im.drop 0x20).take 64 }

/-- FW_COMMIT (R554): verification as the boot ROM's; the slot not in force takes the image. -/
def planFwCommit (s : State) (i arg : Nat) : SecPlan :=
  let src := regRaw s pgSEC oSEC_SRC
  if arg != 0 || !srcOk s i src 0x2000 false then .fail 1
  else
    let head := vread s (srcPart src) (srcVa src) 0x2000
    let len := fld head 0x18 8
    if len > 256 * 2 ^ 20 - 12 * 1024 then .fail 3
    else if !srcOk s i src (0x2000 + len) false then .fail 1
    else
      let f := imageFacts (vread s (srcPart src) (srcVa src) (0x2000 + len))
      if !(f.formOk && f.sigOk && f.bodyOk) || bit s.nv.revoked f.keyId then .fail 3
      else if f.svn < s.nv.svnFuse then .fail 4
      else
        let cur := s.boot.fwSlot
        { result := 0, nv := some { s.nv with fw := setNth s.nv.fw (1 - cur) { f with generation := (nth s.nv.fw cur {}).generation + 1 } } }

/-- A Knaene token that matches the module (R561). -/
def tokenOk (s : State) (tok : Bytes) (target : Nat) : Bool :=
  fld tok 0 8 == s.nv.serial && fld tok 8 1 == s.nv.life.state && fld tok 9 1 == target && fld tok 0xA 2 == 0
    && fld tok 0xC 4 == s.nv.transitions && (target == 1 || allZero ((tok.drop 0x10).take 2592))
    && Config.verify (Config.romKey 6) (tok.take 2608) ((tok.drop 2608).take 4627)

/-- TRANSITION (R561, R562). Every command comes from a secure session, so a token is needed only where the table names nothing else. -/
def planTransition (s : State) (i arg : Nat) : SecPlan :=
  let st := s.nv.life.state
  let src := regRaw s pgSEC oSEC_SRC
  let needsToken := (st == 0 && arg == 1) || (st == 3 && arg == 0)
  let legal := needsToken || (st == 1 && arg == 2) || (st == 2 && arg == 1) || ((st == 1 || st == 2) && arg == 3) || (st != 4 && arg == 4)
  if arg > 4 then .fail 1
  else if !legal || s.nv.transitions ≥ 64 then .fail 2
  else if needsToken && !srcOk s i src 7235 false then .fail 1
  else
    let tok := if needsToken then vread s (srcPart src) (srcVa src) 7235 else []
    if needsToken && !tokenOk s tok arg then .fail 3
    else
      let owner := if arg == 1 then (if st == 0 then (tok.drop 0x10).take 2592 else (stageBytes s).take 2592)
        else if arg == 2 then s.nv.life.ownerKey else []
      let nv := { s.nv with
        life := { s.nv.life with counter := s.nv.transitions + 1, state := arg, ownerKey := owner }
        transitions := s.nv.transitions + 1, scrapFuse := s.nv.scrapFuse || arg == 4 }
      { result := 0
        nv := some (if arg == 2 then nv else writeKeyStore nv (erasedStore (some (if arg == 1 then takeFree s 0 + 1 else 0)))) }

/-- What the command will come to, judged when it is written (R566). -/
def secPlan (s : State) (i op arg : Nat) : SecPlan :=
  match op with
  | 1 => planKeyWrite s arg
  | 2 => planKeyErase s arg
  | 3 => planCakWrite s arg
  | 4 => planFwCommit s i arg
  | 5 => if arg != 0 then .fail 1 else { result := 0 }
  | 6 => planTransition s i arg
  | _ => .fail 1

/-- The end of a SEC command without BUSY: OP, RESULT, the event and the counter (R566). -/
def secEnd (s : State) (op result : Nat) : State :=
  let s := setReg s pgSEC oSEC_CMD_STAT (op % 256 * 2 ^ 48 + result)
  if result == 0 then raise s pgSEC 1 else raise (bump s pgSEC oSEC_CMD_FAILS 1) pgSEC 2

/-- A write of SEC_CMD by session i (R5, R566). A command written while one runs is refused with RESULT 6, and the other goes on. -/
def secCmd (s : State) (i v : Nat) : State :=
  let op := bits v 63 56
  let arg := bits v 55 48
  if s.ctl.sec.isSome then
    raise (bump (fldSet s pgSEC oSEC_CMD_STAT 7 0 6) pgSEC oSEC_CMD_FAILS 1) pgSEC 2
  else if bits v 47 0 != 0 then secEnd s op 1
  else
    let s := setReg s pgSEC oSEC_CMD (op * 2 ^ 56 + arg * 2 ^ 48)
    let p := secPlan s i op arg
    if p.result != 0 then secEnd s op p.result
    else
      let s := setReg s pgSEC oSEC_CMD_STAT (2 ^ 63 + op * 2 ^ 48)
      { bumpFree s with ctl := { s.ctl with sec := some (op, arg, i), secNv := p.nv, secLose := p.lose } }

/-- The end of the running SEC command; `flashOk` says whether its flash write succeeded (R566). -/
def secDone (s : State) (flashOk : Bool) : State :=
  match s.ctl.sec with
  | none => s
  | some (op, arg, _) =>
    let plan := s.ctl.secNv
    let lose := s.ctl.secLose
    let s := { s with ctl := { s.ctl with sec := none, secNv := none, secLose := none } }
    if op != 5 && !flashOk then secEnd s op 5
    else
      let s := match plan with | some nv => { s with nv := nv } | none => s
      match op with
      | 5 => secEnd (burnSvn s) op 0
      | 6 =>
        let s := if arg == 2 then s else loseFlash s
        let s := secEnd { s with sec := {} } op 0
        loadKeys (warmReset s false)
      | _ =>
        let s := if op ≤ 3 then loadKeys s else s
        let s := secEnd s op 0
        match lose with
        | some k => loseSlot s k
        | none => s

/-! ### Calibration commands (R556, R557). -/

/-- The bytes of the calibration record in force from 0x0008 on: header without SEAL, HASH, MAC, then the sections (R555). -/
def calBytes (s : State) : Bytes :=
  let c := s.nv.cal
  let body := (c.sections ++ zeros (0x7F00 - c.sections.length)).take 0x7F00
  let head := natLe 2 1 ++ natLe 1 c.source ++ natLe 1 c.valid ++ natLe 4 0x8000 ++ natLe 8 c.serial ++ natLe 8 c.writes ++ sha3 body
  head ++ (List.range 64).map (Config.kmac head) ++ zeros 96 ++ body

/-- The whole record. -/
def calRecord (s : State) : Bytes := natLe 8 0x5EA1ED0000000002 ++ calBytes s

/-- CAL_STAT shows a command's end or start. -/
def setCalStat (s : State) (busy : Bool) (result : Nat) : State :=
  setReg s pgCAL oCAL_STAT (withBits (withBits (regRaw s pgCAL oCAL_STAT) 63 56 result) 48 48 (if busy then 1 else 0))

/-- A CAL command ends at once with a result other than 0. -/
def calFail (s : State) (result : Nat) : State := raise (setCalStat s false result) pgCAL 4

/-- A partition exists or a slice entry is valid (R557). -/
def partsOrSlices (s : State) : Bool := (List.range 16).any fun p => partValid s p || (sliceBox s p).valid

/-- The result that IMPORT's record gives (R556). -/
def importCheck (s : State) (rec_ : Bytes) : Nat :=
  if fld rec_ 8 2 != 1 || fld rec_ 0xC 4 != 0x8000 then 2
  else if fld rec_ 0x10 8 != s.nv.serial then 3
  else if sha3 ((rec_.drop 0x100).take 0x7F00) != (rec_.drop 0x20).take 64 then 4
  else 0

/-- SELF_CAL begins: every link port, the host port and every stack that is not fenced trains anew, and the regions are calibrated again (R557). -/
def beginSelfCal (s : State) : State :=
  let s := forEach (List.range 6) retrainPort s
  let s := forEach ((List.range 12).filter fun d => !fenced s d) (fun s d =>
    modStack (fldSet s (pgHBM + d) oHBM_STAT 12 12 0) d fun x => { x with attempts := 0 }) s
  setPort { s with boot := { s.boot with calibrated := [] } } 1 0

/-- A write of CAL_CMD by session i (R5, R556, R557, R566). -/
def calCmd (s : State) (i v : Nat) : State :=
  let op := bits v 63 56
  let src := regRaw s pgCAL oCAL_SRC
  if s.ctl.cal.isSome then raise (fldSet s pgCAL oCAL_STAT 63 56 5) pgCAL 4
  else if bits v 55 0 != 0 || op == 0 || op > 3 then calFail s 2
  else
    let s := setReg s pgCAL oCAL_CMD (op * 2 ^ 56)
    let bad :=
      if op == 1 then (if srcOk s i src 0x8000 true then 0 else 1)
      else if op == 2 then
        if s.nv.life.state == 2 || !srcOk s i src 0x8000 false then 1
        else importCheck s (vread s (srcPart src) (srcVa src) 0x8000)
      else if partsOrSlices s then 6 else 0
    if bad != 0 then calFail s bad
    else
      let s := { setCalStat s true 0 with ctl := { s.ctl with cal := some (op, i) } }
      if op == 3 then beginSelfCal s else s

/-- The end of the running CAL command; `sections` are what SELF_CAL has measured (R557). -/
def calDone (s : State) (sections : Bytes) : State :=
  match s.ctl.cal with
  | none => s
  | some (op, _) =>
    let s := { s with ctl := { s.ctl with cal := none } }
    let src := regRaw s pgCAL oCAL_SRC
    let done (s : State) : State := raise (setCalStat s false 0) pgCAL 4
    if op == 1 then
      match vwrite s none (srcPart src) (bytesAt (srcVa src) (calRecord s)) with
      | .ok s => done s
      | _ => calFail s 1
    else if op == 2 then
      let r := vread s (srcPart src) (srcVa src) 0x8000
      done { s with nv := { s.nv with cal :=
        { ok := true, source := 1, valid := fld r 0xB 1, serial := s.nv.serial, writes := s.nv.cal.writes + 1, sections := r.drop 0x100 } } }
    else
      done (bump { s with nv := { s.nv with cal := selfCalRecord s sections } } pgCAL oCAL_SELFCALS 1)

/-! ### The commands of the table: a secure session's write of SEC_CMD or CAL_CMD. From another session the write is not accepted and
has no effect (R505, R566). -/

/-- A SEC_CMD write of a given OP. -/
def secFrom (s : State) (i op arg : Nat) : State :=
  if (sess s i).secure && (sess s i).isOpen then secCmd s i (op * 2 ^ 56 + arg % 256 * 2 ^ 48) else bump s pgIVT oIVT_ADDR_ERR 1

/-- A CAL_CMD write of a given OP. -/
def calFrom (s : State) (i op : Nat) : State :=
  if (sess s i).secure && (sess s i).isOpen then calCmd s i (op * 2 ^ 56) else bump s pgIVT oIVT_ADDR_ERR 1

/-- KEY_WRITE (R559). -/
def execKeyWrite (sess arg : Nat) (s : State) : Host.Outcome State Fault Refusal := .next (secFrom s sess 1 arg)
/-- KEY_ERASE (R559). -/
def execKeyErase (sess arg : Nat) (s : State) : Host.Outcome State Fault Refusal := .next (secFrom s sess 2 arg)
/-- CAK_WRITE (R560). -/
def execCakWrite (sess : Nat) (s : State) : Host.Outcome State Fault Refusal := .next (secFrom s sess 3 0)
/-- FW_COMMIT (R554). -/
def execFwCommit (sess : Nat) (s : State) : Host.Outcome State Fault Refusal := .next (secFrom s sess 4 0)
/-- SVN_BURN (R553). -/
def execSvnBurn (sess : Nat) (s : State) : Host.Outcome State Fault Refusal := .next (secFrom s sess 5 0)
/-- TRANSITION (R561, R562). -/
def execTransition (sess arg : Nat) (s : State) : Host.Outcome State Fault Refusal := .next (secFrom s sess 6 arg)
/-- EXPORT (R556). -/
def execExportRecord (sess : Nat) (s : State) : Host.Outcome State Fault Refusal := .next (calFrom s sess 1)
/-- IMPORT (R556). -/
def execImportRecord (sess : Nat) (s : State) : Host.Outcome State Fault Refusal := .next (calFrom s sess 2)
/-- SELF_CAL (R557). -/
def execSelfCal (sess : Nat) (s : State) : Host.Outcome State Fault Refusal := .next (calFrom s sess 3)
/-- SEC_CMD_DONE (R566). -/
def execSecCmdDone (flashOk : Bool) (s : State) : Host.Outcome State Fault Refusal := .next (secDone s flashOk)
/-- CAL_DONE (R556, R557). -/
def execCalDone (sections : Bytes) (s : State) : Host.Outcome State Fault Refusal := .next (calDone s sections)

end Sys2Proof.Machine
end

