-- ==== Sys2Proof/Machine/Views.lean ====
section
/-! DEFINITION. What a register reads as: the stored value, or the view of the state that a read-only register shows (R568-R577 and
the register tables of the chapters). -/

namespace Sys2Proof.Machine

/-- HEAD_DIM code (R281). -/
def headCode (d : Nat) : Nat := if d == 64 then 0 else if d == 128 then 1 else 2

/-- The number of a tally's entry that session `i` may read: 0 outside the allotments of its partitions (R467). -/
def tallyFor (s : State) (i t : Nat) : Nat :=
  if (List.range 16).any fun p => ownsPart s i p && tallyAllotted s p t then (tally s t).toNat else 0

/-- A whole page has work or a running clock (PAGE_STAT.ACTIVE, R536): a region with a running partition, else the module runs. -/
def pageActive (s : State) (page : Nat) : Bool :=
  if pgRGN ≤ page && page < pgRGN + 48 then rgnState s (page - pgRGN) ≥ 2 else s.boot.phase == .running

/-- A register of the common header. -/
def viewHeader (s : State) (page off : Nat) : Nat :=
  if off == oPAGE_ID then at_ page 32 + at_ 1 16 + at_ (pageInstance page) 8 + pageCode page
  else if off == oPAGE_CAP then at_ (pageNevt page) 40 + at_ (counterMap page 0x40 8) 32 + counterMap page 0x80 16
  else if off == oPAGE_STAT then
    flag (Nat.lor (regRaw s page oEVT_RAW) (regRaw s page oEVT_MASK) != regRaw s page oEVT_MASK) 2
      + flag (bit (regRaw s page oPAGE_CTRL) 0) 1 + flag (pageActive s page) 0
  else if off == oEVT_CLR then regRaw s page oEVT_RAW
  else regRaw s page off

/-- Registers of the DIR page (R577). -/
def viewDir (off : Nat) : Nat :=
  if off == oDIR_COUNT then 23
  else
    match directory[(off - oDIR_ENTRY) / 8]? with
    | some r => at_ r.first 48 + at_ r.pages 32 + at_ 1 16 + flag (r.code == 0xFF) 8 + r.code
    | none => 0

/-- Registers of the MOD page that show the state. -/
def viewMod (s : State) (off : Nat) : Nat :=
  if off == oMOD_INFO then flag s.nv.orderA08 56 + at_ s.nv.hwRev 32 + s.boot.fw.build % 2 ^ 32
  else if off == oMOD_SERIAL then s.nv.serial
  else if off == oMOD_SLOT then s.boot.slotId
  else if off == oMOD_TIME then now s
  else if off == oMOD_ALERT then
    flag (alertLine s) 63 + flag (alertPace s) 3 + flag (regRaw s pgTHM oTHM_STAT != 0) 2
      + flag (fldGet s pgCLK oCLK_STAT 0 0 == 1) 1 + flag (alertPort s) 0
  else if off == oMOD_RESET then 0
  else regRaw s pgMOD off

/-- CLK_STAT. -/
def viewClk (s : State) (off : Nat) : Nat :=
  if off == oCLK_STAT then
    let lost := fldGet s pgCLK oCLK_STAT 0 0 == 1
    at_ (if s.boot.service == 2 then 6 else 12) 8 + flag lost 3 + flag (s.boot.refclk && !lost) 2 + flag s.boot.refclk 1 + flag lost 0
  else regRaw s pgCLK off

/-- DEP_STAT and DEP_DRAW. -/
def viewDep (s : State) (off : Nat) : Nat :=
  if off == oDEP_STAT then
    let w := waitingLeaves s
    flag (defaultGains s) 40 + at_ (margin s) 28 + at_ (Nat.min w.length 4095) 16
      + flag (match w.head? with | some l => !l.got.isEmpty | none => false) 4
  else if off == oDEP_DRAW then
    at_ (s.power.draw % 65536) 48 + at_ (s.power.baseline % 65536) 32 + at_ (grantedMw s / 1000 % 65536) 16 + s.power.avg % 65536
  else regRaw s pgDEP off

/-- THM_DIE shows the pace in force. -/
def viewThm (s : State) (off : Nat) : Nat :=
  if oTHM_DIE ≤ off then
    let d := (off - oTHM_DIE) / 8
    withBits (if d ≥ 12 then withBits (regRaw s pgTHM off) 20 16 16 else regRaw s pgTHM off) 28 24 (diePace s d)
  else regRaw s pgTHM off

/-- SEC_STAT and SEC_KEY. -/
def viewSec (s : State) (off : Nat) : Nat :=
  if off == oSEC_STAT then
    at_ (Nat.min s.nv.life.tampers 255) 40 + at_ s.nv.transitions 32 + at_ s.boot.fw.svn 24 + at_ s.nv.svnFuse 16 + at_ s.nv.revoked 12
      + flag (keyCopy s).isSome 7 + flag (s.boot.fwSlot == 1) 6 + flag s.boot.loopOpen 5 + s.nv.life.state
  else if oSEC_KEY ≤ off && off < oSEC_KEY + 128 then
    let k := keySlot s ((off - oSEC_KEY) / 8)
    if k.role == 0 then 0 else at_ (leNat ((sha3 k.key).take 4)) 32 + k.role
  else regRaw s pgSEC off

/-- CAL_STAT. -/
def viewCal (s : State) (off : Nat) : Nat :=
  if off == oCAL_STAT then
    at_ (fldGet s pgCAL oCAL_STAT 63 56) 56 + at_ (fldGet s pgCAL oCAL_STAT 48 48) 48 + at_ s.boot.service 40 + at_ (calValid s % 64) 32
      + at_ (if s.nv.cal.ok then s.nv.cal.source else 2) 24 + flag (defaultOffsets s) 1 + flag (defaultGains s) 0
  else regRaw s pgCAL off

/-- Views of the SCH page. -/
def viewSch (s : State) (off : Nat) : Nat :=
  if oSCH_SESS ≤ off && off < oSCH_SESS + 128 then
    flag (sess s ((off - oSCH_SESS) / 8)).isOpen 8 + fldGet s pgSCH off 2 0
  else if oSCH_PART_STAT ≤ off && off < oSCH_PART_STAT + 128 then
    let p := (off - oSCH_PART_STAT) / 8
    at_ (reqsOf s p .queued).length 56 + at_ (reqsOf s p .admitted).length 52 + rgnMask fun r => (rgn s r).owner == some p
  else if oSCH_RGN ≤ off && off < oSCH_RGN + 384 then
    let r := (off - oSCH_RGN) / 8
    let x := rgn s r
    let saved (k : Nat) : Nat := match x.saved.find? (·.slot == k) with | some v => v.part | none => 0
    at_ (rgnState s r) 24 + at_ (saved 2) 20 + at_ (saved 1) 16 + at_ (saved 0) 12 + at_ x.saved.length 8
      + flag x.owner.isSome 4 + x.owner.getD 0
  else regRaw s pgSCH off

/-- Views of the HPT and IVT pages. -/
def viewHpt (s : State) (off : Nat) : Nat :=
  if off == oHPT_STAT then at_ s.host.lanes 16 + flag s.host.macsecLive 4 + s.host.state
  else if off == oHPT_MAC then s.nv.mac
  else regRaw s pgHPT off

def viewIvt (s : State) (off : Nat) : Nat :=
  if oIVT_SESS ≤ off && off < oIVT_SESS + 128 then
    let x := sess s ((off - oIVT_SESS) / 8)
    if x.isOpen then
      flag x.secure 40 + at_ x.keySlot 32 + at_ (x.maxPayload / 1024) 24 + flag true 16
        + Nat.min (x.sent.filter fun f => !f.acked).length 65535
    else 0
  else regRaw s pgIVT off

/-- Views of the RTR page. -/
def viewRtr (s : State) (off : Nat) : Nat :=
  if off == oRTR_RED_STAT then
    at_ (redQueue s 1) 48 + at_ (redFree s 1) 32 + at_ (redQueue s 0) 16 + redFree s 0
  else if off == oRTR_HAUL_STAT then
    at_ (fldGet s pgRTR oRTR_HAUL_STAT 63 32) 32 + flag (!s.links.heldMarks.isEmpty) 16
      + Nat.min s.links.hauls.length 255
  else regRaw s pgRTR off

/-- Views of the FLS and POL pages. -/
def viewFls (s : State) (page off : Nat) : Nat :=
  let n := page - pgFLS
  if off == oFLS_STAT then
    flag (nth s.nv.flashReadOnly n false) 16 + at_ (nth s.nv.flashSpare n 0) 8 + nth s.nv.flashWear n 0
  else if off == oFLS_IMG_CFG then s.nv.area
  else regRaw s page off

def viewPol (s : State) (i off : Nat) : Nat :=
  if off == oPOL_CAP then at_ (capFlash s) 32 + capHbm s
  else if oPOL_USE ≤ off && off < oPOL_USE + 128 then
    let p := (off - oPOL_USE) / 8
    at_ (ceilDiv (flashUse s p) (2 ^ 20)) 32 + ceilDiv (hbmUse s p) (2 ^ 20)
  else if off == oPOL_CTX_INFO then
    (match ctx? s (regRaw s pgPOL oPOL_CTX_SEL) with
      | some c => if sessOwns s i c.owner then
          flag true 56 + at_ c.owner 52 + at_ (headCode c.headDim) 50 + at_ c.hkv 42 + at_ c.layers 29 + c.base % 2 ^ 24 else 0
      | none => 0)
  else if off == oPOL_CTX_LEN then
    (match ctx? s (regRaw s pgPOL oPOL_CTX_SEL) with
      | some c => if sessOwns s i c.owner then at_ c.maxlen 32 + c.filled else 0
      | none => 0)
  else regRaw s pgPOL off

/-- Views of the video pages. -/
def viewVdc (s : State) (i page off : Nat) : Nat :=
  let n := page - pgVDC
  let live := s.video.segs.filter fun g => g.set == n && g.running && !g.ended
  if off == oVDC_STAT then
    at_ (s.video.vctxs.filter (·.set == n)).length 32 + at_ (sumNat (live.map fun g => sumNat g.syntaxKib)) 16
      + at_ (Nat.min 4 (live.filter fun g => g.parsedPics > g.pics).length) 8 + at_ live.length 4
  else if off == oVDC_CTX_INFO then
    (match s.video.vctxs.find? (·.index == regRaw s pgVDC oVDC_CTX_SEL) with
      | some c => if sessOwns s i c.owner then
          flag true 63 + at_ c.owner 56 + at_ c.codec 54 + at_ c.set 53 + flag c.tenBit 52 + at_ c.slots 44
            + flag (s.video.segs.any fun g => g.vctx == c.index && g.running && !g.ended) 43 + flag c.hasRefs 42
            + at_ c.maxW 28 + at_ c.maxH 14 else 0
      | none => 0)
  else regRaw s page off

def viewVen (s : State) (page off : Nat) : Nat :=
  let n := page - pgVEN
  if off == oVEN_STAT then
    at_ (s.video.encs.filter fun e => e.set == n && e.encoder.isNone).length 8
      + sumNat ((List.range 2).map fun k => flag (s.video.encs.any fun e => e.set == n && e.encoder == some k) k)
  else regRaw s page off

/-- INP_STAT. -/
def viewInp (s : State) (off : Nat) : Nat :=
  if off == oINP_STAT then
    at_ (sumNat (s.inp.batches.map (·.poss.length))) 23 + at_ s.inp.batches.length 16
      + at_ (Nat.min 255 (s.inp.jobs.filter fun j => j.engine.isNone && !j.ended).length) 8
      + sumNat ((List.range 8).map fun e => flag (s.inp.jobs.any fun j => j.engine == some e && !j.ended) e)
  else regRaw s pgINP off

/-- RGN_SFT_STAT. -/
def viewRgn (s : State) (page off : Nat) : Nat :=
  if off == oRGN_SFT_STAT then
    let x := rgn s (page - pgRGN)
    let u := match x.owner with | some p => nth s.fab.users p {} | none => {}
    at_ (fldGet s page off 31 8) 8 + flag u.committed.isSome 4 + flag u.arming 3 + flag (x.staged && !u.loading (now s)) 2 + flag x.bankUser 1
  else if off == oRGN_SFT_ARM then 0
  else if off == oRGN_MEM_STAT then withBits (regRaw s page off) 0 0 (flag (!(rgn s (page - pgRGN)).testing.isEmpty) 0)
  else regRaw s page off

/-- What session `i` reads at a page and offset of the table, before any effect of the read. -/
def view (s : State) (i page off : Nat) : Nat :=
  if hasHeader page && off < 0x40 then viewHeader s page off
  else
    match pageCode page with
    | 0x00 => viewDir off
    | 0x01 => viewMod s off
    | 0x02 => viewClk s off
    | 0x03 => viewDep s off
    | 0x04 => viewThm s off
    | 0x05 => viewSec s off
    | 0x14 => viewCal s off
    | 0x13 => viewSch s off
    | 0x06 => viewHpt s off
    | 0x07 => viewIvt s off
    | 0x09 => viewRtr s off
    | 0x0B => viewRgn s page off
    | 0x0D => viewFls s page off
    | 0x0E => viewPol s i off
    | 0x10 => viewVdc s i page off
    | 0x11 => viewVen s page off
    | 0x12 => viewInp s off
    | 0x0F =>
      if off == oTAL_ADD then 0
      else
        let t := 512 * (page - pgTAL) + 2 * ((off - oTAL_PAIR) / 8)
        at_ (tallyFor s i (t + 1)) 32 + tallyFor s i t
    | _ => if page == pgDBG && off == oDBG_WIN_DATA then 0 else regRaw s page off

end Sys2Proof.Machine
end

