-- ==== Sys2Proof/Machine/Access.lean ====
section
/-! DEFINITION. Register reads and writes of a session: the checks of R505 and R567-R574, and what writing each register does, by the
rule of its chapter. Statuses: 0 OK, 1 ADDRESS, 2 DENIED, 3 TIER, 4 MALFORMED. -/

namespace Sys2Proof.Machine

/-- A refused access counts as an address error (R505). -/
def refuseAcc (s : State) (st : Nat) : State × Nat := (bump s pgIVT oIVT_ADDR_ERR 1, st)

/-! ### The window (R587). -/

/-- The die that holds a physical address of a window or of HBM. -/
def dieOfPa (pa : Nat) : Option Nat :=
  match windowRgn pa with
  | some r => some (dieOf r)
  | none => if pa < 12 * hbmSize then some (pa / hbmSize) else none

/-- The window at DBG_WIN_ADDR is served: WIN_EN, an address of an on-module memory, and a region that runs nothing (R32). -/
def winOpen (s : State) (pa : Nat) : Bool :=
  fldGet s pgDBG oDBG_CTRL 3 3 == 1
    && (match windowRgn pa with
        | some r =>
          let x := rgn s r
          x.powered && (x.owner.isNone || x.halted || x.haltDbg)
        | none => false)

/-- A window access that is not served (R29, R587): it counts on the page of the die that holds the address or, where no die does (flash, its
unpopulated half, and what no range lists), with the address errors of the accesses of sessions (R505; DESIGN CHOICE, log 91). -/
def winRefuse (s : State) (pa : Nat) : State :=
  match dieOfPa pa with
  | some d => bump s (pgDIE + d) oDIE_ADDR_ERR 1
  | none => bump s pgIVT oIVT_ADDR_ERR 1

/-- A window access that is served: ADDR rises by 8. -/
def winNext (s : State) (pa : Nat) : State :=
  bump (setReg s pgDBG oDBG_WIN_ADDR ((pa + 8) % 2 ^ 48)) pgDBG oDBG_WIN_ACCESSES 1

/-- A read of DBG_WIN_DATA: state, value, status. What tile work has left in a region's memories is open. -/
def winRead (s : State) (c : BankCycle) : State × Nat × Nat :=
  let pa := regRaw s pgDBG oDBG_WIN_ADDR
  if !winOpen s pa then (winRefuse s pa, 0, 1)
  else
    match windowRgn pa with
    | some r =>
      if !plainCycle c then
        let d := windowCycle s r pa .read c
        (winNext d.1 pa, fld (d.2.word.getD []) (pa % 64) 8, 0)
      else if (rgn s r).openSram then (winNext (bumpFree s) pa, takeFree s 2 % 2 ^ 64, 0)
      else (winNext s pa, leNat (memRead s pa 8), 0)
    | none => (s, 0, 1)

/-- A write of DBG_WIN_DATA: of its granule, which is read and written whole (R242, R587). One that loses to another port under WW_MODE 1 changes
nothing; its conflict status leaves the bank, the operation statuses of R505 have none for it (R227; DESIGN CHOICE, log 117). -/
def winWrite (s : State) (v : Nat) (c : BankCycle) : State × Nat :=
  let pa := regRaw s pgDBG oDBG_WIN_ADDR
  if !winOpen s pa then (winRefuse s pa, 1)
  else
    match windowRgn pa with
    | some r =>
      if !plainCycle c then
        let op : BankOp := .write (255 * 2 ^ (pa % 64)) (zeros (pa % 64) ++ natLe 8 v)
        (winNext (windowCycle s r pa op c).1 pa, 0)
      else (winNext (memWrite s pa (natLe 8 v)) pa, 0)
    | none => (s, 1)

/-! ### Reads. -/

/-- Fields that a read clears. -/
def clearRc (s : State) (page off : Nat) : State :=
  match regDesc page off with
  | some d => d.flds.foldl (fun s f => if f.acc == .rc then fldSet s page off f.hi f.lo 0 else s) s
  | none => s

/-- A read of an SFT page (R196): the fixed image, a staging page, or a reserved page, which reads 0. -/
def sftRead (s : State) (page off : Nat) : Nat :=
  if page == pgSFT then
    leNat ((List.range 8).map fun k => if off + k < 0xA40 then fixedImage s.boot.fw.bodyHash (off + k) else 0)
  else if (stagePart page).isSome then leNat (memRead s (regBase + page * 4096 + off) 8)
  else 0

/-- A register read by session i: state, value, status. -/
def readReg (s : State) (i addr : Nat) : State × Nat × Nat :=
  let page := addr / 4096
  let off := addr % 4096
  if addr % 8 != 0 || addr ≥ 0x300000 || (dirRow page).isNone then
    let (s, st) := refuseAcc s 1
    (s, 0, st)
  else if !hasHeader page then (s, sftRead s page off, 0)
  else if (regDesc page off).isNone then
    if 0x40 ≤ off && off < 0x100 then (s, 0, 0)
    else
      let (s, st) := refuseAcc s 1
      (s, 0, st)
  else if page == pgDBG && off == oDBG_WIN_DATA then winRead s ⟨[], .clean⟩
  else (clearRc s page off, view s i page off, 0)

/-! ### Writes. -/

/-- The value of a register with the written fields that code `p` admits; reserved bits stay 0 (R5). -/
def mergeFlds (d : RegDesc) (old v : Nat) : Nat :=
  d.flds.foldl (fun acc f =>
    if f.acc == .rw || f.acc == .rws || f.acc == .rwl then withBits acc f.hi f.lo (bits v f.hi f.lo) else acc) old

/-- Session i may write a register (R505, R514, R574). -/
def mayWrite (s : State) (i page off : Nat) (d : RegDesc) : Bool :=
  let has (a : Acc) : Bool := d.flds.any (·.acc == a)
  (sess s i).secure
    || (!has .rws
        && (if pgRGN ≤ page && page < pgRGN + 48 then
              (match (rgn s (page - pgRGN)).owner with
                | some p => ownsPart s i p
                | none => false)
            else
              (page == pgIVT && off == oIVT_SUB + 8 * i) || (off == oEVT_CLR && eventConcerns s i page)
                || (pageCode page == 0x0F && off == oTAL_ADD)))

/-- A value lies in a range. -/
def within (lo hi v : Nat) : Bool := lo ≤ v && v ≤ hi

/-- A band register's value is accepted (R112): LO in (0, 1], HI in [1, infinity). -/
def bandOk (v : Nat) : Bool :=
  let lo := f32 (BitVec.ofNat 32 (bits v 31 0))
  let hi := f32 (BitVec.ofNat 32 (bits v 63 32))
  lo.finite && hi.finite && Num.zero.lt lo && lo.le Num.one && Num.one.le hi

/-- Two runs of tallies overlap. -/
def runsOverlap (b c b' c' : Nat) : Bool := c != 0 && c' != 0 && b < b' + c' && b' < b + c

/-- A change of SCH_PART[p] or SCH_TALLY[p] is shut out by what p holds (R463). -/
def partPinned (s : State) (p : Nat) : Bool :=
  (s.sched.reqs.any fun r => r.part == p && r.st != .ended)
    || (List.range 48).any fun r => (rgn s r).saved.any (·.part == p)

/-- A run of tallies overlaps the allotment of another valid partition. -/
def tallyClash (s : State) (p base count : Nat) : Bool :=
  (List.range 16).any fun q =>
    let t := regRaw s pgSCH (oSCH_TALLY + 8 * q)
    q != p && partValid s q && runsOverlap base count (bits t 13 0) (bits t 30 16)

/-- SCH_REJECTED. -/
def schReject (s : State) : State := raise s pgSCH 4

/-- A write of SCH_PART[p] (R463). -/
def schPartWrite (s : State) (p new : Nat) : State :=
  let t := regRaw s pgSCH (oSCH_TALLY + 8 * p)
  let valid := bit new 63
  if partPinned s p || (valid && (!(sess s (bits new 59 56)).isOpen || tallyClash s p (bits t 13 0) (bits t 30 16))) then schReject s
  else
    let was := partValid s p
    let s := if was && !valid then endPartition s p else s
    let s := if valid && !was then setReg s pgINP (oINP_MEAN + 8 * p) (Nat.max 1 (fldGet s pgINP oINP_MEAN_INIT 31 0)) else s
    setReg s pgSCH (oSCH_PART + 8 * p) new

/-- A write of SCH_TALLY[p] (R463, R467). -/
def schTallyWrite (s : State) (p new : Nat) : State :=
  let base := bits new 13 0
  let count := bits new 30 16
  if partPinned s p || base % 64 != 0 || count % 64 != 0 || base + count > Config.numTallies || tallyClash s p base count then schReject s
  else clearTallies (setReg s pgSCH (oSCH_TALLY + 8 * p) new) base count

/-- A write of POL_QUOTA[p] (R271, R279). Evictions down to a new HBM quota are POOL_EVICTION's. -/
def quotaWrite (s : State) (p new : Nat) : State :=
  let others (f : Nat → Nat) : Nat := sumNat (((List.range 16).filter (· != p)).map f)
  let q (r : Nat) : Nat := regRaw s pgPOL (oPOL_QUOTA + 8 * r)
  let h := bits new 31 0
  let f := bits new 63 32
  if others (fun r => bits (q r) 31 0) + h > capHbm s || others (fun r => bits (q r) 63 32) + f > capFlash s then s
  else if f < quotaF s p / 2 ^ 30 && f * 2 ^ 30 < flashUse s p then s
  else setReg s pgPOL (oPOL_QUOTA + 8 * p) new

/-- A write of DBG_CTRL (R582-R586). -/
def dbgCtrlWrite (s : State) (old new : Nat) : State :=
  let s := setReg s pgDBG oDBG_CTRL new
  let s :=
    if !bit old 0 && bit new 0 then
      if traceBufferOk s then setReg (setReg s pgDBG oDBG_TRACE_WR 0) pgDBG oDBG_STAT 1
      else fldSet (fldSet s pgDBG oDBG_CTRL 0 0 0) pgDBG oDBG_STAT 2 2 1
    else if bit old 0 && !bit new 0 then fldSet s pgDBG oDBG_STAT 0 0 0
    else s
  if bit old 2 && !bit new 2 then setHalts s 0 else s

/-- A write of TAL_ADD on tally page `k` by session i (R467, R469). -/
def talAdd (s : State) (i k v : Nat) : State × Nat :=
  let t := 512 * k + bits v 8 0
  if (List.range 16).any fun p => ownsPart s i p && tallyAllotted s p t then (addTally s t (BitVec.ofNat 32 (bits v 63 32)), 0)
  else refuseAcc s 1

/-- A write of RGN_SFT_ARM on the page of region r (R199). -/
def sftArm (s : State) (r v : Nat) : State :=
  if !bit v 0 then s
  else
    match (rgn s r).owner with
    | some p => armUser s p
    | none => s

/-- What storing `new` in a register comes to, by the rule of its chapter; `v` is the value as written. -/
def applyWrite (s : State) (i page off old new v : Nat) : State × Nat :=
  let code := pageCode page
  let put (s : State) : State × Nat := (setReg s page off new, 0)
  let keep : State × Nat := (s, 0)
  if off == oPAGE_CTRL then (setReg s page off (Nat.lor old (v % 2)), 0)
  else if off == oEVT_CLR then (setReg s page oEVT_RAW (Nat.land (regRaw s page oEVT_RAW) ((2 ^ 64 - 1) - v % 2 ^ 64)), 0)
  else if off == oEVT_MASK then put s
  else
    match code with
    | 0x02 => if within 20 60 (bits new 13 8) && bits new 3 0 ≤ 10 then ({ s with power := { s.power with pendingClk := some new } }, 0) else keep
    | 0x03 =>
      if off == oDEP_ENVELOPE then (if within 1600 4000 (bits new 11 0) then put s else keep)
      else if off == oDEP_CTRL then put s
      else
        let k := (off / 8) % 16
        let hi := if off ≥ oDEP_EST_MOD then 250000 else 60000
        if k == 0 then keep else (setReg s page off (Nat.max 1000 (Nat.min hi new)), 0)
    | 0x04 => if within 85 100 (bits new 7 0) then put s else keep
    | 0x05 => if off == oSEC_CMD then (secCmd s i v, 0) else put s
    | 0x14 => if off == oCAL_CMD then (calCmd s i v, 0) else put s
    | 0x13 =>
      if off < oSCH_PART then put s
      else if off < oSCH_TALLY then (schPartWrite s ((off - oSCH_PART) / 8) new, 0)
      else (schTallyWrite s ((off - oSCH_TALLY) / 8) new, 0)
    | 0x06 => (if off == oHPT_CTRL then reSecure (setReg s page off new) else setReg s page off new, 0)
    | 0x07 =>
      if off == oIVT_CTRL then (setReg s page off (if bits new 15 0 == 0 then withBits new 15 0 (bits old 15 0) else new), 0)
      else (setReg s page off (if (sess s i).secure then new else withBits new 32 32 (bits old 32 32)), 0)
    | 0x08 =>
      let s := setReg s page off new
      (if bit v 16 then linkRetrain s (page - pgLNK) else s, 0)
    | 0x09 =>
      if off == oRTR_COORD then (coordWrite s false v, 0)
      else if off == oRTR_PLANE then (coordWrite s true v, 0)
      else if oRTR_SLICE ≤ off && off < oRTR_SLICE + 128 then (sliceWrite s ((off - oRTR_SLICE) / 8) v, 0)
      else put s
    | 0x0B =>
      if off == oRGN_SFT_ARM then (sftArm s (page - pgRGN) v, 0)
      else if off == oRGN_CANARY_BAND || off == oRGN_GRAD_BAND then (if bandOk new then put s else keep)
      else if off == oRGN_SFT_CTRL then (if within 0x00800000 0x3F7FFFFF (bits new 31 0) then put s else keep)
      else if off == oRGN_MEM_CTRL then (setReg s page off (if bits new 20 16 > 16 then withBits new 20 16 16 else new), 0)
      else put s
    | 0x0C =>
      let crit := if within 91 105 (bits new 23 16) then bits new 23 16 else bits old 23 16
      let th := if within 70 (crit - 1) (bits new 15 8) then bits new 15 8 else bits old 15 8
      (setReg s page off (withBits (withBits new 23 16 crit) 15 8 th), 0)
    | 0x0D =>
      if off == oFLS_IMG_CFG then
        (if bits new 4 0 == 0 || anySealed s then s else { s with nv := { s.nv with area := bits new 4 0 } }, 0)
      else put s
    | 0x0E => if oPOL_QUOTA ≤ off && off < oPOL_QUOTA + 128 then (quotaWrite s ((off - oPOL_QUOTA) / 8) new, 0) else put s
    | 0x0F => talAdd s i (page - pgTAL) v
    | 0x15 =>
      if off == oDBG_CTRL then (dbgCtrlWrite s old new, 0)
      else if off == oDBG_TRACE_BASE || off == oDBG_TRACE_SIZE then (if fldGet s pgDBG oDBG_CTRL 0 0 == 1 then s else setReg s page off new, 0)
      else if off == oDBG_HALT then
        (if fldGet s pgDBG oDBG_CTRL 2 2 == 0 then refuseAcc s 2 else (setHalts (setReg s page off new) new, 0))
      else if off == oDBG_WIN_DATA then winWrite s v ⟨[], .clean⟩
      else put s
    | _ => put s

/-- A write of 8 bytes to a staging page by session i: ignored and counted during steps 1 and 2 of an arm (R196, R202). -/
def stageWrite (s : State) (i page off v : Nat) : State × Nat :=
  match stagePart page with
  | some p => if ownsPart s i p && !(userTab s p).loading (now s) then (memWrite s (regBase + page * 4096 + off) (natLe 8 v), 0) else refuseAcc s 2
  | none => if page == pgSFT then (s, 0) else refuseAcc s 1

/-- A register write by session i: state and status. -/
def writeReg (s : State) (i addr v : Nat) : State × Nat :=
  let page := addr / 4096
  let off := addr % 4096
  if addr % 8 != 0 || addr ≥ 0x300000 || (dirRow page).isNone then refuseAcc s 1
  else if !hasHeader page then stageWrite s i page off v
  else
    match regDesc page off with
    | none => if 0x40 ≤ off && off < 0x100 then (s, 0) else refuseAcc s 1
    | some d =>
      let open_ (a : Acc) : Bool := d.flds.any (·.acc == a)
      if page == pgMOD && off == oMOD_RESET then modReset s i v
      else if !(open_ .rw || open_ .wo || open_ .w1c || open_ .rwl || open_ .rws) then (s, 0)
      else if !mayWrite s i page off d then refuseAcc s 2
      else if open_ .rwl && bit (regRaw s page oPAGE_CTRL) 0 then refuseAcc s 2
      else applyWrite s i page off (regRaw s page off) (mergeFlds d (regRaw s page off) v) v

/-- A write that a session makes, as the commands of the table name them one by one: the session is open; an accepted MOD_RESET then
takes place. -/
def sessWrite (s : State) (i addr v : Nat) : State :=
  if serving s && i < 16 && (sess s i).isOpen then (writeReg s i addr v).1 else s

/-- DEP_ENVELOPE_WRITE (R528). -/
def execDepEnvelopeWrite (sess : Nat) (value : Word) (s : State) : Host.Outcome State Fault Refusal :=
  .next (sessWrite s sess (regAddr pgDEP oDEP_ENVELOPE) value.toNat)
/-- LNK_RETRAIN: LNK_CTRL written with its other fields as they stand and RETRAIN 1 (R351). -/
def execLnkRetrain (sess port : Nat) (s : State) : Host.Outcome State Fault Refusal :=
  .next (if port < 6 then sessWrite s sess (regAddr (pgLNK + port) oLNK_CTRL) (withBits (regRaw s (pgLNK + port) oLNK_CTRL) 16 16 1) else s)
/-- RTR_COORD_WRITE (R353). -/
def execRtrCoordWrite (sess : Nat) (plane : Bool) (value : Word) (s : State) : Host.Outcome State Fault Refusal :=
  .next (sessWrite s sess (regAddr pgRTR (if plane then oRTR_PLANE else oRTR_COORD)) value.toNat)
/-- RTR_SLICE_WRITE (R357). -/
def execRtrSliceWrite (sess part : Nat) (value : Word) (s : State) : Host.Outcome State Fault Refusal :=
  .next (if part < 16 then sessWrite s sess (regAddr pgRTR (oRTR_SLICE + 8 * part)) value.toNat else s)
/-- SCH_SESS_WRITE (R461). -/
def execSchSessWrite (sess index : Nat) (value : Word) (s : State) : Host.Outcome State Fault Refusal :=
  .next (if index < 16 then sessWrite s sess (regAddr pgSCH (oSCH_SESS + 8 * index)) value.toNat else s)
/-- SCH_PART_WRITE (R463). -/
def execSchPartWrite (sess part : Nat) (value : Word) (s : State) : Host.Outcome State Fault Refusal :=
  .next (if part < 16 then sessWrite s sess (regAddr pgSCH (oSCH_PART + 8 * part)) value.toNat else s)
/-- SCH_TALLY_WRITE (R467). -/
def execSchTallyWrite (sess part : Nat) (value : Word) (s : State) : Host.Outcome State Fault Refusal :=
  .next (if part < 16 then sessWrite s sess (regAddr pgSCH (oSCH_TALLY + 8 * part)) value.toNat else s)
/-- TAL_ADD on tally page `page` of the 32 (R467, R469). -/
def execTalAdd (sess page : Nat) (value : Word) (s : State) : Host.Outcome State Fault Refusal :=
  .next (if page < 32 then sessWrite s sess (regAddr (pgTAL + page) oTAL_ADD) value.toNat else s)
/-- POL_QUOTA_WRITE (R271, R279). -/
def execPolQuotaWrite (sess part : Nat) (value : Word) (s : State) : Host.Outcome State Fault Refusal :=
  .next (if part < 16 then sessWrite s sess (regAddr pgPOL (oPOL_QUOTA + 8 * part)) value.toNat else s)
/-- SFT_ARM: a write of RGN_SFT_ARM on the page of a region (R199-R202). -/
def execSftArm (sess region : Nat) (value : Word) (s : State) : Host.Outcome State Fault Refusal :=
  .next (if region < 48 then sessWrite s sess (regAddr (rgnPage region) oRGN_SFT_ARM) value.toNat else s)
/-- SFT_SWAPPED: step 5 of a reload (R200). -/
def execSftSwapped (part : Nat) (s : State) : Host.Outcome State Fault Refusal := .next (swapDone s part)
/-- PAGE_LOCK: a write of PAGE_CTRL (R571). -/
def execPageLock (sess page : Nat) (value : Word) (s : State) : Host.Outcome State Fault Refusal :=
  .next (sessWrite s sess (regAddr page oPAGE_CTRL) value.toNat)
/-- EVT_CLR (R574). -/
def execEvtClr (sess page : Nat) (value : Word) (s : State) : Host.Outcome State Fault Refusal :=
  .next (sessWrite s sess (regAddr page oEVT_CLR) value.toNat)
/-- TRACE_ENABLE: a write of DBG_CTRL (R583). -/
def execTraceEnable (sess : Nat) (value : Word) (s : State) : Host.Outcome State Fault Refusal :=
  .next (sessWrite s sess (regAddr pgDBG oDBG_CTRL) value.toNat)
/-- DEBUG_HALT: a write of DBG_HALT (R586). -/
def execDebugHalt (sess : Nat) (value : Word) (s : State) : Host.Outcome State Fault Refusal :=
  .next (sessWrite s sess (regAddr pgDBG oDBG_HALT) value.toNat)
/-- DEBUG_HALTED (R586). -/
def execDebugHalted (s : State) : Host.Outcome State Fault Refusal := .next (haltsReached s)
/-- WINDOW_READ: a read of DBG_WIN_DATA by an open session (R587). -/
def execWindowRead (ask : WindowAsk) (s : State) : Host.Outcome State Fault Refusal :=
  .next (if serving s && ask.sess < 16 && (sess s ask.sess).isOpen then (winRead s ask.cycle).1 else s)
/-- WINDOW_WRITE: a write of DBG_WIN_DATA, beside what other ports ask of its bank (R226, R587). -/
def execWindowWrite (sess : Nat) (value : Word) (cycle : BankCycle) (s : State) : Host.Outcome State Fault Refusal :=
  .next (if serving s && sess < 16 && (Sys2Proof.Machine.sess s sess).isOpen then
      if !(Sys2Proof.Machine.sess s sess).secure || bit (regRaw s pgDBG oPAGE_CTRL) 0 then (refuseAcc s 2).1
      else (winWrite s value.toNat cycle).1
    else s)

/-! ### The trace (R584, R585). -/

/-- TRACE_RECORD: the oldest queued record goes to the buffer; a full buffer without WRAP stops the trace, a lost one too. -/
def drainTrace (s : State) : State :=
  match s.ctl.trace with
  | [] => s
  | r :: rest =>
    if !tracing s then { s with ctl := { s.ctl with trace := rest } }
    else if !traceBufferOk s then traceCheck s
    else
      let n := regRaw s pgDBG oDBG_TRACE_SIZE
      let wr := regRaw s pgDBG oDBG_TRACE_WR
      if wr ≥ n && fldGet s pgDBG oDBG_CTRL 1 1 == 0 then
        raise (setReg (fldSet s pgDBG oDBG_CTRL 0 0 0) pgDBG oDBG_STAT 2) pgDBG 1
      else
        let b := regRaw s pgDBG oDBG_TRACE_BASE
        let s := vstore (bits b 63 60) (bytesAt (bits b 59 0 + wr % n) r) s
        let s := { s with ctl := { s.ctl with trace := rest } }
        bump (setReg s pgDBG oDBG_TRACE_WR (wr + 32)) pgDBG oDBG_TRACE_RECORDS 1

/-- TRACE_RECORD (R585). -/
def execTraceRecord (s : State) : Host.Outcome State Fault Refusal := .next (drainTrace s)

end Sys2Proof.Machine
end

