-- ==== Sys2Proof/Machine/LongAcc.lean ====
section
/-! DEFINITION. The long accumulator of one tile row (R60-R68, R164, R165). -/

namespace Sys2Proof.Machine

/-- A tile row: its anchor E, and an accumulator N and a spill count for each column. -/
structure AccRow where
  e : Option Int
  accs : List (Int × Nat)
  deriving DecidableEq, Repr

/-- An empty row of `n` columns. -/
def AccRow.empty (n : Nat) : AccRow := ⟨none, List.replicate n (0, 0)⟩

/-- An addend: significand, exponent, and the c + b that it brings to the anchor. -/
structure Addend where
  sig : Int
  exp : Int
  top : Int
  deriving DecidableEq, Repr

/-- Shift one accumulator right; a dropped bit is a spill (R63). -/
def shiftAcc (k : Nat) (a : Int × Nat) : Int × Nat :=
  let r := rneShiftInt a.1 k
  (r.1, if r.2 then a.2 + 1 else a.2)

/-- Raise the anchor to `top` (R60). -/
def AccRow.raiseTo (r : AccRow) (top : Int) : AccRow :=
  match r.e with
  | none => { r with e := some top }
  | some e => if top > e then ⟨some top, r.accs.map (shiftAcc (top - e).toNat)⟩ else r

/-- An accumulator inside [-2^62, 2^62) (R62). -/
def accFits (n : Int) : Bool := -(2 ^ 62) ≤ n && n < 2 ^ 62

/-- Shift the row right by one place while an accumulator lies outside its range, at most `fuel` times (R62). -/
def AccRow.normalise : Nat → AccRow → AccRow
  | 0, r => r
  | fuel + 1, r =>
    if r.accs.all (fun a => accFits a.1) then r
    else normalise fuel ⟨r.e.map (· + 1), r.accs.map (shiftAcc 1)⟩

/-- Add a value at its exact weight into column `n`; what lies below the window bottom is rounded into bit 0 (R61-R63). -/
def AccRow.addAt (r : AccRow) (n : Nat) (sig exp : Int) : AccRow :=
  match r.e with
  | none => r
  | some e =>
    if sig == 0 then r
    else
      let bottom := e - 53
      let (v, lost) := if bottom ≤ exp then (sig * (2 ^ (exp - bottom).toNat : Nat), false) else rneShiftInt sig (bottom - exp).toNat
      AccRow.normalise 4 { r with accs := updNth r.accs n fun a => (a.1 + v, if lost then a.2 + 1 else a.2) }

/-- The largest c + b among addends, if there is one. -/
def topOf (ts : List (Option Addend)) : Option Int :=
  ts.foldl (fun acc t => match acc, t with
    | none, some a => some a.top
    | some x, some a => some (Max.max x a.top)
    | x, none => x) none

/-- Add addends to consecutive columns from `n`, in ascending n. -/
def AccRow.addFrom : Nat → List (Option Addend) → AccRow → AccRow
  | _, [], r => r
  | n, none :: ts, r => addFrom (n + 1) ts r
  | n, some a :: ts, r => addFrom (n + 1) ts (r.addAt n a.sig a.exp)

/-- Add an integer to each column: exactly while bit 0 has weight 1 (R66), and at its weight once a raise has moved the window (R61). -/
def AccRow.addInts (r : AccRow) (vs : List Int) : AccRow :=
  if r.e == some 53 then { r with accs := List.zipWith (fun acc v => (acc.1 + v, acc.2)) r.accs vs }
  else AccRow.addFrom 0 (vs.map fun v => some ⟨v, 0, 53⟩) r

/-- Raise once to the largest c + b and add in ascending n (R164). -/
def AccRow.addBlock (r : AccRow) (ts : List (Option Addend)) : AccRow :=
  match topOf ts with
  | none => r
  | some top => AccRow.addFrom 0 ts (r.raiseTo top)

/-- Two coats (R165): one raise over both; for each 32 columns the first-coat sums and then the second-coat sums. -/
def AccRow.addCoats (r : AccRow) (ts us : List (Option Addend)) : AccRow :=
  match topOf (ts ++ us) with
  | none => r
  | some top =>
    (List.range (ceilDiv ts.length 32)).foldl (fun r g =>
      AccRow.addFrom (32 * g) ((us.drop (32 * g)).take 32) (AccRow.addFrom (32 * g) ((ts.drop (32 * g)).take 32) r)) (r.raiseTo top)

/-- One product or element that is a block of its own: c = 0, b its exponent bound plus `extra`; a zero is none (R67, R132). The
exponent bound of a value v is taken as floor(log2 |v|) + 1, the least b with |v| < 2^b (DESIGN CHOICE, log 93). -/
def ownBlock (v : Num) (extra : Int) : Option Addend :=
  if v.isZero || !v.finite then none else some ⟨v.sig, v.exp, v.log2 + 1 + extra⟩

/-- Add one product of its own to column `n` (R67). -/
def AccRow.addOwn (r : AccRow) (n : Nat) (v : Num) : AccRow :=
  match ownBlock v 5 with
  | none => r
  | some a => (r.raiseTo a.top).addAt n a.sig a.exp

/-- The exact value of column `n` (R68); an accumulator of 0 is +0. -/
def AccRow.value (r : AccRow) (n : Nat) : Num :=
  let a := nth r.accs n (0, 0)
  if a.1 == 0 then Num.zero else Num.ofSig a.1 ((r.e.getD 0) - 53)

/-- The spill count of column `n`. -/
def AccRow.spill (r : AccRow) (n : Nat) : Nat := (nth r.accs n (0, 0)).2

/-- A block on its way into the array: one that the filler supplies (R145, R148, R382), a zero block (R46), its 32 elements as integers,
the exponent of their unit and the scale exponent k - 127. -/
structure Blk where
  filler : Bool := false
  zero : Bool
  ints : List Int
  unit : Int
  sc : Int
  deriving DecidableEq, Repr

/-- The least b with 32 * maxA * maxB <= 2^b (R59). -/
def boundB (ta tb : Nat) : Int :=
  let m := 32 * tyMaxInt ta * tyMaxInt tb
  tyUnit ta + tyUnit tb + ((if m ≤ 2 ^ Nat.log2 m then Nat.log2 m else Nat.log2 m + 1 : Nat) : Int)

/-- The exact block sum as an addend (R60, R61); a pair with a zero block adds nothing (R46, R164). -/
def pairAddend (b : Int) (x y : Blk) : Option Addend :=
  if x.filler || x.zero || y.zero then none
  else
    some ⟨(List.zipWith (· * ·) x.ints y.ints).foldl (· + ·) 0, x.unit + y.unit + x.sc + y.sc, x.sc + y.sc + b⟩

/-- Pairs that count in RGN_ZERO_SKIPS (R46): those with a zero block, while SKIP_ZERO is 1. -/
def pairSkips (c : FmtCtl) (xs : List (Blk × Blk)) : Nat :=
  if c.skipZero then (xs.filter fun p => !p.1.filler && (p.1.zero || p.2.zero)).length else 0

end Sys2Proof.Machine
end

