-- ==== Sys2Proof/Machine/Matrix.lean ====
section
/-! DEFINITION. Matrix products: the rows of MATMUL, MATMUL_ADD and CONV in the long accumulator, in narrow and wide form,
with the touch-up path (R79-R87, R99-R101, R131, R132, R164, R165). -/

namespace Sys2Proof.Machine

/-- The operands of one batch of a product as the array takes them. -/
structure MatArgs where
  k : Nat
  n : Nat
  ta : Nat
  tb : Nat
  /-- A block (m, K block), first-coat block (n, K block), second-coat block -/
  aBlk : Nat → Nat → Blk
  bBlk : Nat → Nat → Blk
  b2 : Option (Nat → Nat → Blk)
  /-- A and B elements of a scalar pairing -/
  aVal : Nat → Nat → Num
  bVal : Nat → Nat → Num
  /-- activation-outlier channels, and their elements as BF16 (R81) -/
  chans : List Nat
  act : Nat → Nat → Num
  /-- operand A as stored (R85) -/
  stored : Nat → Nat → Num
  /-- weight outliers: K, N, value -/
  wout : List (Nat × Nat × Num)
  /-- operand C -/
  c : Option (Nat → Nat → Num)
  cInt : Bool

/-- The columns of the tile row that begins at `n0`. -/
def MatArgs.cols (a : MatArgs) (n0 : Nat) : List Nat := (List.range (Nat.min 128 (a.n - n0))).map (n0 + ·)

/-- The touch-up products of one output element and K block, in order (R85): activation outliers in ascending channel,
then weight outliers in ascending K. -/
def MatArgs.touch (a : MatArgs) (m n kb : Nat) : List Num :=
  let inBlk (k : Nat) : Bool := k / 32 == kb && k < a.k
  let listed (k : Nat) : Option Num := (a.wout.find? fun w => w.1 == k && w.2.1 == n).map (·.2.2)
  let acts := (a.chans.filter inBlk).map fun k => (a.act m k).mul ((listed k).getD (a.bVal n k))
  let ws := (a.wout.filter fun w => w.2.1 == n && inBlk w.1 && !a.chans.contains w.1).map fun w => (a.stored m w.1).mul w.2.2
  acts ++ ws

/-- Add the touch-up products of a K block to the row, column by column, each as a block of its own (R67, R85; DEDUCED, log 12). -/
def MatArgs.touchRow (a : MatArgs) (m n0 kb : Nat) (r : AccRow) : AccRow :=
  (a.cols n0).foldl (fun r n => (a.touch m n kb).foldl (fun r v => r.addOwn (n - n0) v) r) r

/-- Add operand C after the last K block (R132). -/
def MatArgs.addC (a : MatArgs) (m n0 : Nat) (r : AccRow) : AccRow :=
  match a.c with
  | none => r
  | some c => r.addBlock ((a.cols n0).map fun n => ownBlock (c m n) 1)

/-- The row of a blocked pairing (R64, R101, R164, R165). -/
def MatArgs.rowBlocked (a : MatArgs) (m n0 : Nat) : AccRow :=
  let b := boundB a.ta a.tb
  let b2 := boundB a.ta tyE2M1
  let r := (List.range (ceilDiv a.k 32)).foldl (fun r kb =>
    let x := a.aBlk m kb
    let ts := (a.cols n0).map fun n => pairAddend b x (a.bBlk n kb)
    let r := match a.b2 with
      | none => r.addBlock ts
      | some f => r.addCoats ts ((a.cols n0).map fun n => pairAddend b2 x (f n kb))
    a.touchRow m n0 kb r) (AccRow.empty (a.cols n0).length)
  a.addC m n0 r

/-- The row of a BF16 or FP16 pairing: each product is a block of its own, raised once for each K (R67). -/
def MatArgs.rowScalar (a : MatArgs) (m n0 : Nat) : AccRow :=
  let r := (List.range (ceilDiv a.k 32)).foldl (fun r kb =>
    let ks := (List.range (Nat.min 32 (a.k - 32 * kb))).map (32 * kb + ·)
    let r := ks.foldl (fun r k => r.addBlock ((a.cols n0).map fun n => ownBlock ((a.aVal m k).mul (a.bVal n k)) 5)) r
    a.touchRow m n0 kb r) (AccRow.empty (a.cols n0).length)
  a.addC m n0 r

/-- The exact integer sum of an INT8 or UINT8 pairing (R66). -/
def MatArgs.intSum (a : MatArgs) (m n : Nat) : Int :=
  (List.range a.k).foldl (fun s k => s + (a.aVal m k).sig * (a.bVal n k).sig) 0

/-- The exact integer sum of an INT8 or UINT8 pairing over the elements of one K block (R66). -/
def MatArgs.intBlock (a : MatArgs) (m n kb : Nat) : Int :=
  (List.range (Nat.min 32 (a.k - 32 * kb))).foldl (fun s i => s + (a.aVal m (32 * kb + i)).sig * (a.bVal n (32 * kb + i)).sig) 0

/-- The row of an integer pairing: block sums with bit 0 of weight 1 (E = 53), each K block's touch-up products after its sum (R64), then
operand C (R66, R132; DEDUCED, log 12). -/
def MatArgs.rowInt (a : MatArgs) (m n0 : Nat) : AccRow :=
  let r : AccRow := ⟨some 53, (a.cols n0).map fun _ => (0, 0)⟩
  let r := (List.range (ceilDiv a.k 32)).foldl (fun r kb =>
    a.touchRow m n0 kb (r.addInts ((a.cols n0).map fun n => a.intBlock m n kb))) r
  match a.c with
  | some c =>
    if a.cInt then { r with accs := List.zipWith (fun acc n => (acc.1 + (c m n).sig, acc.2)) r.accs (a.cols n0) }
    else a.addC m n0 r
  | none => r

/-- The row that holds output (m, n0 ...). -/
def MatArgs.row (a : MatArgs) (m n0 : Nat) : AccRow :=
  if tyBlocked a.ta then a.rowBlocked m n0 else if tyInt a.ta then a.rowInt m n0 else a.rowScalar m n0

/-- Touch-up products formed for `mm` rows. -/
def MatArgs.touchCount (a : MatArgs) (mm : Nat) : Nat :=
  sumNat ((List.range mm).map fun m => sumNat ((List.range a.n).map fun n =>
    sumNat ((List.range (ceilDiv a.k 32)).map fun kb => (a.touch m n kb).length)))

/-- Block pairs skipped for `mm` rows (R46). -/
def MatArgs.skipCount (a : MatArgs) (c : FmtCtl) (mm : Nat) : Nat :=
  if !tyBlocked a.ta then 0
  else
    sumNat ((List.range mm).map fun m => sumNat ((List.range (ceilDiv a.k 32)).map fun kb =>
      pairSkips c ((List.range a.n).map fun n => (a.aBlk m kb, a.bBlk n kb))
        + (match a.b2 with
            | some f => pairSkips c ((List.range a.n).map fun n => (a.aBlk m kb, f n kb))
            | none => 0)))

/-- A matrix operand element as it enters: an infinity is the largest finite value, a NaN +0, each counted (R40). -/
def matVal (t : Nat) (v : Num) : Num × Bool :=
  match v with
  | .inf n =>
    let f := if t == tyFP32 then FFmt.fp32 else if t == tyBF16 then FFmt.bf16 else FFmt.fp16
    ((match f.decode f.maxCode with
      | .num _ m e => .num n m e
      | x => x), true)
  | .nan => (Num.zero, true)
  | x => (x, false)

/-- A block of stored codes under a scale code; `none` is an element that the filler supplies as zero (R43-R46, R50, R51). -/
def codeBlk (c : FmtCtl) (t sc : Nat) (codes : List (Option Nat)) : Blk :=
  let el : Option Nat → Int
    | some k => (blockElem c t sc k).1
    | none => 0
  { zero := sc == 0xFF && !c.zbRead, ints := codes.map el, unit := tyUnit t, sc := if sc == 0xFF then 127 else (sc : Int) - 127 }

/-- A block that the filler supplies. -/
def fillerBlk (t : Nat) : Blk := { filler := true, zero := false, ints := [], unit := tyUnit t, sc := 0 }

/-- The block of a stored operand along K, whose element k lies at index `ix k`: `none` is a position that the filler supplies as zero
(R43, R145, R382). -/
def storedBlk (c : FmtCtl) (rd : Reader) (t : Tns) (ix : Nat → Option (List Nat)) (kb : Nat) : Blk :=
  match ix (32 * kb) with
  | none => fillerBlk t.td.ty
  | some x0 => codeBlk c t.td.ty (scaleOf rd t x0) ((List.range 32).map fun i => (ix (32 * kb + i)).map fun x => (codeAt rd t x).1)

/-- A block that the module forms on its way into the array: a zero block when it rounds wholly to zero, whatever ZB_WRITE and ZB_READ
hold (R46, R47), and whether it was saturated. -/
def madeBlk (t : Nat) (vals : List Num) : Blk × Bool :=
  let (k, cs, sat) := encodeBlock ⟨false, false, true⟩ t vals
  ({ zero := k == 0xFF
     ints := (List.range 32).map fun i => if i < cs.length then (elemInt t (nth cs i 0)).1 else 0
     unit := tyUnit t
     sc := (k : Int) - 127 }, sat)

/-- A block of values converted to MXFP4 on its way into the array (R81), the listed channels left out, and whether it was
saturated. -/
def narrowBlk (vals : List Num) (out : List Nat) : Blk × Bool :=
  madeBlk tyE2M1 ((List.range vals.length).map fun i => if out.contains i then Num.zero else nth vals i Num.zero)

/-- A value as BF16 (R57), saturating. -/
def toBf16 (v : Num) : Num × Bool :=
  let r := FFmt.bf16.encode true v
  (FFmt.bf16.decode r.1, r.2)

/-- The channels of the outlier channel list (R80) for `k` channels. -/
def actChannels (rd : Reader) (ptr k : Nat) : List Nat :=
  ((List.range (ceilDiv k 128)).map fun g =>
    let cnt := (rd (ptr + 8 * g)).toNat
    ((List.range (Nat.min cnt 4)).map fun i => 128 * g + (rd (ptr + 8 * g + 1 + i)).toNat).filter (· < k)).flatten

/-- A coat record (R76). -/
structure Coat where
  base : Nat
  scale : Nat
  wptr : Nat
  wcount : Nat
  reserved : Nat
  deriving DecidableEq, Repr

/-- The coat record at an address. -/
def coatAt (rd : Reader) (va : Nat) : Coat :=
  let b := readN rd va 32
  { base := fld b 0 8, scale := fld b 8 8, wptr := fld b 0x10 8, wcount := fld b 0x18 4, reserved := fld b 0x1C 4 }

/-- Bytes of the start indices of a weight outlier list, padded to 8 (R82). -/
def woutStarts (ngroups : Nat) : Nat := roundUp (4 * (ngroups + 1)) 8

/-- The entries of the weight outlier list (R82), in its order. -/
def woutEntries (rd : Reader) (c : Coat) : List (Nat × Nat × Num) :=
  if c.wptr == 0 then []
  else
    let ng := leNat (readN rd (c.wptr + 4) 4)
    (List.range c.wcount).map fun i =>
      let e := leNat (readN rd (c.wptr + 16 + woutStarts ng + 8 * i) 8)
      (bits e 63 40, bits e 39 16, FFmt.bf16.decode (bits e 15 0))

end Sys2Proof.Machine
end

