-- ==== Sys2Proof/Machine/Checks.lean ====
section
/-! DEFINITION. The checks of admission that every opcode shares: pointers, extents, tensor descriptors, bucket plans, tally entries,
layer and pass records (R26, R28, R38, R74-R77, R88, R104, R119-R129, R136, R153, R154, R267). Where several fields of a list fail, the
one recorded is the first in the order macro-op descriptor, bucket plan, tensors, further structures, and within a structure in the
order of its offsets (log 30). -/

namespace Sys2Proof.Machine

/-! Structures of RGN_LAST_REFUSAL.STRUCT. -/
abbrev inMop : Nat := 0
abbrev inOut : Nat := 1
abbrev inA : Nat := 2
abbrev inB : Nat := 3
abbrev inC : Nat := 4
abbrev inPlan : Nat := 5
abbrev inLayer : Nat := 6
abbrev inPass : Nat := 7
abbrev inCoat : Nat := 8
abbrev inOutlier : Nat := 9
abbrev inAux : Nat := 10
abbrev inLengths : Nat := 11

/-- What a check looks at: the memory at admission, the partition, and the extents that the OPEN and RESIZE macro-ops of the list declare
for contexts (R267, R291), and the stream contexts that its VCTX macro-ops open: index, MAX_W, MAX_H, ten bits. -/
structure Env where
  s : State
  p : Nat
  ctxs : List (Nat × Nat) := []
  vctxs : List (Nat × Nat × Nat × Bool) := []
  deriving DecidableEq, Repr

/-- A virtual byte lies in a context within its declared maximum length (R267). -/
def Env.declared (e : Env) (va : Nat) : Bool :=
  match vaSpace e.p va with
  | .gen _ => false
  | .ctx i =>
    (match ctx? e.s i with | some c => c.owner == e.p && vaOff va < c.extent | none => false)
      || e.ctxs.any fun (j, n) => j == i && vaOff va < n

/-- A range can be read, or written, by the rules of admission (R26, R28, R129, R267). -/
def Env.extent (e : Env) (write : Bool) (va n struct byte : Nat) : Option Check :=
  if !rangeInSpace va n then badDesc struct byte
  else if !mayTouch e.s e.p va then badPart struct byte
  else
    need ((pageSteps va n).all fun a =>
      match translate e.s e.p a with
      | some t => !write || (t.w && t.image.isNone)
      | none => e.declared a) (badDesc struct byte)

/-- A pointer to a structure of `n` bytes: aligned, in one space, mapped (R77, R119, R267). -/
def Env.ptr (e : Env) (va align n struct byte : Nat) : Option Check :=
  firstBad [need (va % align == 0) (badDesc struct byte), e.extent false va n struct byte]

/-! ### Bucket plans (R153). -/

/-- The bucket plan of a macro-op obeys R153. -/
def Env.plan (e : Env) (m : Mop) : Option Check :=
  if m.bucket == 0 then none
  else
    match e.ptr m.bucket 128 128 inMop 0x28 with
    | some c => some c
    | none =>
      let b := vread e.s e.p m.bucket 128
      let nd := fld b 0 1
      let bucket (j k : Nat) : Nat := fld b (0x10 + 40 * j + 4 * k) 4
      let dim (j : Nat) : List (Option Check) :=
        if j < nd then
          [need (fld b (8 + 40 * j) 8 % 4 == 0) (badDesc inPlan (8 + 40 * j)), e.extent false (fld b (8 + 40 * j) 8) 4 inPlan (8 + 40 * j),
            need (bucket j 0 != 0) (badDesc inPlan (0x10 + 40 * j))]
          ++ (List.range 8).map fun k => need (bucket j k < 2 ^ 31 && (k == 0 || bucket j k == 0 || bucket j (k - 1) < bucket j k)
              && (k == 0 || bucket j k == 0 || bucket j (k - 1) != 0)) (badDesc inPlan (0x10 + 40 * j + 4 * k))
        else
          need (fld b (8 + 40 * j) 8 == 0) (badDesc inPlan (8 + 40 * j))
            :: (List.range 8).map fun k => need (bucket j k == 0) (badDesc inPlan (0x10 + 40 * j + 4 * k))
      firstBad ([need (1 ≤ nd && nd ≤ 3) (badDesc inPlan 0), need (allZero ((b.drop 1).take 7)) (badDesc inPlan 1)]
        ++ dim 0 ++ dim 1 ++ dim 2)

/-! ### Tensor descriptors (R124-R129, R154, R388). -/

/-- A tensor at its largest buckets. -/
def Env.tns (e : Env) (m : Mop) (va : Nat) : Tns :=
  let c := largestBuckets (planOf e.s e.p m)
  tensor e.s e.p va c c

/-- A tensor descriptor obeys its rules; `nd` is the number of run-time dimensions of the plan, `write` says that it is an output. -/
def Env.td (e : Env) (nd : Nat) (write : Bool) (struct : Nat) (x : Tns) : Option Check :=
  let t := x.td
  let blk := tyBlocked t.ty
  let bad := badDesc struct
  let vaOk (v : Nat) : Bool := !vaBad v
  let dims := (List.range 5).map fun d =>
    let z := nth t.size d 0
    need (if d < t.rank then (if bit z 31 then bits z 30 2 == 0 && z % 4 < nd else z != 0) else z == 1) (bad (0x14 + 4 * d))
  let strides := (List.range 5).map fun d =>
    let st := nth t.stride d 0
    need (if d ≥ t.rank then st == 0
      else (!blk || (if d == t.blockDim then st == 1 else st % 32 == 0))
        && (!t.compressed || (if d == 0 then st == 1 else st % 128 == 0))
        && (!write || st != 0 || nth x.cap d 1 ≤ 1)) (bad (0x28 + 4 * d))
  firstBad ([
    need (vaOk t.base && (blk || t.base % (if t.compressed then compBytes t.comp else tyBytes t.ty) == 0)) (bad 0),
    need (if blk then vaOk t.scale else t.scale == 0) (bad 8),
    need (tyValid t.ty) (bad 0x10),
    need (1 ≤ t.rank && t.rank ≤ 5) (bad 0x11),
    need (t.layout < 8 && (if blk then t.blockDim < t.rank else t.blockDim == 0)) (bad 0x12),
    need (t.tflags ≤ 2 && (t.comp == 0 || t.ty == tyBF16)) (bad 0x13)]
    ++ dims ++ strides ++ [
    need (t.reserved == 0) (bad 0x3C),
    e.extent write t.base (extentBytes x) struct 0,
    if blk then e.extent write t.scale (scaleBytes x) struct 8 else none])

/-- A tensor named by a pointer at byte `pbyte` of structure `pstruct` (R124). -/
def Env.tensorAt (e : Env) (m : Mop) (write : Bool) (va struct pstruct pbyte : Nat) : Option Check :=
  match e.ptr va 64 64 pstruct pbyte with
  | some c => some c
  | none => e.td (fld (planOf e.s e.p m) 0 1) write struct (e.tns m va)

/-! ### The macro-op descriptor (R119-R121, R136). -/

/-- How an opcode uses a pointer field: it must be 0, it must name something, or it may do either. -/
inductive Use where
  | no | must | may
  deriving DecidableEq, Repr

/-- The pointers that an opcode uses; every opcode may name a layer record (R73). -/
structure Uses where
  out : Use := .no
  a : Use := .no
  b : Use := .no
  c : Use := .no
  bucket : Use := .may
  lengths : Use := .no
  coat : Use := .no
  aux : Use := .no
  deriving DecidableEq, Repr

/-- A pointer field and its use. -/
def useOk (u : Use) (v : Nat) : Bool := match u with | .no => v == 0 | .must => v != 0 | .may => true

/-- Opcodes that must carry a class of 1-15 (R136). -/
def needsClass (op : Nat) : Bool := op < 0x10 || (0x30 ≤ op && op < 0x80)

/-- A tally entry obeys R120. -/
def entryOk (v : Nat) : Bool := bits v 31 16 == 0 && (bits v 15 0 != 0xFFFF || bits v 63 32 == 0)

/-- A tally entry's tally lies in the partition's allotment (R121). -/
def Env.entryAllotted (e : Env) (v : Nat) : Bool := bits v 15 0 == 0xFFFF || tallyAllotted e.s e.p (bits v 15 0)

/-- The descriptor's fixed fields; `subops` says which SUBOP the opcode takes, `params` how many PARAM bytes it uses. -/
def Env.form (e : Env) (m : Mop) (u : Uses) (subops : Nat → Bool) (params : Nat) : Option Check :=
  let bad := badDesc inMop
  firstBad [
    need (m.flags < 64) (bad 1),
    need (m.energy < 16 && !(needsClass m.opcode && m.energy == 0)) (bad 2),
    need (subops m.subop) (bad 3),
    need (m.reserved == 0) (bad 4),
    need (useOk u.out m.tdOut) (bad 8), need (useOk u.a m.tdA) (bad 0x10), need (useOk u.b m.tdB) (bad 0x18),
    need (useOk u.c m.tdC) (bad 0x20), need (useOk u.bucket m.bucket) (bad 0x28), need (useOk u.lengths m.lengths) (bad 0x30),
    need (useOk u.coat m.coat) (bad 0x40), need (useOk u.aux m.aux) (bad 0x48),
    need (entryOk m.wait0) (bad 0x50), need (entryOk m.wait1) (bad 0x58), need (entryOk m.signal0) (bad 0x60),
    need (entryOk m.signal1) (bad 0x68),
    need (allZero (m.param.drop params)) (bad (0x70 + params)),
    e.plan m,
    if m.tdOut == 0 then none else e.tensorAt m true m.tdOut inOut inMop 8,
    if m.tdA == 0 then none else e.tensorAt m false m.tdA inA inMop 0x10,
    if m.tdB == 0 then none else e.tensorAt m false m.tdB inB inMop 0x18,
    if m.tdC == 0 then none else e.tensorAt m false m.tdC inC inMop 0x20]

/-- The tallies of a descriptor are allotted (R121). -/
def Env.tallies (e : Env) (m : Mop) : Option Check :=
  firstBad [
    need (e.entryAllotted m.wait0) (badPart inMop 0x50), need (e.entryAllotted m.wait1) (badPart inMop 0x58),
    need (e.entryAllotted m.signal0) (badPart inMop 0x60), need (e.entryAllotted m.signal1) (badPart inMop 0x68)]

/-- The type of a tensor stands in a permitted position (R38). -/
def Env.tyIn (e : Env) (m : Mop) (va struct : Nat) (ok : Nat → Bool) : Option Check :=
  need (va == 0 || ok (e.tns m va).td.ty) (badDesc struct 0x10)

/-- A tensor is not stored compressed (R388). -/
def Env.plain (e : Env) (m : Mop) (va struct : Nat) : Option Check := need (va == 0 || !(e.tns m va).td.compressed) (badDesc struct 0x13)

/-- No tensor of the macro-op is stored compressed. -/
def Env.allPlain (e : Env) (m : Mop) : Option Check :=
  firstBad [e.plain m m.tdOut inOut, e.plain m m.tdA inA, e.plain m m.tdB inB, e.plain m m.tdC inC]

/-- Two tensors have the same rank and, along every dimension, the same size field (R131, R133). -/
def Env.sameShape (e : Env) (m : Mop) (va wb struct : Nat) : Option Check :=
  if va == 0 || wb == 0 then none
  else
    let x := (e.tns m va).td
    let y := (e.tns m wb).td
    firstBad (need (x.rank == y.rank) (badDesc struct 0x11)
      :: (List.range 5).map fun d => need (nth x.size d 0 == nth y.size d 0) (badDesc struct (0x14 + 4 * d)))

/-- A size field of one tensor equals one of another. -/
def Env.sameSize (e : Env) (m : Mop) (va dv wb dw struct : Nat) : Option Check :=
  if va == 0 || wb == 0 then none
  else need (nth (e.tns m va).td.size dv 0 == nth (e.tns m wb).td.size dw 0) (badDesc struct (0x14 + 4 * dv))

/-! ### Layer and pass records (R74-R77, R88, R104, R111). -/

/-- Bytes of a tensor's dense copy: elements, and scale array (R104, R482). -/
def denseElems (t : Tns) : Nat :=
  if tyBlocked t.td.ty then
    ((List.range 5).foldl (fun n d => n * (if d == t.td.blockDim then ceilDiv (t.dim d) 32 else t.dim d)) 1) * blockBytes t.td.ty
  else t.count * tyBytes t.td.ty

/-- Size of a tensor's parts in a save area, each rounded up to 4 KiB (R111). -/
def saveParts (t : Tns) : Nat := roundUp (denseElems t) 4096 + roundUp (scaleBytes t) 4096

/-- The tensors that a pass record names. -/
def passInputs (s : State) (p ptr : Nat) : List Tns :=
  (List.range (Nat.min (vnat s p (ptr + 2) 1) 4)).map fun i => tensor s p (vnat s p (ptr + 0x10 + 8 * i) 8) [] []

/-- A checkpoint record (R481). -/
structure CkptRec where
  ntd : Nat
  dest : Nat
  bytes : Nat
  gen : Nat
  tds : List Nat
  deriving DecidableEq, Repr

/-- The record at an address. -/
def ckptRec (s : State) (p va : Nat) : CkptRec :=
  let b := vread s p va 64
  { ntd := fld b 0 1, dest := fld b 8 8, bytes := fld b 0x10 8, gen := fld b 0x18 8
    tds := (List.range (Nat.min (fld b 0 1) 16)).map fun i => vnat s p (va + 0x40 + 8 * i) 8 }

/-- Its tensors. -/
def CkptRec.tensors (r : CkptRec) (s : State) (p : Nat) : List Tns := r.tds.map fun va => tensor s p va [] []

/-- The size of the save area of a pass record (R111). -/
def saveArea (s : State) (p ptr : Nat) : Nat := sumNat ((passInputs s p ptr).map saveParts)

/-- A pass record (R75, R77, R104). An input whose size names a run-time dimension is refused, since a pass has no bucket plan (DESIGN CHOICE,
log 102). -/
def Env.passRec (e : Env) (ptr : Nat) : Option Check :=
  match e.ptr ptr 64 64 inLayer 0x18 with
  | some c => some c
  | none =>
    let b := vread e.s e.p ptr 64
    let n := fld b 2 1
    let inputs := (List.range n).map fun i =>
      let at0 := 0x10 + 8 * i
      match firstBad [e.ptr (fld b at0 8) 64 64 inPass at0, e.td 0 false inPass (tensor e.s e.p (fld b at0 8) [] []),
          need (!(tensor e.s e.p (fld b at0 8) [] []).td.compressed) (badDesc inPass at0)] with
      | some c => some { c with struct := inPass, byte := at0 }
      | none => none
    firstBad ([
      need (1 ≤ n && n ≤ 4) (badDesc inPass 2),
      need (fld b 3 5 == 0) (badDesc inPass 3),
      e.extent true (fld b 8 8) 32 inPass 8]
      ++ (if n ≤ 4 then inputs else []) ++ [
      if fld b 0x30 8 == 0 then none
      else firstBad [need (fld b 0x30 8 % 4096 == 0) (badDesc inPass 0x30), e.extent true (fld b 0x30 8) (saveArea e.s e.p ptr) inPass 0x30],
      need (fld b 0x38 8 == 0) (badDesc inPass 0x38)])

/-- The number of samples of a layer-end macro-op, if it writes any (R88). -/
def Env.sampleCount (e : Env) (m : Mop) (dim : Nat) : Option Nat :=
  if m.lengths != 0 && m.tdA != 0 then some ((e.tns m m.tdA).dim 3)
  else if m.tdOut != 0 then some (nth (e.tns m m.tdOut).cap dim 1) else none

/-- The layer record of a macro-op (R74, R77, R88). -/
def Env.layerRec (e : Env) (m : Mop) : Option Check :=
  if m.layer == 0 then none
  else
    match e.ptr m.layer 64 64 inMop 0x38 with
    | some c => some c
    | none =>
      let b := vread e.s e.p m.layer 64
      let samples := fld b 4 4
      firstBad [
        need (fld b 0 2 < 4096) (badDesc inLayer 0),
        need (fld b 2 1 < 4) (badDesc inLayer 2),
        need (fld b 3 1 < 5) (badDesc inLayer 3),
        need (1 ≤ samples && samples ≤ 65535) (badDesc inLayer 4),
        if m.layerEnd then
          (match e.sampleCount m (fld b 3 1) with
            | some n => need (n ≤ samples) (badDesc inLayer 4)
            | none => none)
        else none,
        need (fld b 8 8 % 8 == 0) (badDesc inLayer 8),
        e.extent true (fld b 8 8) (8 * (samples + 1)) inLayer 8,
        if m.passStart then e.passRec (fld b 0x18 8) else none,
        need (allZero ((b.drop 0x20).take 32)) (badDesc inLayer 0x20)]

/-- The pass record that a macro-op names: only a PASS_START macro-op with a layer record names one (R74). -/
def passPtr (s : State) (p : Nat) (m : Mop) : Option Nat :=
  if m.passStart && m.layer != 0 then some (vnat s p (m.layer + 0x18) 8) else none

/-- WATCH of a macro-op's layer record. -/
def watched (s : State) (p : Nat) (m : Mop) : Bool := m.layer != 0 && bit (vnat s p (m.layer + 2) 1) 0

/-- The outlier channel list of a macro-op's layer record (R74, R80). -/
def actList (s : State) (p : Nat) (m : Mop) : Nat := if m.layer == 0 then 0 else vnat s p (m.layer + 0x10) 8

/-- An FP32 value that is positive and finite. -/
def posFinite (v : Nat) : Bool :=
  match FFmt.fp32.decode v with
  | .num n m _ => !n && m != 0
  | _ => false

end Sys2Proof.Machine
end

