-- ==== Sys2Proof/Machine/Lengths.lean ====
section
/-! DEFINITION. Lengths tables and the fields of attention records (R292-R299, R317, R320). -/

namespace Sys2Proof.Machine

/-- Fields of the attention record at AUX_PTR (R299). -/
structure AttnRec where
  hq : Nat
  hkv : Nat
  headDim : Nat
  spans : Nat
  layer : Nat
  aflags : Nat
  nanchor : Nat
  g : Nat
  back : Nat
  fwd : Nat
  anchors : List (Nat × Nat)
  stats : Nat
  dk : Nat
  dv : Nat
  /-- HAUL_PTR of a haulage opcode (R329) -/
  haul : Nat
  deriving DecidableEq, Repr

/-- The head dimension that a code stands for (R281). -/
def headDimOf (code : Nat) : Nat := if code == 0 then 64 else if code == 1 then 128 else 256

/-- The record at an address. -/
def attnRec (s : State) (p va : Nat) : AttnRec :=
  let b := vread s p va 128
  { hq := fld b 0 1, hkv := fld b 1 1, headDim := fld b 2 1, spans := fld b 3 1, layer := fld b 4 2, aflags := fld b 6 1
    nanchor := fld b 7 1, g := fld b 8 4, back := fld b 0xC 4, fwd := fld b 0x10 4
    anchors := (List.range (Nat.min (fld b 7 1) 4)).map fun i => (fld b (0x18 + 8 * i) 4, fld b (0x1C + 8 * i) 4)
    stats := fld b 0x38 8, dk := fld b 0x40 8, dv := fld b 0x48 8, haul := fld b 0x50 8 }

/-- BAND and PARTIAL. -/
def AttnRec.band (a : AttnRec) : Bool := bit a.aflags 0
def AttnRec.partial_ (a : AttnRec) : Bool := bit a.aflags 1

/-- The head dimension d. -/
def AttnRec.d (a : AttnRec) : Nat := headDimOf a.headDim

/-- Fields of a haul record (R330). -/
structure HaulRec where
  id : Nat
  nrank : Nat
  hflags : Nat
  shards : Nat
  area : Nat
  bytes : Nat
  deriving DecidableEq, Repr

/-- The haul record at an address. -/
def haulRec (s : State) (p va : Nat) : HaulRec :=
  let b := vread s p va 64
  { id := fld b 0 4, nrank := fld b 4 2, hflags := fld b 6 1, shards := fld b 8 8, area := fld b 0x10 8, bytes := fld b 0x18 8 }

/-- START and LENGTH of a shard (R319). -/
def shardAt (s : State) (p : Nat) (h : HaulRec) (r : Nat) : Nat × Nat := (vnat s p (h.shards + 8 * r) 4, vnat s p (h.shards + 8 * r + 4) 4)

/-- An entry of a lengths table (R292). -/
structure LenEntry where
  ctx : Nat
  reserved : Nat
  start : Nat
  length : Nat
  qlen : Nat
  deriving DecidableEq, Repr

/-- Entry `i` of the table at an address. -/
def lenEntry (s : State) (p va i : Nat) : LenEntry :=
  let b := vread s p (va + 16 * i) 16
  ⟨fld b 0 2, fld b 2 2, fld b 4 4, fld b 8 4, fld b 0xC 4⟩

/-- The number of slots: the size of dimension 3 of operand A; a HAUL_SEND, which names no tensor, has one slot (R292, R320). -/
def slotCount (s : State) (p : Nat) (m : Mop) : Nat := if m.tdA == 0 then 1 else (tensor s p m.tdA [] []).dim 3

/-- A failure of a lengths table: status, CHECK, slot, and the offset of the failing field in its entry (R294, R317). -/
structure LenFail where
  status : Nat
  check : Nat
  slot : Nat
  byte : Nat
  deriving DecidableEq, Repr

/-- The checks of R294 on an entry that is not vacant, in order. -/
def lenChecks (s : State) (p : Nat) (m : Mop) (a : AttnRec) (slot : Nat) (e : LenEntry) : Option LenFail :=
  let fail (b : Bool) (c st byte : Nat) : Option LenFail := if b then some ⟨st, c, slot, byte⟩ else none
  let qmax := if m.tdA == 0 then e.length else (tensor s p m.tdA [] []).dim 1
  match fail (e.reserved != 0) 1 stDescriptor 2 |>.or (fail (e.length > 2 ^ 24) 2 stLength 8)
      |>.or (fail (e.qlen > e.length || e.qlen > qmax) 3 stDescriptor 0xC) with
  | some f => some f
  | none =>
    match ctx? s e.ctx with
    | none => some ⟨stDescriptor, 4, slot, 0⟩
    | some c =>
      fail (c.owner != p) 5 stPartition 0
        |>.or (fail (c.hkv != a.hkv || c.headDim != a.d || a.layer ≥ c.layers) 6 stDescriptor 0)
        |>.or (fail (e.start + e.length > c.maxlen) 7 stLength 8)
        |>.or (fail ((m.opcode == 0x30 || m.opcode == 0x32) && e.start + e.length > c.filled) 8 stLength 8)

/-- The first failure of a table, in ascending slot order. -/
def lenTableFail (s : State) (p : Nat) (m : Mop) : Option LenFail :=
  let a := attnRec s p m.aux
  (List.range (slotCount s p m)).findSome? fun i =>
    let e := lenEntry s p m.lengths i
    if e.length == 0 then none else lenChecks s p m a i e

/-- The slots as step 2 takes them (R293, R296). -/
def takeSlots (s : State) (p : Nat) (m : Mop) : List SlotLen :=
  let a := attnRec s p m.aux
  (List.range (slotCount s p m)).map fun i =>
    let e := lenEntry s p m.lengths i
    { vacant := e.length == 0, ctx := e.ctx, layer := a.layer, q0 := e.start + e.length - e.qlen, q1 := e.start + e.length, k0 := e.start
      k1 := e.start + e.length }

/-- A haulage macro-op's slot is that of its module's shard (R320). -/
def haulSlotOk (s : State) (p : Nat) (m : Mop) : Bool :=
  if !isHaul m.opcode then true
  else
    let h := haulRec s p (attnRec s p m.aux).haul
    let (st, n) := shardAt s p h (myRank s p)
    let e := lenEntry s p m.lengths 0
    e.start == 0 && e.length == n && e.qlen == n && (match ctx? s e.ctx with | some c => c.base == st | none => false)

/-- Record a lengths-table failure of macro-op `i` and end its request (R294, R317). -/
def refuseSlot (s : State) (id i opcode : Nat) (f : LenFail) : State :=
  match req? s id with
  | none => s
  | some r =>
    let s := match leadRgn s r.part with
      | none => s
      | some l =>
        let s := setReg s (rgnPage l) oRGN_ATTN_BAD_SLOT (f.status * 2 ^ 56 + f.check * 2 ^ 48 + f.slot % 2 ^ 32)
        if f.status == stLength then raise s (rgnPage l) 48 else s
    refuse s id ⟨f.status, inLengths, f.byte⟩ opcode i

end Sys2Proof.Machine
end

