-- ==== Sys2Proof/Machine/MopRun.lean ====
section
/-! DEFINITION. A macro-op at work: when its own command may run, what its work comes to, and the counts that go with it
(R72, R92, R117, R121, R123, R135, R142, R267, R472). -/

namespace Sys2Proof.Machine

/-- A macro-op that has begun, with its request and its descriptor. -/
structure Run where
  r : Request
  i : Nat
  m : Mop
  st : MopSt
  deriving DecidableEq, Repr

/-- The partition. -/
def Run.p (x : Run) : Nat := x.r.part

/-- The macro-op that a reference names, if its request is admitted and it has begun. -/
def run? (s : State) (ref : MopRef) : Option Run :=
  match req? s ref.req with
  | some r => if r.st == .admitted then (mopSt? r ref.idx).map fun st => ⟨r, ref.idx, mopOf s r ref.idx, st⟩ else none
  | none => none

/-! ### Layers and passes (R73). -/

/-- The first macro-op of the layer of macro-op `i`. -/
def layerOf (s : State) (r : Request) (i : Nat) : Nat :=
  (((List.range (i + 1)).reverse.find? fun j => j == 0 || (mopOf s r j).passStart || (mopOf s r (j - 1)).layerEnd)).getD 0

/-- The first macro-op of the pass of macro-op `i`. -/
def passOf (s : State) (r : Request) (i : Nat) : Nat :=
  ((List.range (i + 1)).reverse.find? fun j => j == 0 || (mopOf s r j).passStart).getD 0

/-- The macro-ops of a layer and of a pass, by their first macro-op. -/
def layerMops (s : State) (r : Request) (start : Nat) : List Nat := (List.range r.nops).filter fun i => layerOf s r i == start
def passMops (s : State) (r : Request) (start : Nat) : List Nat := (List.range r.nops).filter fun i => passOf s r i == start

/-- The records of a layer and a pass. -/
def layerW? (r : Request) (start : Nat) : Option LayerW := r.watch.layers.find? (·.start == start)
def passW? (r : Request) (start : Nat) : Option PassW := r.watch.passes.find? (·.start == start)

/-- Update them. -/
def modLayer (s : State) (id start : Nat) (f : LayerW → LayerW) : State :=
  modReq s id fun r => { r with watch := { r.watch with layers := updFirst (·.start == start) f r.watch.layers } }
def modPass (s : State) (id start : Nat) (f : PassW → PassW) : State :=
  modReq s id fun r => { r with watch := { r.watch with passes := updFirst (·.start == start) f r.watch.passes } }

/-! The fields of RGN_CANARY_CTRL, RGN_CANARY_LIMITS and the bands as a layer has latched them (R113). -/
def Latch.action (l : Latch) : Nat := l.canary % 4
def Latch.scope (l : Latch) : Bool := bit l.canary 3
def Latch.refShift (l : Latch) : Nat := bits l.canary 6 4
def Latch.repaintLimit (l : Latch) : Nat := bits l.canary 15 8
def Latch.gradAction (l : Latch) : Bool := bit l.canary 16
def Latch.satLimit (l : Latch) : Nat := bits l.limits 31 16
def Latch.spillLimit (l : Latch) : Nat := bits l.limits 15 0

/-! ### When a macro-op's own command may run. -/

/-- A macro-op that uses no unit and hands out no tile: CTX and HAUL_SEND (R283, R333). -/
def tileless (op : Nat) : Bool := op == 0x34 || op == 0x38

/-- A macro-op of the unit queue has handed out its last tile: none of its groups waits in a group queue (R117). HAUL_SEND counts as having
done so once it has passed step 3 (R333). -/
def handedOut (s : State) (r : Request) (op : Nat) (st : MopSt) : Bool :=
  st.stage == .worked || st.stage == .judged || st.stage == .done
    || (op == 0x38 && st.begun)
    || (st.stage == .granted && st.queued && !s.fab.queue.any fun g => g.req == r.id && g.mop == st.idx)

/-- Every earlier unit-queue macro-op of the request has handed out its last tile (R117). -/
def tilesBefore (s : State) (r : Request) (i : Nat) : Bool :=
  (List.range i).all fun j =>
    let op := (mopOf s r j).opcode
    queueOf op != 0 || op == 0x34 || (mopSt? r j).any (handedOut s r op)

/-- A group of the macro-op stands halted: in a saved state, or in a cluster of a halted region (R472). -/
def haltedGroup (s : State) (x : Run) : Bool :=
  let mine (h : Held) : Bool := h.group.req == x.r.id && h.group.mop == x.i
  s.fab.rgns.any (fun g => g.saved.any fun v => v.held.any mine)
    || s.fab.held.any fun h => mine h && !(rgn s (clusterRgn h.cluster)).runs

/-- The macro-op can do its work: its grant stands, it waits on no memory and on no stack in self refresh (R257), and, where it uses units, its partition has a region that runs and
every earlier macro-op has handed out its tiles. Haulage goes on through pre-emption (R341). -/
def ready? (s : State) (ref : MopRef) (op : Nat) (sub : Nat → Bool) : Option Run :=
  if !serving s then none
  else
    match run? s ref with
    | some x =>
      if x.st.stage == .granted && x.m.opcode == op && sub x.m.subop && x.st.memWait.isNone && !stackWaits s x.p
          && (queueOf op != 0 || tileless op || (!(runRgns s x.p).isEmpty && tilesBefore s x.r x.i && !haltedGroup s x)) then some x
      else none
    | none => none

/-! ### Operands of a running macro-op. -/

/-- The actual sizes of run-time dimensions, their largest buckets, and the buckets chosen (R154, R155). -/
def Run.dims (x : Run) : List Nat := x.st.sizes
def Run.caps (s : State) (x : Run) : List Nat := largestBuckets (planOf s x.p x.m)
def Run.buckets (s : State) (x : Run) : List Nat :=
  let plan := planOf s x.p x.m
  (List.range x.st.sizes.length).map fun j => (chooseBucket plan j (nth x.st.sizes j 0)).getD 0

/-- A tensor of the macro-op. -/
def Run.tns (s : State) (x : Run) (va : Nat) : Tns := tensor s x.p va x.dims (x.caps s)

/-- Sizes of a tensor at the chosen buckets. -/
def Run.bucketSizes (s : State) (x : Run) (va : Nat) : List Nat := (tdAt s x.p va).sizes (x.buckets s)

/-- The bytes that the partition reads. -/
def rdr (s : State) (p : Nat) : Reader := vget s p

/-- The format controls of the macro-op's lead region (R71). -/
def Run.fmt (s : State) (x : Run) : FmtCtl :=
  fmtCtl (match leadRgn s x.p with | some l => (rgn s l).latch.fmt | none => 4)

/-- FLUSH_T (R219). -/
def Run.flushT (s : State) (x : Run) : W32 :=
  BitVec.ofNat 32 (match leadRgn s x.p with | some l => (rgn s l).latch.flush | none => 0x00800000)

/-- The address of an element's first byte. -/
def elemVa (t : TD) (ix : List Nat) : Nat :=
  let o := elemOff t ix
  if tyBlocked t.ty then t.base + o / 32 * blockBytes t.ty
  else if t.compressed then t.base + o / 128 * compBytes t.comp
  else t.base + o * tyBytes t.ty

/-- Every byte that the in-bounds elements of a tensor lie in is mapped (R267). -/
def tnsMapped (s : State) (p : Nat) (t : Tns) : Bool :=
  let n := if tyBlocked t.td.ty then blockBytes t.td.ty else if t.td.compressed then compBytes t.td.comp else tyBytes t.td.ty
  (indices t.sz).all fun ix =>
    rangeMapped s p (elemVa t.td ix) n && (!tyBlocked t.td.ty || (translate s p (t.td.scale + scaleIdx t ix)).isSome)

/-- The first of a list of inputs that is not mapped, with its structure. -/
def unmappedInput (s : State) (p : Nat) (l : List (Nat × Tns)) : Option Check :=
  (l.find? fun (_, t) => !tnsMapped s p t).map fun (k, _) => ⟨stDescriptor, k, 0⟩

/-- The first of a list of ranges (structure, address, bytes) that is not mapped. -/
def unmappedRange (s : State) (p : Nat) (l : List (Nat × Nat × Nat)) : Option Check :=
  (l.find? fun (_, va, n) => !rangeMapped s p va n).map fun (k, _, _) => ⟨stDescriptor, k, 0⟩

/-- Signal a tally entry (R120). -/
def signalEntry (s : State) (e : Nat) : State := match tallyEntry e with | some (t, v) => addTally s t v | none => s

/-! ### What the work comes to. -/

/-- The effects of a macro-op's work: bytes written, counts of the regions that ran it, groups written, of a matrix product each output
element with its spills, and events of the lead region. -/
structure Eff where
  bytes : List (Nat × Byte) := []
  cnt : List (Nat × Nat) := []
  groups : List Grp := []
  spills : List (List Nat × Nat) := []
  events : List Nat := []

/-- The effects of writing a tensor. -/
def Written.eff (w : Written) : Eff :=
  { bytes := w.bytes, groups := w.groups
    cnt := [(oRGN_SAT_BLOCKS, w.sat), (oRGN_SPECIAL_IN, w.nanInt), (oRGN_FMAP_BLOCKS, w.fmap)] }

/-- Further counts. -/
def Eff.count (e : Eff) (l : List (Nat × Nat)) : Eff := { e with cnt := e.cnt ++ l }

/-- Special elements and invalid bytes of the operands (R72). -/
def readCnt (c : FmtCtl) (rd : Reader) (ts : List Tns) : List (Nat × Nat) :=
  (ts.map fun t => let n := readCounts c rd t; [(oRGN_SPECIAL_IN, n.1), (oRGN_BAD_CODE, n.2)]).flatten

/-- What a macro-op's work comes to. -/
inductive Work where
  /-- done, with these effects -/
  | eff (e : Eff)
  /-- done, and the state with the effects -/
  | state (s : State)
  /-- the request ends under R123 -/
  | fail (c : Check)
  /-- waits on memory (R275) -/
  | full
  /-- its occasion has not come -/
  | hold

/-- Add a sample's counts. -/
def addCnt (l : List SampleCnt) (c : SampleCnt) : List SampleCnt :=
  if l.any (·.sample == c.sample) then
    updFirst (·.sample == c.sample) (fun x => SampleCnt.mk x.sample (x.groups + c.groups) (x.sat + c.sat) (x.elems + c.elems)
      (x.spills + c.spills)) l
  else l ++ [c]

/-- The samples that a group counts for (R92). -/
def groupSamples (dim n : Nat) (every : Bool) (g : Grp) : List Nat :=
  if every then List.range n
  else if g.dim == dim then (List.range g.len).map (nth g.first dim 0 + ·) else [nth g.first dim 0]

/-- Attribute groups and spills to samples along dimension `dim` of an output of sizes `sz`, in a layer of `n` samples (R92). -/
def sampleCounts (dim n : Nat) (sz : List Nat) (e : Eff) (l : List SampleCnt) : List SampleCnt :=
  let every := nth sz dim 1 == 1 && n > 1
  let l := e.groups.foldl (fun l g =>
    (groupSamples dim n every g).foldl (fun l k => addCnt l ⟨k, 1, if g.sat then 1 else 0, 0, 0⟩) l) l
  e.spills.foldl (fun l (ix, k) =>
    (if every then List.range n else [nth ix dim 0]).foldl (fun l j => addCnt l ⟨j, 0, 0, 1, k⟩) l) l

/-- The watch's share of a macro-op's effects (R92, R110). -/
def watchEff (s : State) (x : Run) (e : Eff) : State :=
  let total (o : Nat) : Nat := sumNat ((e.cnt.filter (·.1 == o)).map (·.2))
  let sat := total oRGN_SAT_BLOCKS
  let spl := total oRGN_SPILLS
  let s := modPass s x.r.id (passOf s x.r x.i) fun w => { w with satBlocks := w.satBlocks + sat, spills := w.spills + spl }
  let va := if x.m.tdOut != 0 then x.m.tdOut else x.m.tdA
  if watched s x.p x.m && va != 0 then
    let dim := if x.m.lengths != 0 then 3 else vnat s x.p (x.m.layer + 3) 1
    let n := vnat s x.p (x.m.layer + 4) 4
    modLayer s x.r.id (layerOf s x.r x.i) fun w => { w with cnts := sampleCounts dim n (x.tns s va).sz e w.cnts }
  else s

/-- Count a finished group on the page of a region (R142). -/
def countGroup (s : State) (r : Nat) (g : Group) : State :=
  let s := bump (bump s (rgnPage r) oRGN_TILES g.tiles) (rgnPage r) oRGN_EDGE_TILES g.edges
  if dieOf r != g.die then bump s (rgnPage r) oRGN_TILES_FOREIGN g.tiles else s

/-- A cluster of region r takes a group: one of another die's queue is a steal from that die (R142). -/
def countTake (s : State) (r : Nat) (g : Group) : State := if dieOf r != g.die then bump s (pgDIE + g.die) oDIE_STEALS 1 else s

/-- The region that an untaken group is counted on: the lowest running region of its home die, or the lead region. -/
def groupRgn (s : State) (p : Nat) (g : Group) : Nat :=
  (((runRgns s p).find? fun r => dieOf r == g.die).or (leadRgn s p)).getD 0

/-- The entries that a macro-op has fetched into the catches serve it no longer (R234). -/
def dropKept (s : State) (req mop : Nat) : State :=
  { s with fab := { s.fab with
      kept := s.fab.kept.filter fun e => !(e.req == req && e.mop == mop)
      rgns := s.fab.rgns.map fun g => { g with saved := g.saved.map fun v =>
        { v with kept := v.kept.filter fun e => !(e.req == req && e.mop == mop) } } } }

/-- The commands have shown every K chunk of a product run, so that its uses of the catch are counted (R234, log 112). -/
def shownWhole (s : State) (x : Run) : Bool :=
  let mine (g : Group) : Bool := g.req == x.r.id && g.mop == x.i
  x.m.opcode ≤ 1 && x.st.queued && !s.fab.queue.any mine
    && (s.fab.held.filter fun h => mine h.group).all (fun h => s.fab.units.all fun u => u.unit / 16 != h.cluster || u.chunk ≥ u.chunks)
    && s.fab.rgns.all fun g => g.saved.all fun v => !v.held.any fun h => mine h.group

/-- The groups of a macro-op that has done its work leave the clusters and the queues. -/
def drainGroups (s : State) (x : Run) : State :=
  let mine (g : Group) : Bool := g.req == x.r.id && g.mop == x.i
  let s := forEach (s.fab.held.filter fun h => mine h.group) (fun s h => countGroup s (clusterRgn h.cluster) h.group) s
  let s := forEach (s.fab.queue.filter mine) (fun s g => countGroup (countTake s (groupRgn s x.p g) g) (groupRgn s x.p g) g) s
  let held := s.fab.held.filter fun h => !mine h.group
  { s with fab := { s.fab with held := held, units := busyUnits held s.fab.units, queue := s.fab.queue.filter fun g => !mine g } }

/-- A macro-op boundary of the partition's regions: their control registers are latched (R71, R159, R219, R247). -/
def latchRgns (s : State) (p : Nat) : State := forEach (partRgns s p) (fun s r => modRgn s r fun g => { g with latch := regLatch s r }) s

/-- Unit-queue macro-ops of a partition that hand out tiles or wait to. -/
def walking (s : State) (p : Nat) : Bool :=
  (reqsOf s p .admitted).any fun r => r.mops.any fun m =>
    m.stage == .granted && queueOf (mopOf s r m.idx).opcode == 0 && !tileless (mopOf s r m.idx).opcode

/-- Counters of a region whose increments placement, caches and corrected errors decide (R205, R243), those of the vector engine for opcodes whose instructions the spec
does not list, and those of the array for the attention gradients, whose cycles it gives as about 2.5 times those of attention (log 8). -/
def placeCounters (s : State) (x : Run) : List (Nat × Nat) :=
  let op := x.m.opcode
  ((runRgns s x.p).map fun r =>
    ([oRGN_BANK_WAITS, oRGN_WW_CONFLICTS, oRGN_ATOMICS, oRGN_ECC_CORR]
      ++ (if shownWhole s x then [] else [oRGN_CATCH_HITS, oRGN_CATCH_MISSES])
      ++ (if op ≥ 0x10 then [oRGN_SFT_ECC] else [])
      ++ (if op > 0x20 then [oRGN_VEC_BEATS, oRGN_VEC_WAITS] else [])
      ++ (if op == 0x32 || op == 0x3A then [oRGN_ARRAY_CYCLES] else [])).map fun o => (rgnPage r, o)).flatten

/-! ### Where the work ran (R71, R72, R219, R521). -/

/-- The regions that a macro-op may run on: those of its grant, or all of its partition's (R521). -/
def leaveRgns (s : State) (req mop p : Nat) : List Nat :=
  match s.power.leaves.find? fun l => l.req == req && l.mop == mop with
  | some l => if l.modwide then partRgns s p else l.got
  | none => partRgns s p

/-- Those of them that run. -/
def Run.rgns (s : State) (x : Run) : List Nat := (leaveRgns s x.r.id x.i x.p).filter fun r => (rgn s r).runs

/-- RGN_FMT_CTRL and RGN_SFT_CTRL as a region has latched them. -/
def fmtPair (s : State) (r : Nat) : Nat × Nat := ((rgn s r).latch.fmt, (rgn s r).latch.flush)

/-- The regions that run the macro-op have latched the same format controls as the lead region, as host software must see to (R71, R219). -/
def oneLatch (s : State) (x : Run) : Bool :=
  match leadRgn s x.p with
  | some l => (x.rgns s).all fun r => fmtPair s r == fmtPair s l
  | none => true

/-- The state in which the lead region has latched given format controls. -/
def underFmt (s : State) (p : Nat) (f : Nat × Nat) : State :=
  match leadRgn s p with
  | some l => modRgn s l fun g => { g with latch := { g.latch with fmt := f.1, flush := f.2 } }
  | none => s

/-- The work of regions that have latched different controls: which of them ran a tile is open, so each byte, group and spill is that of one
of the effects `es`, and each count lies between the least and the greatest (R71; log 94). -/
def mixEff (pick : Nat → Nat) (es : List Eff) : Eff :=
  match es with
  | [] => {}
  | e :: _ =>
    let of_ (k : Nat) : Eff := nth es (pick k % es.length) e
    let at_ (l : List (Nat × Nat)) (j : Nat) : Nat := (nth l j (0, 0)).2
    { bytes := (List.range e.bytes.length).zipWith (fun j b => nth (of_ (4 * j)).bytes j b) e.bytes
      groups := (List.range e.groups.length).zipWith (fun j b => nth (of_ (4 * j + 1)).groups j b) e.groups
      spills := (List.range e.spills.length).zipWith (fun j b => nth (of_ (4 * j + 2)).spills j b) e.spills
      cnt := (List.range e.cnt.length).zipWith (fun j b =>
        let ns := es.map fun x => at_ x.cnt j
        let lo := ns.foldl Nat.min b.2
        (b.1, lo + pick (4 * j + 3) % (maxNat ns - lo + 1))) e.cnt
      events := e.events }

/-- What a macro-op's work comes to: one of the units in the regions that run it. -/
def workIn (f : State → Run → Work) (s : State) (x : Run) : Work :=
  match f s x with
  | .eff e =>
    if queueOf x.m.opcode != 0 || oneLatch s x then .eff e
    else .eff (mixEff (fun j => takeFree s (2 ^ 32 + j)) ((((x.rgns s).map (fmtPair s)).eraseDups).filterMap fun l =>
      match f (underFmt s x.p l) x with
      | .eff e => some e
      | _ => none))
  | w => w

/-- Counters that the lead region keeps for its partition; every other one counts in the region that ran the tile (R72). -/
def leadCounts : List Nat := [oRGN_ATTN_MASKED, oRGN_ATTN_SLOTS, oRGN_DET_OVERFLOW]

/-- Parts of `n`, one for each of a list of regions: where the tiles ran is open, so each but the last is an open share of what is left. -/
def shares (pick : Nat → Nat) : List Nat → Nat → List (Nat × Nat)
  | [], _ => []
  | [r], n => [(r, n)]
  | r :: rs, n => (r, pick r % (n + 1)) :: shares pick rs (n - pick r % (n + 1))

/-- Count on the pages of the regions that ran a macro-op (R72, log 8): `k` tells the counts of one macro-op apart. -/
def bumpRan (s : State) (x : Run) (k off n : Nat) : State :=
  if leadCounts.contains off || (x.rgns s).isEmpty then bumpLead s x.p off n
  else forEach (shares (fun r => takeFree s (64 * k + r)) (x.rgns s) n) (fun s q => bump s (rgnPage q.1) off q.2) s

/-- The counts of a macro-op's work. -/
def countEff (s : State) (x : Run) (cnt : List (Nat × Nat)) : State :=
  forEach ((List.range cnt.length).zip cnt) (fun s (k, o, n) => bumpRan s x k o n) (bumpFree s)

/-- The macro-op has done its work. -/
def markWorked (s : State) (x : Run) : State :=
  let s := bumpOpen (trafficCounters ++ (if queueOf x.m.opcode == 0 then placeCounters s x else [])) (drainGroups s x)
  let s := if queueOf x.m.opcode == 0 then
      forEach (runRgns s x.p) (fun s r => modRgn s r fun g => { g with openSram := true }) s
    else s
  let s := modMop s x.r.id x.i fun st => { st with stage := .worked, memWait := none }
  if queueOf x.m.opcode == 0 && !tileless x.m.opcode && walking s x.p then latchRgns s x.p else s

/-- Macro-ops that change contexts, mappings, batches or tallies: run again, one that finds its change already made is done (R100, log 66). -/
def actsOnce (op : Nat) : Bool := op == 0x34 || queueOf op == 2 || queueOf op == 5

/-- Carry out what the work comes to. -/
def finish (s : State) (x : Run) (w : Work) : State :=
  match w with
  | .hold => s
  | .full => markWait s x.r.id x.i
  | .fail c => if x.st.redo && actsOnce x.m.opcode then markWorked s x else settle (refuse s x.r.id c x.m.opcode x.i)
  | .state s => markWorked s x
  | .eff e =>
    match vwrite s (some x.r.id) x.p e.bytes with
    | .full => markWait s x.r.id x.i
    | .bad => settle (refuse s x.r.id ⟨stDescriptor, inOut, 0⟩ x.m.opcode x.i)
    | .ok s =>
      let s := countEff s x e.cnt
      let s := forEach e.events (fun s n => raiseLead s x.p n) s
      markWorked (watchEff s x e) x

/-- The command of an opcode: the macro-op does its work when it can. -/
def work (ref : MopRef) (op : Nat) (sub : Nat → Bool) (f : State → Run → Work) (s : State) : Host.Outcome State Fault Refusal :=
  .next (match ready? s ref op sub with
    | some x => finish s x (workIn f s x)
    | none => s)

/-- SUBOP `n` alone. -/
def subIs (n : Nat) : Nat → Bool := fun k => k == n

end Sys2Proof.Machine
end

