-- ==== Sys2Proof/Machine/Vector.lean ====
section
/-! DEFINITION. The vector engine: opcodes 0x10-0x18, chain programs and reductions, their checks and their work (R39, R58, R130, R133,
R134, R149, R170-R185, R193, R204). -/

namespace Sys2Proof.Machine

/-! ### Checks of admission. -/

/-- Operands that stand in the element-wise column; only CONVERT takes KX3 and KT2 (R38). -/
def Env.elemTypes (e : Env) (m : Mop) : Option Check :=
  let ok (t : Nat) : Bool := if m.opcode == 0x10 then tyValid t else tyElem t
  firstBad [e.tyIn m m.tdOut inOut ok, e.tyIn m m.tdA inA ok, e.tyIn m m.tdB inB ok, e.tyIn m m.tdC inC ok]

/-- NARROW_A stands on matrix products alone (R79). -/
def noNarrow (m : Mop) : Option Check := need (!m.narrowA) (badDesc inMop 1)

/-- Operands of OUT's rank and sizes (R133). -/
def Env.likeOut (e : Env) (m : Mop) : Option Check :=
  firstBad [e.sameShape m m.tdA m.tdOut inA, e.sameShape m m.tdB m.tdOut inB, e.sameShape m m.tdC m.tdOut inC]

/-- The element-wise opcodes 0x10-0x16 (R130, R133). -/
def Env.elementwise (e : Env) (m : Mop) : Option Check :=
  let u (b : Bool) : Use := if b then .must else .no
  firstBad [
    e.form m { out := .must, a := u (m.opcode != 0x16), b := u (0x11 ≤ m.opcode && m.opcode ≤ 0x15), c := u (m.opcode == 0x13) } (· == 0)
      (if m.opcode == 0x16 then 4 else 0),
    noNarrow m, e.elemTypes m, e.plain m m.tdB inB, e.likeOut m]

/-- REDUCE (R134). -/
def Env.reduce (e : Env) (m : Mop) : Option Check :=
  let d := m.p 0 1
  firstBad [
    e.form m { out := .must, a := .must } (· < 4) 1, noNarrow m, e.elemTypes m,
    need (d < (e.tns m m.tdA).td.rank) (badDesc inMop 0x70),
    firstBad ((List.range 5).map fun k =>
      if k == d then need (nth (e.tns m m.tdOut).td.size k 0 == 1) (badDesc inOut (0x14 + 4 * k)) else e.sameSize m m.tdOut k m.tdA k inOut)]

/-- An instruction of a chain program (R176). -/
structure VInstr where
  op : Nat
  reserved : Nat
  src : List Nat
  imm : Nat
  deriving DecidableEq, Repr

/-- An instruction word. -/
def vInstr (w : Nat) : VInstr := ⟨bits w 31 26, bits w 25 24, [bits w 23 18, bits w 17 12, bits w 11 6], bits w 5 0⟩

/-- Sources, cycles per beat, latency and largest IMM of an operation; `none` is reserved (R176). -/
def vecSpec (op : Nat) : Option (Nat × Nat × Nat × Nat) :=
  match op with
  | 0x01 | 0x02 | 0x03 | 0x06 | 0x07 | 0x10 | 0x11 | 0x12 | 0x15 => some (2, 1, 4, 0)
  | 0x04 | 0x05 | 0x0B | 0x0C => some (3, 1, 4, 0)
  | 0x08 | 0x09 | 0x18 | 0x19 => some (1, 1, 4, 0)
  | 0x0A => some (2, 1, 4, 3)
  | 0x13 | 0x14 => some (1, 1, 4, 31)
  | 0x1A => some (1, 1, 6, 63)
  | 0x1B => some (2, 1, 6, 0)
  | 0x1C => some (2, 1, 6, 3)
  | 0x1D => some (2, 1, 4, 1)
  | 0x1E => some (1, 1, 4, 3)
  | 0x20 | 0x21 | 0x22 | 0x23 | 0x24 => some (1, 2, 8, 0)
  | _ => none

/-- The program at an address: constants and instructions (R181). -/
def chainProg (s : State) (p va : Nat) : List W32 × List VInstr :=
  ((List.range 16).map fun j => BitVec.ofNat 32 (vnat s p (va + 0x10 + 4 * j) 4),
    (List.range (vnat s p va 1)).map fun k => vInstr (vnat s p (va + 0x50 + 4 * k) 4))

/-- A partition has a committed user image (R204). -/
def hasUser (s : State) (p : Nat) : Bool := (userTab s p).committed.isSome

/-- Instruction `k` of a program with `nc` constants obeys R182. -/
def Env.vecInstr (e : Env) (m : Mop) (nc k : Nat) (i : VInstr) : Option Check :=
  let bad (o : Nat) : Option Check := badDesc inAux (0x50 + 4 * k + o)
  match vecSpec i.op with
  | none => bad 3
  | some (n, _, _, top) =>
    firstBad ([need (i.reserved == 0) (bad 3), need (i.op != 0x24 || hasUser e.s e.p) (bad 3)]
      ++ (List.range 3).map (fun j =>
        let c := nth i.src j 0
        need (if j ≥ n then c == 0
          else (c ≤ 8 || 0x0C ≤ c) && c < 0x20 && (c < 0x10 || c - 0x10 < nc) && !(1 ≤ c && c ≤ 4 && k < c)
            && (c != 5 || m.tdA != 0) && (c != 6 || m.tdB != 0) && (c != 7 || m.tdC != 0)) (bad (2 - j)))
      ++ [need (i.imm ≤ top) (bad 0)])

/-- CHAIN (R181, R182). -/
def Env.chain (e : Env) (m : Mop) : Option Check :=
  let prog : Option Check :=
    match e.ptr m.aux 64 0x50 inMop 0x48 with
    | some c => some c
    | none =>
      let h := vread e.s e.p m.aux 0x50
      let n := fld h 0 1
      let nc := fld h 1 1
      match firstBad ([need (1 ≤ n && n ≤ 64) (badDesc inAux 0), need (nc ≤ 16) (badDesc inAux 1), need (fld h 2 14 == 0) (badDesc inAux 2)]
          ++ (List.range 16).map (fun j => need (j < nc || fld h (0x10 + 4 * j) 4 == 0) (badDesc inAux (0x10 + 4 * j)))
          ++ [e.extent false m.aux (0x50 + 4 * n) inAux 0x50]) with
      | some c => some c
      | none => firstBad ((List.range n).map fun k => e.vecInstr m nc k (vInstr (vnat e.s e.p (m.aux + 0x50 + 4 * k) 4)))
  firstBad [
    e.form m { out := .must, a := .may, b := .may, c := .may, aux := .must } (· == 0) 16,
    noNarrow m, e.elemTypes m, e.plain m m.tdB inB, e.likeOut m, prog]

/-! ### Beats (R138, R170). -/

/-- In-bounds lines and length of every tile of an output, for one index of its outer dimensions. -/
def tileLines (sz : List Nat) : List (Nat × Nat) :=
  ((List.range (ceilDiv (nth sz 1 1) 128)).map fun t1 => (List.range (ceilDiv (nth sz 0 1) 128)).map fun t0 =>
    (Nat.min 128 (nth sz 1 1 - 128 * t1), Nat.min 128 (nth sz 0 1 - 128 * t0))).flatten

/-- Elements beyond dimensions 0 and 1. -/
def outerCount (sz : List Nat) : Nat := (sz.drop 2).foldl (· * ·) 1

/-- A sum over the tiles of an output. -/
def overTiles (sz : List Nat) (f : Nat → Nat → Nat) : Nat := sumNat ((tileLines sz).map fun (l, n) => f l n) * outerCount sz

/-- Beats of an output. -/
def beats (sz : List Nat) : Nat := overTiles sz fun l n => l * ceilDiv n 64

/-! ### Element-wise opcodes and reductions. -/

/-- Some element lies outside what the engine's 64-bit integers hold: the spec states no result there, and the value is free. -/
def int64 (s : State) (i : Nat) (v : Int) : Int :=
  if -(2 ^ 63) ≤ v && v < 2 ^ 63 then v else signed 64 (takeFree s (1000 + i) % 2 ^ 64)

/-- An element on its way into FP32 (R58). -/
def in32 (v : Num) : W32 := (cvtF32 v).1

/-- The integer form of an element-wise opcode (R133). -/
def intOp (op : Nat) (a b c : Int) : Int :=
  match op with
  | 0x11 => a + b
  | 0x12 => a * b
  | 0x13 => a * b + c
  | 0x14 => max a b
  | 0x15 => min a b
  | _ => a

/-- The FP32 form. -/
def f32Op (op : Nat) (a b c : W32) : W32 :=
  match op with
  | 0x11 => fAdd a b
  | 0x12 => fMul a b
  | 0x13 => fFma a b c
  | 0x14 => fMax a b
  | 0x15 => fMin a b
  | _ => a

/-- The tensors that a macro-op names among A, B and C, with their structures. -/
def Run.inputs (s : State) (x : Run) : List (Nat × Tns) :=
  ([(inA, x.m.tdA), (inB, x.m.tdB), (inC, x.m.tdC)].filter fun (_, va) => va != 0).map fun (k, va) => (k, x.tns s va)

/-- The work of an element-wise macro-op (R133, R183). -/
def elementWork (s : State) (x : Run) : Work :=
  let rd := rdr s x.p
  let c := x.fmt s
  let ins := x.inputs s
  match unmappedInput s x.p ins with
  | some e => .fail e
  | none =>
    let o := x.tns s x.m.tdOut
    let op := x.m.opcode
    let val (k : Nat) (ix : List Nat) : Num :=
      match ins.find? (·.1 == k) with
      | some (_, t) => (valAt c rd t ix).1
      | none => Num.zero
    let ints := op != 0x16 && tyInt o.td.ty && ins.all fun (_, t) => tyInt t.td.ty
    let f (ix : List Nat) : Num :=
      if op == 0x16 then f32 (BitVec.ofNat 32 (x.m.p 0 4))
      else if ints then Num.ofInt (intOp op (val inA ix).sig (val inB ix).sig (val inC ix).sig)
      else if op == 0x10 && o.td.ty == tyFP32 then val inA ix
      else f32 (f32Op op (in32 (val inA ix)) (in32 (val inB ix)) (in32 (val inC ix)))
    .eff (((writeTensor c o f).eff).count (readCnt c rd (ins.map (·.2))
      ++ [(oRGN_VEC_BEATS, if op == 0x10 || op == 0x16 then 0 else beats o.sz)]))

/-- CONVERT: OUT = A in OUT's type. -/
def execConvert (m : MopRef) (s : State) : Host.Outcome State Fault Refusal := work m 0x10 (subIs 0) elementWork s
/-- ADD: OUT = A + B. -/
def execAdd (m : MopRef) (s : State) : Host.Outcome State Fault Refusal := work m 0x11 (subIs 0) elementWork s
/-- MUL: OUT = A × B. -/
def execMul (m : MopRef) (s : State) : Host.Outcome State Fault Refusal := work m 0x12 (subIs 0) elementWork s
/-- FMA: OUT = A × B + C. -/
def execFma (m : MopRef) (s : State) : Host.Outcome State Fault Refusal := work m 0x13 (subIs 0) elementWork s
/-- MAX: OUT = max(A, B). -/
def execMax (m : MopRef) (s : State) : Host.Outcome State Fault Refusal := work m 0x14 (subIs 0) elementWork s
/-- MIN: OUT = min(A, B). -/
def execMin (m : MopRef) (s : State) : Host.Outcome State Fault Refusal := work m 0x15 (subIs 0) elementWork s
/-- FILL: OUT = PARAM[3:0] as FP32. -/
def execFill (m : MopRef) (s : State) : Host.Outcome State Fault Refusal := work m 0x16 (subIs 0) elementWork s

/-- One line reduced in 64-bit integers (R184). -/
def reduceInt (s : State) (i how : Nat) (vs : List Int) : Int :=
  match how, vs with
  | 3, _ => vs.foldl (fun a v => int64 s i (a + v * v)) 0
  | _, [] => 0
  | 0, v :: vs => vs.foldl (fun a v => int64 s i (a + v)) v
  | 1, v :: vs => vs.foldl max v
  | _, v :: vs => vs.foldl min v

/-- One line reduced in FP32 (R184). -/
def reduceF32 (how : Nat) (vs : List W32) : W32 :=
  match how, vs with
  | 3, _ => vs.foldl (fun a v => fFma v v a) 0
  | _, [] => 0
  | 0, v :: vs => vs.foldl fAdd v
  | 1, v :: vs => vs.foldl fMax v
  | _, v :: vs => vs.foldl fMin v

/-- The work of a REDUCE along dimension PARAM[0] (R134, R184). -/
def reduceWork (s : State) (x : Run) : Work :=
  let rd := rdr s x.p
  let c := x.fmt s
  let a := x.tns s x.m.tdA
  match unmappedInput s x.p [(inA, a)] with
  | some e => .fail e
  | none =>
    let o := x.tns s x.m.tdOut
    let d := x.m.p 0 1
    let how := x.m.subop
    let ints := tyInt a.td.ty && tyInt o.td.ty
    let line (ix : List Nat) : List Num := (List.range (a.dim d)).map fun k => (valAt c rd a (setNth ix d k)).1
    let f (ix : List Nat) : Num :=
      if ints then Num.ofInt (reduceInt s (linear o.sz ix) how ((line ix).map Num.sig)) else f32 (reduceF32 how ((line ix).map in32))
    .eff (((writeTensor c o f).eff).count (readCnt c rd [a]
      ++ [(oRGN_VEC_BEATS, overTiles o.sz fun l n => ceilDiv (l * n * a.dim d) 64 * (if ints then 2 else 1))]))

/-- REDUCE, sum. -/
def execReduceSum (m : MopRef) (s : State) : Host.Outcome State Fault Refusal := work m 0x17 (subIs 0) reduceWork s
/-- REDUCE, maximum. -/
def execReduceMax (m : MopRef) (s : State) : Host.Outcome State Fault Refusal := work m 0x17 (subIs 1) reduceWork s
/-- REDUCE, minimum. -/
def execReduceMin (m : MopRef) (s : State) : Host.Outcome State Fault Refusal := work m 0x17 (subIs 2) reduceWork s
/-- REDUCE, sum of squares. -/
def execReduceSumSquares (m : MopRef) (s : State) : Host.Outcome State Fault Refusal := work m 0x17 (subIs 3) reduceWork s

/-! ### Chain programs. -/

/-- What one instruction gives for the 64 lanes of a beat: bits, lanes that saturate, NaN made integers, and flushed results. -/
structure LaneRes where
  bits : List W32
  sat : List Bool := []
  nan : List Bool := []
  flushed : List Bool := []
  deriving DecidableEq, Repr

/-- The special functions as a macro-op has them: FLUSH_T, the user table it reads, and the firmware image whose fixed tables are in force
(R196). -/
structure SfCtx where
  flushT : W32
  user : Bytes
  fw : Bytes := []
  deriving DecidableEq, Repr

/-- A special function by its number 0-4. -/
def SfCtx.eval (k : SfCtx) (n : Nat) (bf16 : Bool) (v : W32) : SfRes :=
  match n with
  | 0 => if bf16 then Sfn.exp2.evalBf16 k.flushT v else Sfn.exp2.eval k.fw k.flushT v
  | 1 => if bf16 then Sfn.log2.evalBf16 k.flushT v else Sfn.log2.eval k.fw k.flushT v
  | 2 => if bf16 then Sfn.rcp.evalBf16 k.flushT v else Sfn.rcp.eval k.fw k.flushT v
  | 3 => if bf16 then Sfn.rsqrt.evalBf16 k.flushT v else Sfn.rsqrt.eval k.fw k.flushT v
  | _ => userEval k.user k.flushT v

/-- All ones or zero. -/
def maskIf (b : Bool) : W32 := if b then 0xFFFFFFFF else 0

/-- A half of PACK: the code, and whether it saturates. -/
def packHalf (f : FFmt) (v : W32) : Nat × Bool := f.encode true (f32 v)

/-- One operation over the lanes (R176-R178). -/
def vecOp (k : SfCtx) (bf16 : Bool) (op imm : Nat) (s0 s1 s2 : List W32) : LaneRes :=
  let at_ (l : List W32) (i : Nat) : W32 := nth l i 0
  let each (f : W32 → W32 → W32 → W32) : LaneRes := { bits := (List.range 64).map fun i => f (at_ s0 i) (at_ s1 i) (at_ s2 i) }
  let move (f : Nat → W32) : LaneRes := { bits := (List.range 64).map f }
  match op with
  | 0x01 => each fun a b _ => fAdd a b
  | 0x02 => each fun a b _ => fSub a b
  | 0x03 => each fun a b _ => fMul a b
  | 0x04 => each fFma
  | 0x05 => each fFnma
  | 0x06 => each fun a b _ => fMin a b
  | 0x07 => each fun a b _ => fMax a b
  | 0x08 => each fun a _ _ => fAbs a
  | 0x09 => each fun a _ _ => fNeg a
  | 0x0A => each fun a b _ => maskIf (fCmp imm a b)
  | 0x0B => each fun a b c => if c != 0 then a else b
  | 0x0C => each fun a b c => fMin (fMax a b) c
  | 0x10 => each fun a b _ => a &&& b
  | 0x11 => each fun a b _ => a ||| b
  | 0x12 => each fun a b _ => a ^^^ b
  | 0x13 => each fun a _ _ => a <<< imm
  | 0x14 => each fun a _ _ => a >>> imm
  | 0x15 => each fun a b _ => a + b
  | 0x18 =>
    let rs := s0.map fun a => scalarCode tyINT32 (f32 a)
    { bits := rs.map fun r => BitVec.ofNat 32 r.1, sat := rs.map fun r => r.2.1, nan := rs.map fun r => r.2.2 }
  | 0x19 => each fun a _ _ => toF32 (.ofInt (signed 32 a.toNat))
  | 0x1A => move fun i => at_ s0 ((i + imm) % 64)
  | 0x1B => move fun i => at_ s0 ((at_ s1 i).toNat % 64)
  | 0x1C => move fun i =>
      if imm < 2 then at_ (if i % 2 == 0 then s0 else s1) (32 * imm + i / 2)
      else at_ (if i < 32 then s0 else s1) (2 * (i % 32) + (imm - 2))
  | 0x1D =>
    let f := if imm == 1 then FFmt.fp16 else FFmt.bf16
    let rs := List.zipWith (fun a b => (packHalf f a, packHalf f b)) s0 s1
    { bits := rs.map fun r => BitVec.ofNat 32 (r.1.1 + r.2.1 * 65536), sat := rs.map fun r => r.1.2 || r.2.2 }
  | 0x1E => each fun a _ _ =>
      toF32 ((if imm ≥ 2 then FFmt.fp16 else FFmt.bf16).decode (if imm % 2 == 1 then a.toNat / 65536 else a.toNat % 65536))
  | _ =>
    let rs := s0.map fun a => k.eval (op - 0x20) bf16 a
    { bits := rs.map fun r => r.code, flushed := rs.map fun r => r.flushed }

/-- What a beat adds to the counters and its result. -/
structure BeatRes where
  out : List W32
  sf : Nat := 0
  flushes : Nat := 0
  nan : Nat := 0
  /-- halves in which an element saturates, each once (R602) -/
  halves : List Nat := []
  deriving DecidableEq, Repr

/-- Run a program over one beat: `env` gives the lanes of a source other than the hod, `n` lanes lie within the size (R170, R172, R176). -/
def runBeat (k : SfCtx) (bf16 : Bool) (n : Nat) (env : Nat → List W32) (prog : List VInstr) : BeatRes :=
  let last := prog.length - 1
  let step (acc : List (List W32) × BeatRes) (ki : Nat × VInstr) : List (List W32) × BeatRes :=
    let (hod, r) := acc
    let (j, i) := ki
    let src (q : Nat) : List W32 := let c := nth i.src q 0; if 1 ≤ c && c ≤ 4 then nth hod (c - 1) [] else env c
    let l := vecOp k (bf16 && j == last) i.op i.imm (src 0) (src 1) (src 2)
    let inN (b : List Bool) : Nat := ((b.take n).filter id).length
    let half (h : Nat) : Bool := (((l.sat.take n).drop (32 * h)).take 32).any id
    (l.bits :: hod.take 3,
      { out := l.bits, sf := r.sf + (if i.op ≥ 0x20 then n else 0), flushes := r.flushes + inN l.flushed, nan := r.nan + inN l.nan,
        halves := [0, 1].filter fun h => r.halves.contains h || half h })
  (((List.range prog.length).zip prog).foldl step ([], { out := [] })).2

/-- Cycles that a run of `b` beats waits for latencies (R179). -/
def runWaits (prog : List VInstr) (b : Nat) : Nat :=
  let spec (i : VInstr) : Nat × Nat := match vecSpec i.op with | some (_, c, l, _) => (c, l) | none => (1, 4)
  -- starts of the instructions so far, newest first, with their latencies; the end of the last; the waits
  let step (acc : List (Nat × Nat) × Nat × Nat) (i : VInstr) : List (Nat × Nat) × Nat × Nat :=
    let (starts, fin, w) := acc
    let nsrc := match vecSpec i.op with | some (n, _, _, _) => n | none => 0
    let needs := (i.src.take nsrc).filterMap fun c => if 1 ≤ c && c ≤ 4 then (starts[c - 1]?).map fun (t, l) => t + l else none
    let start := Nat.max fin (maxNat needs)
    ((start, (spec i).2) :: starts, start + b * (spec i).1, w + (start - fin))
  if b == 0 then 0 else (prog.foldl step ([], 0, 0)).2.2

/-- An element as a stream returns it: the raw bits of INT32, FP32 of every other type (R173). -/
def streamElem (c : FmtCtl) (rd : Reader) (t : Tns) (ix : List Nat) : W32 :=
  let v := (valAt c rd t ix).1
  if t.td.ty == tyINT32 then BitVec.ofInt 32 v.sig else in32 v

/-- The lanes of a stream for the beat at `j` of a line: raw bits of INT32, FP32 of every other type; one element for all lanes where
the stride along dimension 0 is 0; +0 beyond the size (R170, R173, R175). -/
def streamLanes (c : FmtCtl) (rd : Reader) (t : Tns) (len j : Nat) (rest : List Nat) : List W32 :=
  let el (i : Nat) : W32 := streamElem c rd t (i :: rest)
  if nth t.td.stride 0 0 == 0 then List.replicate 64 (el j)
  else (List.range 64).map fun i => if j + i < len then el (j + i) else 0

/-- The special functions of a running macro-op. -/
def Run.sf (s : State) (x : Run) : SfCtx := ⟨x.flushT s, (userTable s x.p x.r.id x.i).getD [], s.boot.fw.bodyHash⟩

/-- The work of a CHAIN (R170-R182, R193). -/
def chainWork (s : State) (x : Run) : Work :=
  let rd := rdr s x.p
  let c := x.fmt s
  let ins := x.inputs s
  match (unmappedInput s x.p ins).or (unmappedRange s x.p [(inAux, x.m.aux, 0x50 + 4 * vnat s x.p x.m.aux 1)]) with
  | some e => .fail e
  | none =>
    let o := x.tns s x.m.tdOut
    let (ks, prog) := chainProg s x.p x.m.aux
    let len := nth o.sz 0 1
    let lines := indices (o.sz.drop 1)
    let starts := (List.range (ceilDiv len 64)).map (64 * ·)
    let env (j : Nat) (rest : List Nat) (code : Nat) : List W32 :=
      if 5 ≤ code && code ≤ 7 then
        (match ins.find? (·.1 == code - 3) with
          | some (_, t) => streamLanes c rd t len j rest
          | none => [])
      else if code == 8 then (List.range 64).map fun i => BitVec.ofNat 32 (j + i)
      else if 0x0C ≤ code && code < 0x10 then List.replicate 64 (BitVec.ofNat 32 (x.m.p (4 * (code - 0x0C)) 4))
      else if 0x10 ≤ code then List.replicate 64 (nth ks (code - 0x10) 0)
      else List.replicate 64 0
    let res := (lines.map fun rest => starts.map fun j =>
      (j, rest, runBeat (x.sf s) (o.td.ty == tyBF16) (Nat.min 64 (len - j)) (env j rest) prog)).flatten
    let table := (res.map fun (j, _, b) => b.out.take (Nat.min 64 (len - j))).flatten
    let f (ix : List Nat) : Num :=
      let w := nth table (linear o.sz ix) 0
      if o.td.ty == tyINT32 then Num.ofInt (signed 32 w.toNat) else f32 w
    let w := writeTensor c o f
    let hit := (res.map fun (j, rest, b) => b.halves.map fun h => (j + 32 * h) :: rest).flatten
    -- a half is OUT's own group where OUT's groups run along dimension 0 (R602); elsewhere it stands beside them
    let own (g : Grp) : Bool := g.dim == 0
    let beside := hit.filter fun h => !w.groups.any fun g => own g && g.first == h
    let waits := overTiles o.sz fun l n => runWaits prog (l * ceilDiv n 64 % 8)
    let cnt : List (Nat × Nat) := [
      (oRGN_SAT_BLOCKS, (hit.filter fun h => !w.groups.any fun g => own g && g.sat && g.first == h).length), (oRGN_SPECIAL_IN, sumNat (res.map fun (_, _, b) => b.nan)),
      (oRGN_SF_RESULTS, sumNat (res.map fun (_, _, b) => b.sf)), (oRGN_SF_FLUSHES, sumNat (res.map fun (_, _, b) => b.flushes)),
      (oRGN_VEC_BEATS, beats o.sz * prog.length), (oRGN_VEC_WAITS, waits)]
    let e := w.eff.count (readCnt c rd (ins.map (·.2)) ++ cnt)
    .eff { e with groups := (e.groups.map fun g => { g with sat := g.sat || (own g && hit.contains g.first) })
      ++ beside.map fun h => { first := h, dim := 0, len := Nat.min 32 (len - h.headD 0), sat := true } }

/-- CHAIN: a vector chain program at AUX_PTR over A, B and C. -/
def execChain (m : MopRef) (s : State) : Host.Outcome State Fault Refusal := work m 0x18 (subIs 0) chainWork s

end Sys2Proof.Machine
end

