-- ==== Sys2Proof/Machine/RowOps.lean ====
section
/-! DEFINITION. SFN and the row operations 0x21-0x27: soft maximum, its statistics, and normalisation (R191-R193, R206-R218). -/

namespace Sys2Proof.Machine

/-! ### Checks of admission. -/

/-- SFN (R204, R206). -/
def Env.sfn (e : Env) (m : Mop) : Option Check :=
  firstBad [
    e.form m { out := .must, a := .must } (fun n => n < 4 || (n == 4 && hasUser e.s e.p)) 0,
    noNarrow m, e.elemTypes m, e.likeOut m]

/-- OUT or B holds a line's statistics: FP32, dimension 0 of size 2, every other size A's (R207). -/
def Env.statsTd (e : Env) (m : Mop) (va struct : Nat) : Option Check :=
  let t := (e.tns m va).td
  firstBad ([need (t.ty == tyFP32) (badDesc struct 0x10), need (nth t.size 0 0 == 2) (badDesc struct 0x14)]
    ++ [1, 2, 3, 4].map fun d => e.sameSize m va d m.tdA d struct)

/-- γ or β: OUT's rank and sizes, stride 0 on dimensions 1-4 (R207). -/
def Env.normParam (e : Env) (m : Mop) (va struct : Nat) : Option Check :=
  if va == 0 then none
  else
    firstBad (e.sameShape m va m.tdOut struct
      :: [1, 2, 3, 4].map fun d => need (nth (e.tns m va).td.stride d 0 == 0) (badDesc struct (0x28 + 4 * d)))

/-- An FP32 value that is finite and at least +0. -/
def atLeastZero (v : Nat) : Bool :=
  match FFmt.fp32.decode v with
  | .num n _ _ => !n
  | _ => false

/-- The row operations (R207). -/
def Env.rowOp (e : Env) (m : Mop) : Option Check :=
  let op := m.opcode
  let u (b : Bool) (k : Use) : Use := if b then k else .no
  let a := e.tns m m.tdA
  let v := m.p 0 4
  firstBad [
    e.form m { out := .must, a := .must, b := if op == 0x23 || op == 0x24 then .must else u (op == 0x25 || op == 0x26) .may, c := u (op == 0x25) .may }
      (fun n => n == 0 || (op == 0x27 && n == 1)) 4,
    noNarrow m, e.allPlain m, e.elemTypes m,
    need (if op ≤ 0x24 then posFinite v else op == 0x27 || atLeastZero v) (badDesc inMop 0x70),
    need (nth a.cap 0 1 ≤ 2 ^ 20) (badDesc inA 0x14),
    if op == 0x22 || op == 0x23 || op == 0x27 then e.statsTd m m.tdOut inOut else e.sameShape m m.tdOut m.tdA inOut,
    if op == 0x23 then firstBad [need (nth a.td.size 0 0 == 2) (badDesc inA 0x14), e.sameShape m m.tdB m.tdA inB] else none,
    if op == 0x24 then e.statsTd m m.tdB inB else none,
    if op ≥ 0x25 then firstBad [e.normParam m m.tdB inB, e.normParam m m.tdC inC] else none]

/-- An opcode that runs in two sweeps (R208). -/
def twoSweeps (op : Nat) : Bool := op == 0x21 || op == 0x22 || (0x25 ≤ op && op ≤ 0x27)

/-- Bytes of the statistics area of a macro-op, at the largest bucket (R209). -/
def statsArea (s : State) (p : Nat) (m : Mop) : Nat :=
  if twoSweeps m.opcode then
    let c := largestBuckets (planOf s p m)
    let a := tensor s p m.tdA c c
    8 * ceilDiv (nth a.cap 0 1) 128 * (a.cap.drop 1).foldl (· * ·) 1
  else 0

/-! ### SFN. -/

/-- A table of results, the output's elements in linear order, with the special-function results formed. -/
structure RowTab where
  out : List W32
  log : List SfRes
  deriving DecidableEq, Repr

/-- The effects of writing a table. -/
def RowTab.eff (t : RowTab) (c : FmtCtl) (o : Tns) : Eff :=
  (writeTensor c o fun ix => f32 (nth t.out (linear o.sz ix) 0)).eff.count
    [(oRGN_SF_RESULTS, t.log.length), (oRGN_SF_FLUSHES, (t.log.filter (·.flushed)).length)]

/-- The work of SFN: a chain of one instruction (R193, R206). -/
def sfnWork (s : State) (x : Run) : Work :=
  let rd := rdr s x.p
  let c := x.fmt s
  let a := x.tns s x.m.tdA
  match unmappedInput s x.p [(inA, a)] with
  | some e => .fail e
  | none =>
    let o := x.tns s x.m.tdOut
    let rs := (indices o.sz).map fun ix => (x.sf s).eval x.m.subop (o.td.ty == tyBF16) (streamElem c rd a ix)
    let t : RowTab := { out := rs.map SfRes.code, log := rs }
    -- an INT32 output takes the raw bits (R174)
    let w := if o.td.ty == tyINT32 then
        (writeTensor c o fun ix => Num.ofInt (signed 32 (nth t.out (linear o.sz ix) 0).toNat)).eff.count
          [(oRGN_SF_RESULTS, t.log.length), (oRGN_SF_FLUSHES, (t.log.filter (·.flushed)).length)]
      else t.eff c o
    .eff (w.count (readCnt c rd [a] ++ [(oRGN_VEC_BEATS, beats o.sz)]))

/-- SFN, EXP2. -/
def execSfnExp2 (m : MopRef) (s : State) : Host.Outcome State Fault Refusal := work m 0x20 (subIs 0) sfnWork s
/-- SFN, LOG2. -/
def execSfnLog2 (m : MopRef) (s : State) : Host.Outcome State Fault Refusal := work m 0x20 (subIs 1) sfnWork s
/-- SFN, RCP. -/
def execSfnRcp (m : MopRef) (s : State) : Host.Outcome State Fault Refusal := work m 0x20 (subIs 2) sfnWork s
/-- SFN, RSQRT. -/
def execSfnRsqrt (m : MopRef) (s : State) : Host.Outcome State Fault Refusal := work m 0x20 (subIs 3) sfnWork s
/-- SFN, USER. -/
def execSfnUser (m : MopRef) (s : State) : Host.Outcome State Fault Refusal := work m 0x20 (subIs 4) sfnWork s

/-! ### The soft maximum (R211-R214). -/

/-- Negative infinity. -/
abbrev negInf32 : W32 := 0xFF800000

/-- The special functions, logged. -/
def SfCtx.exp2 (k : SfCtx) (v : W32) : SfRes := k.eval 0 false v
def SfCtx.rcp (k : SfCtx) (v : W32) : SfRes := k.eval 2 false v
def SfCtx.rsqrt (k : SfCtx) (v : W32) : SfRes := k.eval 3 false v

/-- The statistics of a line or partial: (m, l), or (μ, M2), or (s, 0). -/
structure Stat where
  m : W32
  l : W32
  deriving DecidableEq, Repr

/-- The empty partial (R210). -/
def Stat.none_ : Stat := ⟨negInf32, 0⟩
def Stat.isNone (a : Stat) : Bool := a.m == negInf32 && a.l &&& 0x7FFFFFFF == 0

/-- EXP2(S2 × (x − m)), each step rounded (R211). -/
def SfCtx.weight (k : SfCtx) (s2 m x : W32) : SfRes := k.exp2 (fMul s2 (fSub x m))

/-- The partial of one tile's positions of a line (R211). Positions that are all −∞ have the statistics that R214 gives a line. -/
def softPart (k : SfCtx) (s2 : W32) (xs : List W32) : Stat × List SfRes :=
  let m := reduceF32 1 xs
  let es := xs.map (k.weight s2 m)
  if xs.isEmpty || m == negInf32 then (.none_, es) else (⟨m, reduceF32 0 (es.map SfRes.code)⟩, es)

/-- The factors by which two partials that are not empty merge (R212): the common maximum and alpha of each. -/
def mergeAlphas (k : SfCtx) (s2 : W32) (a b : Stat) : W32 × SfRes × SfRes :=
  let m := fMax a.m b.m
  (m, k.weight s2 m a.m, k.weight s2 m b.m)

/-- Merge two partials, `a` first (R212). -/
def mergeStat (k : SfCtx) (s2 : W32) (a b : Stat) : Stat × List SfRes :=
  if a.isNone then (b, [])
  else if b.isNone then (a, [])
  else
    let (m, x, y) := mergeAlphas k s2 a b
    (⟨m, fFma b.l y.code (fMul a.l x.code)⟩, [x, y])

/-- Merge partials in order, beginning from the empty partial. -/
def mergeStats (k : SfCtx) (s2 : W32) (ps : List Stat) : Stat × List SfRes :=
  ps.foldl (fun (a, log) b => let (r, l) := mergeStat k s2 a b; (r, log ++ l)) (.none_, [])

/-- Pieces of `n` positions. -/
def piecesOf (n : Nat) (xs : List W32) : List (List W32) := (List.range (ceilDiv xs.length n)).map fun t => (xs.drop (n * t)).take n

/-- A line holds a NaN or +∞ (R214). -/
def softBad (xs : List W32) : Bool := xs.any fun x => match f32 x with | .nan => true | .inf n => !n | _ => false

/-- Statistics of a line (R212, R214), what sweep 1 forms and what each merge of the partials forms. -/
def softStats (k : SfCtx) (s2 : W32) (xs : List W32) : Stat × List SfRes × List SfRes :=
  let ps := (piecesOf 128 xs).map (softPart k s2)
  let (st, ml) := mergeStats k s2 (ps.map (·.1))
  (if softBad xs then ⟨nan32, nan32⟩ else st, (ps.map (·.2)).flatten, ml)

/-- The outputs of a line under statistics, and what a tile's RCP and each position's EXP2 form (R213, R214). -/
def softApply (k : SfCtx) (s2 : W32) (st : Stat) (xs : List W32) : List W32 × SfRes × List SfRes :=
  let r := k.rcp st.l
  let es := xs.map (k.weight s2 st.m)
  let ys :=
    if softBad xs then xs.map fun _ => nan32
    else if xs.all (· == negInf32) then xs.map fun _ => (0 : W32)
    else es.map fun e => fMul e.code r.code
  (ys, r, es)

/-- A log repeated `n` times. -/
def times {α : Type} (n : Nat) (l : List α) : List α := (List.replicate n l).flatten

/-! ### Normalisation (R215, R216). -/

/-- A partial of layer normalisation: count, mean, sum of squared deviations. -/
structure LnPart where
  c : Nat
  mu : W32
  m2 : W32
  deriving DecidableEq, Repr

/-- An integer as FP32. -/
def ofCount (n : Nat) : W32 := toF32 (.ofInt n)

/-- The partial of one tile's positions (R215). -/
def lnPart (k : SfCtx) (xs : List W32) : LnPart × List SfRes :=
  let r := k.rcp (ofCount xs.length)
  let mu := fMul (reduceF32 0 xs) r.code
  (⟨xs.length, mu, xs.foldl (fun a x => let d := fSub x mu; fFma d d a) 0⟩, [r])

/-- Merge two, `a` first: each line of R215 is one rounding of its exact value. -/
def lnMerge (k : SfCtx) (a b : LnPart) : LnPart × List SfRes :=
  if a.c == 0 then (b, [])
  else if b.c == 0 then (a, [])
  else
    let c := a.c + b.c
    let r := k.rcp (ofCount c)
    let d := fSub b.mu a.mu
    let mu := toF32 ((f32 a.mu).add ((f32 d).mul ((Num.ofInt b.c).mul (f32 r.code))))
    let q := ((f32 d).mul (f32 d)).mul ((Num.ofInt ((a.c * b.c : Nat) : Int)).mul (f32 r.code))
    (⟨c, mu, toF32 (((f32 a.m2).add (f32 b.m2)).add q)⟩, [r, r])

/-- Mean and variance, or mean square and 0, of a line, with what sweep 1 forms and what each merge of the partials forms. -/
def normStats (k : SfCtx) (rms : Bool) (xs : List W32) : Stat × List SfRes × List SfRes :=
  let rn := k.rcp (ofCount xs.length)
  if rms then
    let parts := (piecesOf 128 xs).map (reduceF32 3)
    (⟨fMul (reduceF32 0 parts) rn.code, 0⟩, [], [rn])
  else
    let parts := (piecesOf 128 xs).map (lnPart k)
    let (p, ml) := (parts.map (·.1)).foldl (fun (a, log) b => let (r, l) := lnMerge k a b; (r, log ++ l)) (⟨0, 0, 0⟩, [])
    (⟨p.mu, fMul p.m2 rn.code⟩, (parts.map (·.2)).flatten, ml ++ [rn])

/-- The outputs of a line: γ and β by position (R216). -/
def normApply (k : SfCtx) (rms : Bool) (eps : W32) (st : Stat) (xs gs bs : List W32) : List W32 × List SfRes :=
  let v := fAdd (if rms then st.m else st.l) eps
  let g := k.rsqrt v
  if v == 0 then (if rms then xs.map fun _ => (0 : W32) else bs, [])
  else if rms then (List.zipWith (fun x γ => fMul (fMul x g.code) γ) xs gs, [g])
  else ((List.range xs.length).map fun i => fFma (fMul (fSub (nth xs i 0) st.m) g.code) (nth gs i 0) (nth bs i 0), [g])

/-! ### The work. -/

/-- A line of a tensor in FP32. -/
def lineOf (c : FmtCtl) (rd : Reader) (t : Tns) (rest : List Nat) : List W32 :=
  (List.range (t.dim 0)).map fun i => in32 (valAt c rd t (i :: rest)).1

/-- One line of a row operation: the line of A, of B and of C where they are named. Each tile of sweep 2 merges the partials again. -/
def rowLine (k : SfCtx) (op sub : Nat) (v : W32) (xs : List W32) (bs cs : Option (List W32)) : RowTab :=
  let tiles := ceilDiv xs.length 128
  let pair (l : List W32) : Stat := ⟨nth l 0 0, nth l 1 0⟩
  match op with
  | 0x21 =>
    let (st, l1, lm) := softStats k v xs
    let (ys, r, l2) := softApply k v st xs
    ⟨ys, l1 ++ times tiles (lm ++ [r]) ++ l2⟩
  | 0x22 =>
    let (st, l1, lm) := softStats k v xs
    ⟨[st.m, st.l], l1 ++ lm⟩
  | 0x23 =>
    let (st, lm) := mergeStat k v (pair xs) (pair (bs.getD []))
    ⟨[st.m, st.l], lm⟩
  | 0x24 =>
    let (ys, r, l2) := softApply k v (pair (bs.getD [])) xs
    ⟨ys, times tiles [r] ++ l2⟩
  | 0x27 =>
    let (st, l1, lm) := normStats k (sub == 1) xs
    ⟨[st.m, st.l], l1 ++ lm⟩
  | _ =>
    let rms := op == 0x26
    let (st, l1, lm) := normStats k rms xs
    let (ys, lg) := normApply k rms v st xs (bs.getD (xs.map fun _ => (0x3F800000 : W32))) (cs.getD (xs.map fun _ => (0 : W32)))
    ⟨ys, l1 ++ times tiles (lm ++ lg)⟩

/-- The work of a row operation. -/
def rowWork (s : State) (x : Run) : Work :=
  let rd := rdr s x.p
  let c := x.fmt s
  let ins := x.inputs s
  match unmappedInput s x.p ins with
  | some e => .fail e
  | none =>
    let o := x.tns s x.m.tdOut
    let a := x.tns s x.m.tdA
    let get (k : Nat) (rest : List Nat) : Option (List W32) := (ins.find? (·.1 == k)).map fun (_, t) => lineOf c rd t rest
    let rows := (indices (a.sz.drop 1)).map fun rest =>
      rowLine (x.sf s) x.m.opcode x.m.subop (BitVec.ofNat 32 (x.m.p 0 4)) (lineOf c rd a rest) (get inB rest) (get inC rest)
    let t : RowTab := ⟨(rows.map RowTab.out).flatten, (rows.map RowTab.log).flatten⟩
    .eff ((t.eff c o).count (readCnt c rd (ins.map (·.2))))

/-- SOFTMAX along dimension 0. -/
def execSoftmax (m : MopRef) (s : State) : Host.Outcome State Fault Refusal := work m 0x21 (subIs 0) rowWork s
/-- SOFTMAX_STATS: each line's (m, l). -/
def execSoftmaxStats (m : MopRef) (s : State) : Host.Outcome State Fault Refusal := work m 0x22 (subIs 0) rowWork s
/-- STATS_MERGE: the merge of the statistics A and B. -/
def execStatsMerge (m : MopRef) (s : State) : Host.Outcome State Fault Refusal := work m 0x23 (subIs 0) rowWork s
/-- SOFTMAX_APPLY: soft maximum of A under the statistics B. -/
def execSoftmaxApply (m : MopRef) (s : State) : Host.Outcome State Fault Refusal := work m 0x24 (subIs 0) rowWork s
/-- LAYERNORM along dimension 0. -/
def execLayernorm (m : MopRef) (s : State) : Host.Outcome State Fault Refusal := work m 0x25 (subIs 0) rowWork s
/-- RMSNORM along dimension 0. -/
def execRmsnorm (m : MopRef) (s : State) : Host.Outcome State Fault Refusal := work m 0x26 (subIs 0) rowWork s
/-- NORM_STATS, layer: (μ, σ²). -/
def execNormStatsLayer (m : MopRef) (s : State) : Host.Outcome State Fault Refusal := work m 0x27 (subIs 0) rowWork s
/-- NORM_STATS, RMS: (q, 0). -/
def execNormStatsRms (m : MopRef) (s : State) : Host.Outcome State Fault Refusal := work m 0x27 (subIs 1) rowWork s

end Sys2Proof.Machine
end

