-- ==== Sys2Proof/Machine/Contexts.lean ====
section
/-! DEFINITION. CTX: opening, resizing, filling and closing sequence contexts (R281-R289, R604), and the checks of attention records and
lengths tables at admission (R292, R299-R302). -/

namespace Sys2Proof.Machine

/-! ### CTX. -/

/-- Fields of CTX's PARAM (R283). -/
structure CtxParam where
  ctx : Nat
  headDim : Nat
  hkv : Nat
  layers : Nat
  value : Nat
  base : Nat
  deriving DecidableEq, Repr

/-- They stand at these bytes. -/
def ctxParam (m : Mop) : CtxParam := ⟨m.p 0 2, m.p 2 1, m.p 3 1, m.p 4 2, m.p 8 4, m.p 12 4⟩

/-- The context that an OPEN makes. -/
def CtxParam.open (q : CtxParam) (p : Nat) : Ctx :=
  { index := q.ctx, owner := p, headDim := headDimOf q.headDim, hkv := q.hkv, layers := q.layers, maxlen := q.value, base := q.base,
    filled := 0 }

/-- CTX at admission: its static fields (R283, R284). What must equal the context's is left to step 4. -/
def Env.ctxOp (e : Env) (m : Mop) : Option Check :=
  let q := ctxParam m
  let bad (o : Nat) : Option Check := badDesc inMop (0x70 + o)
  let len : Option Check := some ⟨stLength, inMop, 0x78⟩
  firstBad ([
    e.form m { bucket := .no } (· < 4) 16, need (m.layer == 0) (badDesc inMop 0x38), noNarrow m,
    need (m.p 6 2 == 0) (bad 6)]
    ++ if m.subop == 2 || m.subop == 3 then
        [need (m.p 2 4 == 0) (bad 2), need (m.subop == 3 || q.value == 0) (bad 8), need (q.base == 0) (bad 12)]
      else
        [if m.subop == 0 then firstBad [need (q.headDim ≤ 2) (bad 2), need (1 ≤ q.hkv && q.hkv ≤ 128) (bad 3),
            need (1 ≤ q.layers && q.layers ≤ 4096) (bad 4)] else none,
          need (q.value != 0) (bad 8), need (q.value ≤ 2 ^ 24) len,
          if m.subop == 0 then firstBad [need (q.base < 2 ^ 24) (bad 12), need (q.base + q.value ≤ 2 ^ 24 && (q.open e.p).extent ≤ 2 ^ 43) len]
          else none])

/-- A macro-op of the partition that has read a lengths-table entry naming the context has not completed (R288). -/
def ctxBusy (s : State) (p i : Nat) : Bool :=
  s.sched.reqs.any fun r => r.part == p && r.st == .admitted
    && r.mops.any fun t => t.stage != .done && !t.empty && t.slots.any fun k => !k.vacant && k.ctx == i

/-- A CTX that ends its request. -/
def ctxFail (status byte : Nat) : Work := .fail ⟨status, inMop, 0x70 + byte⟩

/-- OPEN (R284). -/
def ctxOpenWork (s : State) (x : Run) : Work :=
  let q := ctxParam x.m
  if ctxBusy s x.p q.ctx then .hold
  else
    match ctx? s q.ctx with
    | some c => ctxFail (if c.owner == x.p then stDescriptor else stPartition) 0
    | none =>
      let c := q.open x.p
      if q.base + q.value > 2 ^ 24 || c.extent > 2 ^ 43 then ctxFail stLength 8
      else .state (bump { s with ctxs := s.ctxs ++ [c] } pgPOL oPOL_CTX_OPENS 1)

/-- RESIZE, FILL and CLOSE need an open context of the partition (R604). -/
def withCtx (s : State) (x : Run) (f : Ctx → Work) : Work :=
  let q := ctxParam x.m
  if ctxBusy s x.p q.ctx then .hold
  else
    match ctx? s q.ctx with
    | none => ctxFail stDescriptor 0
    | some c => if c.owner == x.p then f c else ctxFail stPartition 0

/-- Update a context. -/
def modCtx (s : State) (i : Nat) (f : Ctx → Ctx) : State := { s with ctxs := updFirst (·.index == i) f s.ctxs }

/-- RESIZE (R285, R604). -/
def ctxResizeWork (s : State) (x : Run) : Work :=
  let q := ctxParam x.m
  withCtx s x fun c =>
    let c' := { c with maxlen := q.value, filled := Nat.min c.filled q.value }
    if headDimOf q.headDim != c.headDim then ctxFail stDescriptor 2
    else if q.hkv != c.hkv then ctxFail stDescriptor 3
    else if q.layers != c.layers then ctxFail stDescriptor 4
    else if q.base != c.base then ctxFail stDescriptor 12
    else if c.base + q.value > 2 ^ 24 || c'.extent > 2 ^ 43 then ctxFail stLength 8
    else
      let gone (e : Pte) : Bool := e.space == .ctx q.ctx && c'.extent ≤ e.va
      let n := (s.pool.ptes.filter gone).length
      .state (traceCheck (bump (dropPtes (modCtx s q.ctx fun _ => c') gone) pgPOL oPOL_SHOOTDOWNS n))

/-- CLOSE (R287). -/
def ctxCloseWork (s : State) (x : Run) : Work :=
  withCtx s x fun c =>
    let n := (s.pool.ptes.filter fun e => e.space == .ctx c.index).length
    .state (traceCheck (bump (closeCtx s c.index) pgPOL oPOL_SHOOTDOWNS n))

/-- FILL (R286, R604). -/
def ctxFillWork (s : State) (x : Run) : Work :=
  let q := ctxParam x.m
  withCtx s x fun c => if q.value > c.maxlen then ctxFail stLength 8 else .state (modCtx s q.ctx fun c => { c with filled := q.value })

/-- CTX, OPEN. -/
def execCtxOpen (m : MopRef) (s : State) : Host.Outcome State Fault Refusal := work m 0x34 (subIs 0) ctxOpenWork s
/-- CTX, RESIZE. -/
def execCtxResize (m : MopRef) (s : State) : Host.Outcome State Fault Refusal := work m 0x34 (subIs 1) ctxResizeWork s
/-- CTX, CLOSE. -/
def execCtxClose (m : MopRef) (s : State) : Host.Outcome State Fault Refusal := work m 0x34 (subIs 2) ctxCloseWork s
/-- CTX, FILL. -/
def execCtxFill (m : MopRef) (s : State) : Host.Outcome State Fault Refusal := work m 0x34 (subIs 3) ctxFillWork s

/-! ### Attention records (R299-R302). -/

/-- A failed check named by the field that points to what fails. -/
def atField (c : Option Check) (struct byte : Nat) : Option Check := c.map fun c => { c with struct := struct, byte := byte }

/-- A tensor that a record names at byte `byte` of the structure at AUX_PTR. -/
def Env.auxTensor (e : Env) (m : Mop) (write : Bool) (va byte : Nat) : Option Check :=
  atField (firstBad [e.tensorAt m write va inAux inAux byte, need (!(tdAt e.s e.p va).compressed) (badDesc inAux byte)]) inAux byte

/-- BACK or FWD. -/
def reachOk (band : Bool) (v : Nat) : Bool := if band then v ≤ 2 ^ 24 || v == 0xFFFFFFFF else v == 0

/-- The fields of an attention record (R299, R300): `kv` for KV_APPEND's, `size` its length. -/
def Env.attnFields (e : Env) (m : Mop) (kv : Bool) (size : Nat) : Option Check :=
  match e.ptr m.aux 64 size inMop 0x48 with
  | some c => some c
  | none =>
    let a := attnRec e.s e.p m.aux
    let b := vread e.s e.p m.aux size
    let bad := badDesc inAux
    firstBad ([
      need (if kv then a.hq == 0 else 1 ≤ a.hq && a.hq ≤ 128) (bad 0),
      need (1 ≤ a.hkv && a.hkv ≤ 128 && (kv || a.hq % a.hkv == 0)) (bad 1),
      need (a.headDim ≤ 2) (bad 2),
      need (if kv then a.spans == 0 else a.spans == 1 || a.spans == 2 || a.spans == 4) (bad 3),
      need (a.aflags < 4 && (!kv || a.aflags == 0)) (bad 6),
      need (a.nanchor ≤ 4 && (a.band || a.nanchor == 0)) (bad 7),
      need (if a.band then 1 ≤ a.g && a.g ≤ 2 ^ 24 else a.g == 0) (bad 8),
      need (reachOk a.band a.back) (bad 0xC),
      need (reachOk a.band a.fwd) (bad 0x10),
      need (fld b 0x14 4 == 0) (bad 0x14)]
      ++ (List.range 4).map (fun i => need (i < a.nanchor || fld b (0x18 + 8 * i) 8 == 0) (bad (0x18 + 8 * i)))
      ++ [need (!kv || a.stats == 0) (bad 0x38)])

/-- The statistics: FP32, sizes (2, QMAX, HQ, slots) (R302). -/
def Env.statsRec (e : Env) (m : Mop) (write : Bool) (a : AttnRec) : Option Check :=
  if a.stats == 0 then none
  else
    let t := tdAt e.s e.p a.stats
    let z (d : Nat) : Nat := nth (e.tns m m.tdA).td.size d 0
    firstBad [e.auxTensor m write a.stats 0x38,
      need (t.ty == tyFP32 && t.rank == 4 && t.size == [2, z 1, z 2, z 3, 1]) (badDesc inAux 0x38)]

/-- Operand types of queries and of keys and values. -/
def tyQuery (t : Nat) : Bool := t == tyE4M3 || t == tyBF16 || t == tyFP16
def tyKv (t : Nat) : Bool := tyQuery t || t == tyFP32

/-- A tensor of rank 4 whose block dimension is 0 and that has A's sizes. -/
def Env.likeA (e : Env) (m : Mop) (va struct : Nat) : Option Check :=
  if va == 0 then none
  else
    let t := (e.tns m va).td
    firstBad [need (t.rank == 4) (badDesc struct 0x11), need (t.blockDim == 0) (badDesc struct 0x12), e.sameShape m va m.tdA struct]

/-- The lengths table at admission: aligned and mapped over its slots (R292). -/
def Env.lengthsAt (e : Env) (m : Mop) : Option Check :=
  let n := slotCount e.s e.p m
  firstBad [need (1 ≤ n && n ≤ 65535) (badDesc inA 0x20), e.ptr m.lengths 16 (16 * n) inMop 0x30]

/-- What the query operand obeys (R302): `heads` stands in dimension 2. -/
def Env.queryOk (e : Env) (m : Mop) (types : Nat → Bool) (d heads : Nat) : Option Check :=
  let t := (e.tns m m.tdA).td
  firstBad [e.tyIn m m.tdA inA types, e.likeA m m.tdA inA, need (nth t.size 0 0 == d) (badDesc inA 0x14),
    need (nth t.size 2 0 == heads) (badDesc inA 0x1C)]

/-- ATTN (R301, R302). -/
def Env.attn (e : Env) (m : Mop) : Option Check :=
  let a := attnRec e.s e.p m.aux
  firstBad [
    e.form m { out := .must, a := .must, bucket := .no, lengths := .must, aux := .must } (· == 0) 4,
    noNarrow m, e.allPlain m, e.attnFields m false 64, e.queryOk m tyQuery a.d a.hq, e.likeA m m.tdOut inOut,
    e.tyIn m m.tdOut inOut (fun t => if a.partial_ then t == tyFP32 else tyMatOut t),
    need (!a.partial_ || a.stats != 0) (badDesc inAux 0x38), e.statsRec m true a, e.lengthsAt m]

/-- KV_APPEND (R300, R311). -/
def Env.kvAppend (e : Env) (m : Mop) : Option Check :=
  let a := attnRec e.s e.p m.aux
  firstBad [
    e.form m { a := .must, b := .must, bucket := .no, lengths := .must, aux := .must } (· == 0) 0,
    noNarrow m, e.allPlain m, e.attnFields m true 64, e.queryOk m tyKv a.d a.hkv, e.tyIn m m.tdB inB tyKv, e.likeA m m.tdB inB,
    e.lengthsAt m]

/-- The gradients dK and dV: a matrix output of sizes (d, KMAX, HKV, slots) (R314). -/
def Env.gradOut (e : Env) (m : Mop) (a : AttnRec) (va byte : Nat) : Option Check :=
  let t := tdAt e.s e.p va
  firstBad [need (va != 0) (badDesc inAux byte), e.auxTensor m true va byte,
    need (tyMatOut t.ty && t.rank == 4 && t.blockDim == 0 && nth t.size 0 0 == a.d && nth t.size 2 0 == a.hkv
      && nth t.size 3 0 == nth (e.tns m m.tdA).td.size 3 0 && nth t.size 1 0 == nth (tdAt e.s e.p a.dk).size 1 0) (badDesc inAux byte)]

/-- What ATTN_GRAD and HAUL_GRAD share (R314, R335). -/
def Env.gradCommon (e : Env) (m : Mop) : Option Check :=
  let a := attnRec e.s e.p m.aux
  firstBad [
    e.form m { out := .must, a := .must, b := .must, c := .must, bucket := .no, lengths := .must, aux := .must } (· == 0) 4,
    noNarrow m, e.allPlain m, e.attnFields m false 128, e.queryOk m tyQuery a.d a.hq,
    e.likeA m m.tdB inB, e.tyIn m m.tdB inB tyElem, e.likeA m m.tdC inC, e.tyIn m m.tdC inC tyElem,
    e.likeA m m.tdOut inOut, e.tyIn m m.tdOut inOut tyMatOut,
    need (a.spans == 1) (badDesc inAux 3), need (!a.partial_) (badDesc inAux 6), need (a.stats != 0) (badDesc inAux 0x38),
    e.statsRec m false a, e.gradOut m a a.dk 0x40, e.gradOut m a a.dv 0x48, e.lengthsAt m]

/-- ATTN_GRAD (R299, R314). -/
def Env.attnGrad (e : Env) (m : Mop) : Option Check :=
  firstBad [e.gradCommon m, need (allZero ((vread e.s e.p m.aux 128).drop 0x50)) (badDesc inAux 0x50)]

end Sys2Proof.Machine
end

