-- ==== Sys2Proof/Machine/Detection.lean ====
section
/-! DEFINITION. Detection post-processing: BOX_DECODE and NMS (R391-R399). -/

namespace Sys2Proof.Machine

/-- Fields of a detection record (R391). -/
structure DetRec where
  gridW : Nat
  scoreT : W32
  iouT : W32
  maxCand : Nat
  maxDet : Nat
  dflags : Nat
  strX : W32
  strY : W32
  imgW : W32
  imgH : W32
  count : Nat
  deriving DecidableEq, Repr

/-- The record at an address. -/
def detRec (s : State) (p va : Nat) : DetRec :=
  let b := vread s p va 64
  let w (o : Nat) : W32 := BitVec.ofNat 32 (fld b o 4)
  { gridW := fld b 0 4, scoreT := w 4, iouT := w 8, maxCand := fld b 0xC 4, maxDet := fld b 0x10 2, dflags := fld b 0x12 1
    strX := w 0x14, strY := w 0x18, imgW := w 0x1C, imgH := w 0x20, count := fld b 0x28 8 }

/-- AGNOSTIC and BEST_ONLY. -/
def DetRec.agnostic (d : DetRec) : Bool := bit d.dflags 1
def DetRec.bestOnly (d : DetRec) : Bool := bit d.dflags 2

/-! ### Checks of admission. -/

/-- An FP32 value above 0. -/
def f32Positive (w : W32) : Bool := Num.zero.lt (f32 w)

/-- The record's fields (R391); fields that the opcode does not read are 0. A head of no columns has no rows (R392). -/
def Env.detFields (e : Env) (m : Mop) (nms : Bool) : Option Check :=
  match e.ptr m.aux 64 64 inMop 0x48 with
  | some c => some c
  | none =>
    let b := vread e.s e.p m.aux 64
    let d := detRec e.s e.p m.aux
    let bad := badDesc inAux
    let zero (o n : Nat) : Bool := fld b o n == 0
    firstBad [
      need (nms || m.subop != 0 || d.gridW != 0) (bad 0),
      need (if nms then (f32 d.scoreT).finite else zero 4 4) (bad 4),
      need (if nms then Num.zero.le (f32 d.iouT) && (f32 d.iouT).le Num.one else zero 8 4) (bad 8),
      need (if nms then 1 ≤ d.maxCand && d.maxCand ≤ 65536 else zero 0xC 4) (bad 0xC),
      need (if nms then 1 ≤ d.maxDet && d.maxDet ≤ 4096 && d.maxDet == nth (e.tns m m.tdOut).td.size 1 0 else zero 0x10 2) (bad 0x10),
      need (d.dflags < 8 && (if nms then !bit d.dflags 0 else d.dflags < 2)) (bad 0x12), need (zero 0x13 1) (bad 0x13),
      need (if nms then zero 0x14 4 else f32Positive d.strX) (bad 0x14), need (if nms then zero 0x18 4 else f32Positive d.strY) (bad 0x18),
      need (if nms then zero 0x1C 4 else f32Positive d.imgW) (bad 0x1C), need (if nms then zero 0x20 4 else f32Positive d.imgH) (bad 0x20),
      need (zero 0x24 4) (bad 0x24), need (nms == (d.count != 0)) (bad 0x28), need (zero 0x30 16) (bad 0x30)]

/-- A tensor of rank 3 with a given dimension 0. -/
def Env.rank3 (e : Env) (m : Mop) (va struct d0 : Nat) : Option Check :=
  let t := (e.tns m va).td
  firstBad [need (t.rank == 3) (badDesc struct 0x11), need (d0 == 0 || nth t.size 0 0 == d0) (badDesc struct 0x14)]

/-- BOX_DECODE (R392). -/
def Env.boxDecode (e : Env) (m : Mop) : Option Check :=
  let float (t : Nat) : Bool := t == tyFP32 || t == tyBF16 || t == tyFP16
  firstBad [
    e.form m { out := .must, a := .must, c := if m.subop == 1 then .must else .no, aux := .must } (· < 2) 0, noNarrow m, e.allPlain m,
    e.tyIn m m.tdA inA float, e.tyIn m m.tdC inC tyElem, e.tyIn m m.tdOut inOut (· == tyFP32),
    e.rank3 m m.tdA inA 4, e.sameShape m m.tdOut m.tdA inOut, e.sameShape m m.tdC m.tdA inC, e.detFields m false]

/-- NMS (R393). -/
def Env.nms (e : Env) (m : Mop) : Option Check :=
  let a := e.tns m m.tdA
  let d := detRec e.s e.p m.aux
  firstBad [
    e.form m { out := .must, a := .must, b := .must, aux := .must } (· == 0) 0, noNarrow m, e.allPlain m,
    e.tyIn m m.tdA inA tyElem, e.tyIn m m.tdB inB (· == tyFP32), e.tyIn m m.tdOut inOut (· == tyINT32),
    e.rank3 m m.tdA inA 0, e.rank3 m m.tdB inB 4, e.rank3 m m.tdOut inOut 8,
    e.sameSize m m.tdB 1 m.tdA 1 inB, e.sameSize m m.tdB 2 m.tdA 2 inB, e.sameSize m m.tdOut 2 m.tdA 2 inOut,
    need (a.dim 0 * a.dim 1 ≤ 2 ^ 32) (badDesc inA 0x14), e.detFields m true,
    atField (firstBad [e.tensorAt m true d.count inAux inAux 0x28,
      need (let t := (e.tns m d.count).td; t.ty == tyINT32 && t.rank == 1 && nth t.size 0 0 == nth a.td.size 2 0) (badDesc inAux 0x28)])
      inAux 0x28]

/-! ### BOX_DECODE. -/

/-- Constants. -/
abbrev half32 : W32 := 0x3F000000
abbrev log2e32 : W32 := 0x3FB8AA3B

/-- A box and the special-function results that it takes (R392). -/
def boxOfPos (k : SfCtx) (d : DetRec) (sub pos : Nat) (r c : List W32) : List W32 × List SfRes :=
  let v (i : Nat) : W32 := nth r i 0
  let a (i : Nat) : W32 := nth c i 0
  let (b, log) :=
    if sub == 0 then
      let cx := fMul (fAdd (ofCount (pos % d.gridW)) half32) d.strX
      let cy := fMul (fAdd (ofCount (pos / d.gridW)) half32) d.strY
      ([fFnma (v 0) d.strX cx, fFnma (v 1) d.strY cy, fFma (v 2) d.strX cx, fFma (v 3) d.strY cy], ([] : List SfRes))
    else
      let cx := fFma (v 0) (a 2) (a 0)
      let cy := fFma (v 1) (a 3) (a 1)
      let ew := k.exp2 (fMul (v 2) log2e32)
      let eh := k.exp2 (fMul (v 3) log2e32)
      let w := fMul (a 2) ew.code
      let h := fMul (a 3) eh.code
      ([fFnma half32 w cx, fFnma half32 h cy, fFma half32 w cx, fFma half32 h cy], [ew, eh])
  let clip (x top : W32) : W32 := if bit d.dflags 0 then fMin (fMax x 0) top else x
  ([clip (nth b 0 0) d.imgW, clip (nth b 1 0) d.imgH, clip (nth b 2 0) d.imgW, clip (nth b 3 0) d.imgH], log)

/-- The work of BOX_DECODE. -/
def boxWork (s : State) (x : Run) : Work :=
  let rd := rdr s x.p
  let c := x.fmt s
  let ins := x.inputs s
  match (unmappedInput s x.p ins).or (unmappedRange s x.p [(inAux, x.m.aux, 64)]) with
  | some e => .fail e
  | none =>
    let o := x.tns s x.m.tdOut
    let d := detRec s x.p x.m.aux
    let line (k : Nat) (rest : List Nat) : List W32 :=
      match ins.find? (·.1 == k) with
      | some (_, t) => (List.range 4).map fun i => in32 (valAt c rd t (i :: rest)).1
      | none => []
    let res := (indices (o.sz.drop 1)).map fun rest => boxOfPos (x.sf s) d x.m.subop (nth rest 0 0) (line inA rest) (line inC rest)
    let t : RowTab := ⟨(res.map (·.1)).flatten, (res.map (·.2)).flatten⟩
    .eff ((t.eff c o).count (readCnt c rd (ins.map (·.2))))

/-- BOX_DECODE, distances. -/
def execBoxDecodeDistances (m : MopRef) (s : State) : Host.Outcome State Fault Refusal := work m 0x48 (subIs 0) boxWork s
/-- BOX_DECODE, centre and size. -/
def execBoxDecodeCentre (m : MopRef) (s : State) : Host.Outcome State Fault Refusal := work m 0x48 (subIs 1) boxWork s

/-! ### NMS. -/

/-- A candidate (R393). -/
structure Cand where
  pos : Nat
  cls : Nat
  score : W32
  box : List W32
  deriving DecidableEq, Repr

/-- The ranking key (R394). -/
def Cand.key (c : Cand) (classes : Nat) : Nat :=
  let s := if c.score == 0x80000000 then 0 else c.score.toNat
  let hi := if s < 2 ^ 31 then s + 2 ^ 31 else 2 ^ 32 - 1 - s
  hi * 2 ^ 32 + (0xFFFFFFFF - (c.pos * classes + c.cls))

/-- Candidates in rank order. -/
def ranked (classes : Nat) (l : List Cand) : List Cand := sortBy (fun a b => a.key classes ≥ b.key classes) l

/-- A side of a box's intersection or area: max(0, hi − lo). -/
def span0 (hi lo : W32) : W32 := fMax 0 (fSub hi lo)

/-- Two boxes overlap beyond the threshold (R395). -/
def overlaps (t : W32) (a b : List W32) : Bool :=
  let g (l : List W32) (i : Nat) : W32 := nth l i 0
  let inter := fMul (span0 (fMin (g a 2) (g b 2)) (fMax (g a 0) (g b 0))) (span0 (fMin (g a 3) (g b 3)) (fMax (g a 1) (g b 1)))
  let area (l : List W32) : W32 := fMul (span0 (g l 2) (g l 0)) (span0 (g l 3) (g l 1))
  let union := fSub (fAdd (area a) (area b)) inter
  (f32 (fMul t union)).lt (f32 inter)

/-- Suppression in rank order (R395). -/
def suppress (t : W32) (agnostic : Bool) (maxDet : Nat) (l : List Cand) : List Cand :=
  l.foldl (fun kept c =>
    if kept.length ≥ maxDet || kept.any (fun k => (agnostic || k.cls == c.cls) && overlaps t k.box c.box) then kept else kept ++ [c]) []

/-- What NMS makes of an image: the kept candidates, those ranked, those dropped for their boxes, and whether it was trimmed. -/
structure NmsRes where
  kept : List Cand
  cands : Nat
  badBox : Nat
  trimmed : Bool
  deriving DecidableEq, Repr

/-- NMS of one image: its scores by class and position and its boxes by position (R393-R395). -/
def nmsImage (d : DetRec) (classes positions : Nat) (score : Nat → Nat → W32) (box : Nat → List W32) : NmsRes :=
  let past := ((List.range positions).map fun p => (List.range classes).filterMap fun k =>
    if (f32 d.scoreT).lt (f32 (score k p)) then some (Cand.mk p k (score k p) (box p)) else none).flatten
  let good := past.filter fun c => c.box.all fun v => (f32 v).finite
  let order := ranked classes good
  let best := if d.bestOnly then order.foldl (fun l c => if l.any fun k => k.pos == c.pos then l else l ++ [c]) [] else order
  let cut := best.take d.maxCand
  { kept := suppress d.iouT d.agnostic d.maxDet cut, cands := cut.length, badBox := past.length - good.length
    trimmed := best.length > d.maxCand }

/-- Word `w` of slot `i` of an image (R396). -/
def slotWord (kept : List Cand) (i w : Nat) : W32 :=
  match kept[i]? with
  | some c => if w < 4 then nth c.box w 0 else if w == 4 then c.score else if w == 5 then BitVec.ofNat 32 (c.cls % 65536)
      else if w == 6 then BitVec.ofNat 32 c.pos else 0
  | none => if w == 5 then 0xFFFF else 0

/-- A word as the value of an INT32 element. -/
def rawInt (w : W32) : Num := Num.ofInt (signed 32 w.toNat)

/-- The work of NMS. -/
def nmsWork (s : State) (x : Run) : Work :=
  let rd := rdr s x.p
  let c := x.fmt s
  let ins := x.inputs s
  match (unmappedInput s x.p ins).or (unmappedRange s x.p [(inAux, x.m.aux, 64)]) with
  | some e => .fail e
  | none =>
    let o := x.tns s x.m.tdOut
    let a := x.tns s x.m.tdA
    let b := x.tns s x.m.tdB
    let d := detRec s x.p x.m.aux
    let res := (List.range (a.dim 2)).map fun i =>
      nmsImage d (a.dim 0) (a.dim 1) (fun k p => in32 (valAt c rd a [k, p, i]).1)
        fun p => (List.range 4).map fun j => in32 (valAt c rd b [j, p, i]).1
    let r (i : Nat) : NmsRes := nth res i ⟨[], 0, 0, false⟩
    let w := writeTensor c o fun ix => rawInt (slotWord (r (nth ix 2 0)).kept (nth ix 1 0) (nth ix 0 0))
    let n := writeTensor c (x.tns s d.count) fun ix => Num.ofInt (r (nth ix 0 0)).kept.length
    let past := (res.filter (·.trimmed)).length
    let e := (w.append n).eff.count (readCnt c rd (ins.map (·.2)) ++ [
      (oRGN_DET_CANDS, sumNat (res.map (·.cands))), (oRGN_DET_KEPT, sumNat (res.map fun q => q.kept.length)),
      (oRGN_DET_BADBOX, sumNat (res.map (·.badBox))), (oRGN_DET_OVERFLOW, past),
      -- every tile of a line after its first takes its slots of the kept list (R397)
      (oRGN_HALO_BYTES, sumNat (res.map fun q => 32 * (q.kept.length - 128)))])
    .eff { e with events := List.replicate past 56 }

/-- NMS: the detections of each image. -/
def execNms (m : MopRef) (s : State) : Host.Outcome State Fault Refusal := work m 0x49 (subIs 0) nmsWork s

end Sys2Proof.Machine
end

