-- ==== Sys2Proof/Machine/MatrixOps.lean ====
section
/-! DEFINITION. MATMUL and MATMUL_ADD: their checks, with coat records and outlier lists, and their work (R59, R69, R76-R87, R99-R101,
R130-R132, R162-R169). The product itself stands in Matrix; CONV shares it. -/

namespace Sys2Proof.Machine

/-! ### Checks of admission. -/

/-- The outlier channel list of an operand of `k` channels (R80). -/
def Env.actChecks (e : Env) (ptr k : Nat) : Option Check :=
  if ptr == 0 then none
  else
    match e.extent false ptr (8 * ceilDiv k 128) inOutlier 0 with
    | some c => some c
    | none =>
      firstBad ((List.range (ceilDiv k 128)).map fun g =>
        let b := vread e.s e.p (ptr + 8 * g) 8
        let cnt := fld b 0 1
        let ch (i : Nat) : Nat := fld b (1 + i) 1
        firstBad (need (cnt ≤ 4) (badDesc inOutlier (8 * g))
          :: ((List.range 4).map fun i =>
            need (if i < cnt then ch i < 128 && 128 * g + ch i < k && (i == 0 || ch (i - 1) < ch i) else ch i == 0)
              (badDesc inOutlier (8 * g + 1 + i)))
          ++ [need (fld b 5 3 == 0) (badDesc inOutlier (8 * g + 5))]))

/-- Entries sorted by column group, then K, then N, no pair twice (R82). -/
def woutSorted : List (Nat × Nat) → Bool
  | (k, n) :: (k', n') :: t =>
    (n / 128 < n' / 128 || (n / 128 == n' / 128 && (k < k' || (k == k' && n < n')))) && woutSorted ((k', n') :: t)
  | _ => true

/-- The weight outlier list at `ptr` for a weight of K = `k`, N = `n` (R82, R83). -/
def Env.woutChecks (e : Env) (ptr count k n : Nat) : Option Check :=
  match e.extent false ptr 16 inOutlier 0 with
  | some c => some c
  | none =>
    let h := vread e.s e.p ptr 16
    let ng := fld h 4 4
    match firstBad [need (fld h 0 4 == count && count ≤ k * n / 100) (badDesc inOutlier 0),
        need (ng == ceilDiv n 128) (badDesc inOutlier 4), need (fld h 8 8 == 0) (badDesc inOutlier 8),
        e.extent false ptr (16 + woutStarts ng + 8 * count) inOutlier 0] with
    | some c => some c
    | none =>
      let entry (i : Nat) : Nat := vnat e.s e.p (ptr + 16 + woutStarts ng + 8 * i) 8
      let keys := (List.range count).map fun i => (bits (entry i) 63 40, bits (entry i) 39 16)
      firstBad ((List.range count).map (fun i =>
          need ((nth keys i (0, 0)).1 < k && (nth keys i (0, 0)).2 < n && (i == 0 || woutSorted ((keys.drop (i - 1)).take 2)))
            (badDesc inOutlier (16 + woutStarts ng + 8 * i)))
        ++ (List.range (ng + 1)).map fun g =>
          need (vnat e.s e.p (ptr + 16 + 4 * g) 4 == (keys.filter fun (_, c) => c / 128 < g).length) (badDesc inOutlier (16 + 4 * g)))

/-- The second coat of a weight, as an MXFP4 tensor of the first coat's shape (R99). -/
def coat2Tns (b : Tns) (c : Coat) : Option Tns :=
  if c.base == 0 then none else some { b with td := { b.td with base := c.base, scale := c.scale, ty := tyE2M1 } }

/-- The coat record of a matrix product of weight `b` (R76, R77, R82, R83, R99). A WOUT_PTR of 0 beside a WOUT_COUNT that is not 0 is refused
(DESIGN CHOICE, log 101). -/
def Env.coatChecks (e : Env) (m : Mop) (b : Tns) : Option Check :=
  if m.coat == 0 then none
  else
    match e.ptr m.coat 32 32 inMop 0x40 with
    | some c => some c
    | none =>
      let c := coatAt (vget e.s e.p) m.coat
      firstBad [
        (match coat2Tns b c with
          | none => none
          | some t =>
            firstBad [need (b.td.ty == tyE2M1 || b.td.ty == tyKX3 || b.td.ty == tyKT2) (badDesc inCoat 0),
              e.td (fld (planOf e.s e.p m) 0 1) false inCoat t]),
        need (c.wptr != 0 || c.wcount == 0) (badDesc inCoat 0x18),
        need (c.reserved == 0) (badDesc inCoat 0x1C),
        if c.wptr == 0 then none else e.woutChecks c.wptr c.wcount (nth b.cap 0 1) (nth b.cap 1 1)]

/-- What every matrix product is checked for: positions, pairing, block dimensions, NARROW_A and its list, coats (R38, R59, R69, R79,
R131, R132, R380). -/
def Env.product (e : Env) (m : Mop) : Option Check :=
  let a := e.tns m m.tdA
  let b := e.tns m m.tdB
  let o := e.tns m m.tdOut
  firstBad [
    e.tyIn m m.tdA inA tyMatA, e.tyIn m m.tdB inB tyMatB, e.tyIn m m.tdOut inOut tyMatOut, e.tyIn m m.tdC inC tyElem,
    need (pairingOk a.td.ty b.td.ty) (badDesc inB 0x10),
    need (!tyBlocked a.td.ty || a.td.blockDim == 0) (badDesc inA 0x12),
    need (!tyBlocked b.td.ty || b.td.blockDim == 0) (badDesc inB 0x12),
    need (!tyBlocked o.td.ty || o.td.blockDim == 0) (badDesc inOut 0x12),
    need (!m.narrowA || (a.td.ty == tyE4M3 && (b.td.ty == tyE2M1 || b.td.ty == tyKX3 || b.td.ty == tyKT2))) (badDesc inMop 1),
    if m.narrowA then e.actChecks (actList e.s e.p m) (nth b.cap 0 1) else none,
    e.coatChecks m b]

/-- MATMUL and MATMUL_ADD (R130-R132). -/
def Env.matmul (e : Env) (m : Mop) : Option Check :=
  let same (va dv wb dw struct : Nat) : Option Check := e.sameSize m va dv wb dw struct
  firstBad ([
    e.form m { out := .must, a := .must, b := .must, c := if m.opcode == 1 then .must else .no, coat := .may } (· == 0) 0,
    e.allPlain m,
    same m.tdB 0 m.tdA 0 inB, same m.tdOut 1 m.tdA 1 inOut, same m.tdOut 0 m.tdB 1 inOut]
    ++ [2, 3, 4].map (fun d => firstBad [same m.tdA d m.tdOut d inA, same m.tdB d m.tdOut d inB])
    ++ (List.range 5).map (fun d => same m.tdC d m.tdOut d inC)
    ++ [e.product m])

/-! ### The work. -/

/-- The form that a product runs in: the second coat, whether A is narrowed, its outlier channels, the weight's outliers. -/
structure MatForm where
  coat2 : Option Tns
  narrow : Bool
  chans : List Nat
  wout : List (Nat × Nat × Num)
  /-- infinities and NaN among the weight's outliers -/
  special : Nat
  deriving DecidableEq, Repr

/-- The form of a running product of weight `b` (R79-R87, R99, R100). In the wide form A keeps the type it is stored in (DESIGN CHOICE, log 104). -/
def Run.matForm (s : State) (x : Run) (b : Tns) : MatForm :=
  let rd := rdr s x.p
  let coat := if x.m.coat == 0 then { base := 0, scale := 0, wptr := 0, wcount := 0, reserved := 0 } else coatAt rd x.m.coat
  let wide := x.st.exec ≥ 1
  let narrow := x.m.narrowA && !wide
  let ptr := actList s x.p x.m
  let ws := (woutEntries rd coat).filter fun (k, n, _) => k < b.dim 0 && n < b.dim 1
  { coat2 := if wide then coat2Tns b coat else none
    narrow := narrow
    chans := if narrow && ptr != 0 then actChannels rd ptr (b.dim 0) else []
    wout := ws.map fun (k, n, v) => (k, n, (matVal tyBF16 v).1)
    special := (ws.filter fun (_, _, v) => (matVal tyBF16 v).2).length }

/-- The product of one batch: A at (m, k) lies at `aAt m k`, B at (n, k) at `bAt n k`, C at (m, n) at `cAt m n`; `k` and `n` are the
sizes of the contraction and of the columns. -/
def matArgs (c : FmtCtl) (rd : Reader) (a b : Tns) (cT : Option Tns) (f : MatForm) (k n : Nat) (aAt bAt : Nat → Nat → Option (List Nat))
    (cAt : Nat → Nat → List Nat) : MatArgs :=
  let read (t : Tns) : Option (List Nat) → Num
    | some x => (matVal t.td.ty (valAt c rd t x).1).1
    | none => Num.zero
  let aV (m k : Nat) : Num := read a (aAt m k)
  let ks (kb : Nat) : List Nat := (List.range (Nat.min 32 (k - 32 * kb))).map (32 * kb + ·)
  let blkA (m kb : Nat) : Blk :=
    let st := storedBlk c rd a (fun i => if i < k then aAt m i else none) kb
    if f.narrow && !st.filler then
      (narrowBlk ((ks kb).map (aV m)) ((f.chans.filter fun i => i / 32 == kb).map (· % 32))).1
    else st
  { k := k, n := n, ta := if f.narrow then tyE2M1 else a.td.ty, tb := b.td.ty
    aBlk := blkA
    bBlk := fun n kb => storedBlk c rd b (fun i => if i < k then bAt n i else none) kb
    b2 := f.coat2.map fun t n kb => storedBlk c rd t (fun i => if i < k then bAt n i else none) kb
    aVal := aV
    bVal := fun n k => read b (bAt n k)
    chans := f.chans
    act := fun m k => (toBf16 (aV m k)).1
    stored := aV
    wout := f.wout
    c := cT.map fun t m n => read t (some (cAt m n))
    cInt := (cT.map fun t => tyInt t.td.ty).getD false }

/-- Exact values and spill counts of every output element of a product, in the linear order of its sizes. -/
def matTable (sz : List Nat) (args : List Nat → MatArgs) : List (Num × Nat) :=
  ((indices (sz.drop 2)).map fun bt =>
    let a := args bt
    ((List.range (nth sz 1 1)).map fun m =>
      ((List.range (ceilDiv a.n 128)).map fun j =>
        let r := a.row m (128 * j)
        (List.range (a.cols (128 * j)).length).map fun i => (r.value i, r.spill i)).flatten).flatten).flatten

/-- A narrowed block saturates, or a channel taken out of it does as BF16 (R81). -/
def narrowSat (vals : List Num) (out : List Nat) : Bool :=
  (narrowBlk vals out).2 || out.any fun i => (toBf16 (nth vals i Num.zero)).2

/-- Saturated blocks among those that narrowing makes, for `mm` rows. -/
def narrowSats (a : MatArgs) (f : MatForm) (aAt : Nat → Nat → Option (List Nat)) (mm : Nat) : Nat :=
  if !f.narrow then 0
  else
    sumNat ((List.range mm).map fun m => ((List.range (ceilDiv a.k 32)).filter fun kb =>
      (aAt m (32 * kb)).isSome
        && narrowSat ((List.range (Nat.min 32 (a.k - 32 * kb))).map fun i => a.stored m (32 * kb + i))
            ((f.chans.filter fun i => i / 32 == kb).map (· % 32))).length)

/-- Infinities and NaN that enter a product as other values, over a list of indices of an operand (R40). -/
def matSpecial (c : FmtCtl) (rd : Reader) (t : Tns) (ixs : List (List Nat)) : Nat :=
  if tyBlocked t.td.ty then 0 else (ixs.filter fun ix => (matVal t.td.ty (valAt c rd t ix).1).2).length

/-- Counts of reading an operand of a product (R40, R50, R51, R55). -/
def matReadCnt (c : FmtCtl) (rd : Reader) (t : Tns) (ixs : List (List Nat)) : List (Nat × Nat) :=
  let r := readCountsAt c rd t ixs
  [(oRGN_SPECIAL_IN, r.1 + matSpecial c rd t ixs), (oRGN_BAD_CODE, r.2)]

/-- Stationary loads that a batch skips in the column tile `nt` and the K chunk of blocks [lo, lo + per) (R168). -/
def skippedLoads (c : FmtCtl) (a : MatArgs) (nt lo per : Nat) : Nat :=
  if !tyBlocked a.ta || !c.skipZero || c.zbRead then 0
  else
    sumNat ((List.range per).map fun i =>
      let kb := lo + i
      if 32 * kb ≥ a.k then 0
      else
        ((List.range 4).filter fun q =>
          (List.range 32).all fun j =>
            let n := 128 * nt + 32 * q + j
            n < a.n && (a.bBlk n kb).zero && (match a.b2 with | some f => (f n kb).zero | none => true)).length)

/-- RGN_ARRAY_CYCLES and RGN_SKIP_CYCLES of a product: `grid` are OUT's sizes at the chosen buckets, `kBucket` that of K (R146, R155,
R162, R168, R169). -/
def arrayCycles (c : FmtCtl) (sz grid : List Nat) (kBucket : Nat) (f : MatForm) (ta tb : Nat) (args : List Nat → MatArgs) :
    List (Nat × Nat) :=
  let rate := pairingRate ta tb
  let step := if f.coat2.isSome then 2 else 1024 / rate
  let per := kChunk ta tb / 32
  let loads := per * 4
  let nch := Nat.max 1 (ceilDiv kBucket (32 * per))
  let rows := ceilDiv (nth grid 1 1) 128
  let tiles := (indices (grid.drop 2)).map fun bt =>
    let real := (List.range 3).all fun d => nth bt d 0 < nth sz (2 + d) 1
    (List.range (ceilDiv (nth grid 0 1) 128)).map fun nt =>
      sumNat ((List.range nch).map fun ch => if real then skippedLoads c (args bt) nt (ch * per) per else 0)
  let skipped := sumNat (tiles.map sumNat)
  let all := sumNat (tiles.map List.length) * nch * loads
  [(oRGN_ARRAY_CYCLES, (all - skipped) * 128 * step * rows), (oRGN_SKIP_CYCLES, skipped * 128 * step * rows)]

/-- The effects of a product with output `o`: `sz` its sizes as the product sees them, `grid` those at the chosen buckets; A's rows lie at
`aAt`, and its elements that are read at `aRead`. -/
def productEff (c : FmtCtl) (rd : Reader) (a b o : Tns) (cT : Option Tns) (f : MatForm) (grid : List Nat) (kBucket : Nat)
    (aAt : List Nat → Nat → Nat → Option (List Nat)) (aRead : List (List Nat)) (args : List Nat → MatArgs) : Eff :=
  let tab := matTable o.sz args
  let w := writeTensor c o fun ix => (nth tab (linear o.sz ix) (Num.zero, 0)).1
  let mm := o.dim 1
  let bts := indices (o.sz.drop 2)
  let ixs := indices o.sz
  let spl : List (List Nat × Nat) := List.zipWith (fun i ix => (ix, (nth tab i (Num.zero, 0)).2)) (List.range ixs.length) ixs
  let ta := if f.narrow then tyE2M1 else a.td.ty
  let spilt : Nat := spl.foldl (fun n e => n + e.2) 0
  let cnt : List (Nat × Nat) := [
      (oRGN_SPILLS, spilt), (oRGN_SPECIAL_IN, f.special),
      (oRGN_ZERO_SKIPS, sumNat (bts.map fun bt => (args bt).skipCount c mm)),
      (oRGN_TOUCHUP_PRODUCTS, sumNat (bts.map fun bt => (args bt).touchCount mm)),
      (oRGN_SAT_BLOCKS, sumNat (bts.map fun bt => narrowSats (args bt) f (aAt bt) mm))]
    ++ matReadCnt c rd a aRead ++ matReadCnt c rd b (indices b.sz)
    ++ (match f.coat2 with | some t => matReadCnt c rd t (indices t.sz) | none => [])
    ++ (match cT with | some t => matReadCnt c rd t (indices t.sz) | none => [])
    ++ arrayCycles c o.sz grid kBucket f ta b.td.ty args
  Eff.count { w.eff with spills := spl } cnt

/-- Inputs of a product, with their structures. -/
def productInputs (a b : Tns) (cT : Option Tns) (f : MatForm) : List (Nat × Tns) :=
  [(inA, a), (inB, b)] ++ (match cT with | some t => [(inC, t)] | none => []) ++ (match f.coat2 with | some t => [(inCoat, t)] | none => [])

/-- The lists that a product reads. -/
def productLists (s : State) (x : Run) (b : Tns) : List (Nat × Nat × Nat) :=
  let rd := rdr s x.p
  let act := if x.m.narrowA && actList s x.p x.m != 0 then [(inOutlier, actList s x.p x.m, 8 * ceilDiv (b.dim 0) 128)] else []
  if x.m.coat == 0 then act
  else
    let c := coatAt rd x.m.coat
    act ++ [(inCoat, x.m.coat, 32)]
      ++ if c.wptr == 0 then [] else [(inOutlier, c.wptr, 16 + woutStarts (ceilDiv (nth b.cap 1 1) 128) + 8 * c.wcount)]

/-- A matrix product as MATMUL and MATMUL_ADD issue it (R131). -/
def matmulWork (s : State) (x : Run) : Work :=
  let rd := rdr s x.p
  let c := x.fmt s
  let a := x.tns s x.m.tdA
  let b := x.tns s x.m.tdB
  let o := x.tns s x.m.tdOut
  let cT := if x.m.tdC == 0 then none else some (x.tns s x.m.tdC)
  let f := x.matForm s b
  match (unmappedInput s x.p (productInputs a b cT f)).or (unmappedRange s x.p (productLists s x b)) with
  | some e => .fail e
  | none =>
    let at_ (bt : List Nat) (r k : Nat) : Option (List Nat) := some ([k, r] ++ bt)
    let args (bt : List Nat) : MatArgs := matArgs c rd a b cT f (a.dim 0) (b.dim 1) (at_ bt) (at_ bt) fun m n => [n, m] ++ bt
    .eff (productEff c rd a b o cT f (x.bucketSizes s x.m.tdOut) (nth (x.bucketSizes s x.m.tdA) 0 1) at_ (indices a.sz) args)

/-- MATMUL: OUT = A · B (R130, R131). -/
def execMatmul (m : MopRef) (s : State) : Host.Outcome State Fault Refusal := work m 0x00 (subIs 0) matmulWork s

/-- MATMUL_ADD: OUT = A · B + C (R130, R132). -/
def execMatmulAdd (m : MopRef) (s : State) : Host.Outcome State Fault Refusal := work m 0x01 (subIs 0) matmulWork s

end Sys2Proof.Machine
end

