-- ==== Sys2Proof/Machine/Attn.lean ====
section
/-! DEFINITION. Attention: masks, key chunks and chunk steps, the merge of spans, ATTN and KV_APPEND (R290, R297-R313). -/

namespace Sys2Proof.Machine

/-! ### Masks (R297, R298). -/

/-- The lowest and the highest key that the bands of the queries `qf` to `ql` allow; `none` is no limit above. -/
def AttnRec.bandLo (a : AttnRec) (qf : Nat) : Nat := if a.back == 0xFFFFFFFF then 0 else (qf / a.g - a.back) * a.g
def AttnRec.bandHi (a : AttnRec) (ql : Nat) : Option Nat := if a.fwd == 0xFFFFFFFF then none else some ((ql / a.g + a.fwd + 1) * a.g)

/-- Keys `kf` to `kl` meet an anchor range. -/
def AttnRec.anchored (a : AttnRec) (kf kl : Nat) : Bool := a.anchors.any fun (st, n) => n != 0 && st ≤ kl && kf < st + n

/-- The block pair of queries `qf` to `ql` and keys `kf` to `kl` makes work: the bands of successive queries join into one interval. -/
def AttnRec.works (a : AttnRec) (qf ql kf kl : Nat) : Bool :=
  !a.band || a.anchored kf kl
    || (a.bandLo qf ≤ kl && (match a.bandHi ql with | some h => kf < h | none => true))

/-- Query `q` may see key `k` of its range. -/
def AttnRec.sees (a : AttnRec) (q k : Nat) : Bool := a.works q q k k

/-! ### Keys and values (R290). -/

/-- Where the keys and values of one layer lie: the sequence position of local position 0, the local positions in range, and the address
of the 66d bytes of a segment and key-value head. -/
structure KeySrc where
  base : Nat
  lo : Nat
  hi : Nat
  at_ : Nat → Nat → Nat

/-- The virtual address of an offset of a context. -/
def ctxVa (c off : Nat) : Nat := 2 ^ 59 + c * 2 ^ 43 + off

/-- The keys of a slot. -/
def localSrc (c : Ctx) (a : AttnRec) (k : SlotLen) : KeySrc :=
  ⟨c.base, k.k0, k.k1, fun g h => ctxVa c.index (g * c.seg + (a.layer * a.hkv + h) * 66 * a.d)⟩

/-- Position `i` is in range. -/
def KeySrc.has (k : KeySrc) (i : Nat) : Bool := k.lo ≤ i && i < k.hi

/-- The key chunks of the range, ascending. -/
def KeySrc.chunks (k : KeySrc) : List Nat :=
  if k.hi ≤ k.lo then [] else (List.range ((k.hi - 1) / 128 + 1 - k.lo / 128)).map (k.lo / 128 + ·)

/-- The chunks whose block pair with queries at sequence positions `qf` to `ql` makes work. -/
def KeySrc.work (k : KeySrc) (a : AttnRec) (qf ql : Nat) : List Nat :=
  k.chunks.filter fun ch =>
    a.works qf ql (k.base + Nat.max k.lo (128 * ch)) (k.base + Nat.min k.hi (128 * ch + 128) - 1)

/-- Key block `kb` of a local position. -/
def keyBlk (c : FmtCtl) (rd : Reader) (k : KeySrc) (d head pos kb : Nat) : Blk :=
  if !k.has pos then fillerBlk tyE4M3
  else
    let a := k.at_ (pos / 32) head
    let q := pos % 32
    codeBlk c tyE4M3 (rd (a + 32 * d + q * d / 32 + kb)).toNat ((readN rd (a + q * d + 32 * kb) 32).map fun b => some b.toNat)

/-- The value block of a column over a segment: positions outside the range enter as zero (R304). -/
def valBlk (c : FmtCtl) (rd : Reader) (k : KeySrc) (d head seg j : Nat) : Blk :=
  if !((List.range 32).any fun q => k.has (32 * seg + q)) then fillerBlk tyE4M3
  else
    let a := k.at_ seg head
    codeBlk c tyE4M3 (rd (a + 65 * d + j)).toNat ((List.range 32).map fun q =>
      if k.has (32 * seg + q) then some (rd (a + 33 * d + 32 * j + q)).toNat else none)

/-- Special elements that reading a segment's positions in range counts (R50, R51, R304). -/
def kvSpecial (c : FmtCtl) (rd : Reader) (k : KeySrc) (d head seg : Nat) : Nat :=
  let a := k.at_ seg head
  let hit (sc code : Nat) : Nat := if (blockElem c tyE4M3 sc code).2.2 then 1 else 0
  sumNat (((List.range 32).filter fun q => k.has (32 * seg + q)).map fun q =>
    sumNat ((List.range d).map fun j =>
      hit (rd (a + 32 * d + q * d / 32 + j / 32)).toNat (rd (a + q * d + j)).toNat
        + hit (rd (a + 65 * d + j)).toNat (rd (a + 33 * d + 32 * j + q)).toNat))

/-- A key chunk of one key-value head: the blocks of each of its 128 keys, and those of each value column by segment. -/
structure Chunk where
  num : Nat
  keys : List (List Blk)
  vals : List (List Blk)
  deriving DecidableEq, Repr

/-- Read a chunk. -/
def chunkAt (c : FmtCtl) (rd : Reader) (k : KeySrc) (d head num : Nat) : Chunk :=
  { num := num
    keys := (List.range 128).map fun i => (List.range (d / 32)).map fun kb => keyBlk c rd k d head (128 * num + i) kb
    vals := (List.range 4).map fun g => (List.range d).map fun j => valBlk c rd k d head (4 * num + g) j }

/-- The segments of a chunk with a position in range. -/
def KeySrc.segs (k : KeySrc) (num : Nat) : List Nat :=
  ((List.range 4).map (4 * num + ·)).filter fun g => (List.range 32).any fun q => k.has (32 * g + q)

/-! ### Chunk steps (R304). -/

/-- Counts of attention work. -/
structure ACnt where
  sf : Nat := 0
  flushes : Nat := 0
  spills : Nat := 0
  skips : Nat := 0
  sat : Nat := 0
  deriving DecidableEq, Repr

/-- Their sum. -/
def ACnt.add (a b : ACnt) : ACnt := ⟨a.sf + b.sf, a.flushes + b.flushes, a.spills + b.spills, a.skips + b.skips, a.sat + b.sat⟩

/-- The counts of special-function results. -/
def sfCnt (l : List SfRes) : ACnt := { sf := l.length, flushes := (l.filter (·.flushed)).length }

/-- As counts of region pages. -/
def ACnt.list (a : ACnt) : List (Nat × Nat) :=
  [(oRGN_SF_RESULTS, a.sf), (oRGN_SF_FLUSHES, a.flushes), (oRGN_SPILLS, a.spills), (oRGN_ZERO_SKIPS, a.skips), (oRGN_SAT_BLOCKS, a.sat)]

/-- A row's partial: its statistics, its output row o, and what forming it counted. -/
structure RowPart where
  st : Stat
  o : List W32
  cnt : ACnt := {}
  deriving DecidableEq, Repr

/-- The empty partial of a row of `d` columns. -/
def RowPart.empty (d : Nat) : RowPart := ⟨.none_, List.replicate d 0, {}⟩

/-- Merge two partials of a row, `a` first (R212). -/
def mergeRows (k : SfCtx) (s2 : W32) (a b : RowPart) : RowPart :=
  let cnt := a.cnt.add b.cnt
  if a.st.isNone then { b with cnt := cnt }
  else if b.st.isNone then { a with cnt := cnt }
  else
    let (m, x, y) := mergeAlphas k s2 a.st b.st
    { st := ⟨m, fFma b.st.l y.code (fMul a.st.l x.code)⟩
      o := List.zipWith (fun p q => fFma q y.code (fMul p x.code)) a.o b.o
      cnt := cnt.add (sfCnt [x, y]) }

/-- The bound of MXFP8 E4M3 products. -/
def bE4M3 : Int := boundB tyE4M3 tyE4M3

/-- One row of the array: `pairs` gives the pair of blocks of each column for each of `n` K blocks. The row, and the pairs skipped. -/
def arrayRow (c : FmtCtl) (b : Int) (cols n : Nat) (pairs : Nat → List (Blk × Blk)) : AccRow × Nat :=
  (List.range n).foldl (fun (r, z) kb =>
    let ps := pairs kb
    (r.addBlock (ps.map fun (x, y) => pairAddend b x y), z + pairSkips c ps)) (AccRow.empty cols, 0)

/-- The spills of a row of the array. -/
def AccRow.spills (r : AccRow) : Nat := sumNat (r.accs.map (·.2))

/-- The exact scores of a query row against a chunk, and their counts. -/
def scores (c : FmtCtl) (q : List Blk) (ch : Chunk) : AccRow × ACnt :=
  let (r, z) := arrayRow c bE4M3 128 q.length fun kb => ch.keys.map fun k => (nth k kb (fillerBlk tyE4M3), nth q kb (fillerBlk tyE4M3))
  (r, { spills := r.spills, skips := z })

/-- Columns of a row that one tile row of the accumulator holds. -/
def colGroups (d : Nat) : List (List Nat) := (List.range (ceilDiv d 128)).map fun g => (List.range (Nat.min 128 (d - 128 * g))).map (128 * g + ·)

/-- P · V of a row: `p` are the four blocks of its probabilities. -/
def outRow (c : FmtCtl) (d : Nat) (p : List Blk) (ch : Chunk) : List Num × ACnt :=
  (colGroups d).foldl (fun (o, n) cols =>
    let (r, z) := arrayRow c bE4M3 cols.length 4 fun g => cols.map fun j => (nth (nth ch.vals g []) j (fillerBlk tyE4M3), nth p g (fillerBlk tyE4M3))
    (o ++ (List.range cols.length).map r.value, n.add { spills := r.spills, skips := z })) ([], {})

/-- Values placed at positions of a row of 128, +0 elsewhere. -/
def scatter (ixs : List Nat) (vs : List W32) : List W32 :=
  (List.range 128).map fun i => (((ixs.zip vs).find? (·.1 == i)).map (·.2)).getD 0

/-- The probabilities of a row in blocks of 32 keys, those wholly out of range left to the filler, with the blocks saturated (R304, R47). -/
def probBlks (ch : Chunk) (p : List W32) : List Blk × Nat :=
  let l := (List.range 4).map fun g =>
    if (nth (nth ch.vals g []) 0 (fillerBlk tyE4M3)).filler then (fillerBlk tyE4M3, false)
    else madeBlk tyE4M3 (((p.drop (32 * g)).take 32).map f32)
  (l.map (·.1), (l.filter (·.2)).length)

/-- A chunk step of one row; `see i` says that the row's query sees key `i` of the chunk. -/
def chunkStep (c : FmtCtl) (k : SfCtx) (s2 : W32) (d : Nat) (q : List Blk) (see : Nat → Bool) (ch : Chunk) : RowPart :=
  let (r, n1) := scores c q ch
  let inc := (List.range 128).filter see
  let (st, es) := softPart k s2 (inc.map fun i => in32 (r.value i))
  let (p, sat) := probBlks ch (scatter inc (es.map SfRes.code))
  let (o, n2) := outRow c d p ch
  ⟨st, o.map in32, ((n1.add n2).add (sfCnt es)).add { sat := sat }⟩

/-- Span `i` of `n` of a list (R303). -/
def spanOf {α : Type} (n i : Nat) (l : List α) : List α := (l.take ((i + 1) * l.length / n)).drop (i * l.length / n)

/-- The partial of a row over the chunks that make work with its tile, in `spans` spans merged in ascending order (R303-R305). -/
def rowPartial (c : FmtCtl) (k : SfCtx) (s2 : W32) (a : AttnRec) (src : KeySrc) (q : List Blk) (qs : Nat) (chs : List Chunk) : RowPart :=
  let step (ch : Chunk) : RowPart :=
    chunkStep c k s2 a.d q (fun i => src.has (128 * ch.num + i) && a.sees qs (src.base + 128 * ch.num + i)) ch
  ((List.range a.spans).map fun s => (spanOf a.spans s chs).foldl (fun run ch => mergeRows k s2 run (step ch)) (.empty a.d)).foldl
    (mergeRows k s2) (.empty a.d)

/-! ### Tiles and rows. -/

/-- Query rows of a tile (R303). -/
def tileRows (d : Nat) : Nat := if d == 256 then 64 else 128

/-- The query tiles of `n` queries: first query and number. -/
def queryTiles (d n : Nat) : List (Nat × Nat) :=
  (List.range (ceilDiv n (tileRows d))).map fun t => (t * tileRows d, Nat.min (tileRows d) (n - t * tileRows d))

/-- Queries of a slot. -/
def SlotLen.qlen (k : SlotLen) : Nat := k.q1 - k.q0

/-- A query row's blocks along the head dimension, and those that saturate on the way in (R302). -/
def queryRow (c : FmtCtl) (rd : Reader) (t : Tns) (d i h s : Nat) : List Blk × Nat :=
  if t.td.ty == tyE4M3 then
    ((List.range (d / 32)).map fun kb => storedBlk c rd t (fun j => if j < d then some [j, i, h, s] else none) kb, 0)
  else
    let l := (List.range (d / 32)).map fun kb => madeBlk tyE4M3 ((List.range 32).map fun j => (valAt c rd t [32 * kb + j, i, h, s]).1)
    (l.map (·.1), (l.filter (·.2)).length)

/-- The key-value head of a query head (R299). -/
def AttnRec.kvHead (a : AttnRec) (h : Nat) : Nat := h * a.hkv / a.hq

/-- The chunks of each tile of a slot for one source: query head, first query, rows, chunks that make work; `q0` is the sequence position
of query 0. -/
def tileWork (a : AttnRec) (src : KeySrc) (q0 n : Nat) : List (Nat × Nat × Nat × List Nat) :=
  ((List.range a.hq).map fun h => (queryTiles a.d n).map fun (f, r) => (h, f, r, src.work a (q0 + f) (q0 + f + r - 1))).flatten

/-- Chunk steps, and block pairs that made no work. -/
def stepCount (w : List (Nat × Nat × Nat × List Nat)) : Nat := sumNat (w.map fun (_, _, _, l) => l.length)
def maskCount (src : KeySrc) (w : List (Nat × Nat × Nat × List Nat)) : Nat := w.length * src.chunks.length - stepCount w

/-- The chunks of a key-value head that some tile works on. -/
def usedChunks (a : AttnRec) (src : KeySrc) (w : List (Nat × Nat × Nat × List Nat)) (g : Nat) : List Nat :=
  src.chunks.filter fun ch => w.any fun (h, _, _, l) => a.kvHead h == g && l.contains ch

/-- Special elements of a source that a slot's tiles read. -/
def srcSpecial (c : FmtCtl) (rd : Reader) (a : AttnRec) (src : KeySrc) (w : List (Nat × Nat × Nat × List Nat)) : Nat :=
  sumNat ((List.range a.hkv).map fun g => sumNat ((usedChunks a src w g).map fun ch =>
    sumNat ((src.segs ch).map (kvSpecial c rd src a.d g))))

/-- The ranges of memory that reading a segment's positions in range takes: keys and their scales, the span of the value codes, whose bytes lie
32 apart, and the value scales (R290, R304). -/
def segRanges (k : KeySrc) (d head seg : Nat) : List (Nat × Nat × Nat) :=
  let a := k.at_ seg head
  let qs := (List.range 32).filter fun q => k.has (32 * seg + q)
  (qs.map fun q => [(inLengths, a + q * d, d), (inLengths, a + 32 * d + q * d / 32, d / 32)]).flatten
    ++ match qs.head?, qs.getLast? with
      | some q, some r => [(inLengths, a + 33 * d + q, 32 * (d - 1) + r - q + 1), (inLengths, a + 65 * d, d)]
      | _, _ => []

/-- The ranges of memory that a slot's tiles read from a source. -/
def srcRanges (a : AttnRec) (src : KeySrc) (w : List (Nat × Nat × Nat × List Nat)) : List (Nat × Nat × Nat) :=
  ((List.range a.hkv).map fun g => ((usedChunks a src w g).map fun ch => ((src.segs ch).map (segRanges src a.d g)).flatten).flatten).flatten

/-- A query row by head and index. -/
structure RowOf where
  h : Nat
  i : Nat
  part : RowPart
  deriving DecidableEq, Repr

/-- The partials of every row of a slot over one source (R303-R305). -/
def slotPartials (c : FmtCtl) (rd : Reader) (k : SfCtx) (s2 : W32) (a : AttnRec) (q : Tns) (s q0 n : Nat) (src : KeySrc) : List RowOf :=
  let w := tileWork a src q0 n
  let tab := (List.range a.hkv).map fun g => (usedChunks a src w g).map (chunkAt c rd src a.d g)
  (w.map fun (h, f, r, l) =>
    let chs := (nth tab (a.kvHead h) []).filter fun ch => l.contains ch.num
    (List.range r).map fun i =>
      RowOf.mk h (f + i) (rowPartial c k s2 a src (queryRow c rd q a.d (f + i) h s).1 (q0 + f + i) chs)).flatten

/-- The final row: o × RCP(l), or o where PARTIAL is 1; a row that sees no key is +0 (R305, R306). -/
def finishRow (k : SfCtx) (partial_ : Bool) (p : RowPart) : RowPart :=
  if p.st.isNone || partial_ then p
  else
    let r := k.rcp p.st.l
    { p with o := p.o.map fun v => fMul v r.code, cnt := p.cnt.add (sfCnt [r]) }

/-- The row of a table of slots that an index of the output names. -/
def rowAt (tab : List (List RowOf)) (ix : List Nat) : Option RowPart :=
  ((nth tab (nth ix 3 0) []).find? fun r => r.h == nth ix 2 0 && r.i == nth ix 1 0).map (·.part)

/-- Write the rows of a table: OUT, and the statistics where there are any (R293, R302, R305). -/
def writeRows (c : FmtCtl) (o : Tns) (stats : Option Tns) (tab : List (List RowOf)) : Eff :=
  let keep (ix : List Nat) : Bool := (rowAt tab ix).isSome
  let w := writeTensorAt c o keep fun ix => f32 (match rowAt tab ix with | some p => nth p.o (nth ix 0 0) 0 | none => 0)
  let st : List (Nat × Byte) :=
    match stats with
    | none => []
    | some t => (writeTensorAt c t keep fun ix =>
        f32 (match rowAt tab ix with | some p => if nth ix 0 0 == 0 then p.st.m else p.st.l | none => 0)).bytes
  { w.eff with bytes := w.bytes ++ st }

/-- The statistics tensor of a record. -/
def Run.statsTns (s : State) (x : Run) (a : AttnRec) : Option Tns := if a.stats == 0 then none else some (x.tns s a.stats)

/-- The slots that are not vacant, with their index and context. -/
def Run.liveSlots (s : State) (x : Run) : List (Nat × SlotLen × Ctx) :=
  ((List.range x.st.slots.length).zip x.st.slots).filterMap fun (i, k) => if k.vacant then none else (ctx? s k.ctx).map fun c => (i, k, c)

/-- Array cycles of a chunk step (R309). -/
def stepCycles (d : Nat) : Nat := if d == 64 then 4096 else 8192

/-- Blocks of the queries that saturate as they are converted (R302, R48), over the queries that are used. -/
def querySats (c : FmtCtl) (rd : Reader) (a : AttnRec) (q : Tns) (s n : Nat) : Nat :=
  sumNat ((List.range a.hq).map fun h => sumNat ((List.range n).map fun i => (queryRow c rd q a.d i h s).2))

/-- Indices of an operand of rank 4 that lie in the queries of slots. -/
def slotIndices (t : Tns) (slots : List (Nat × Nat)) : List (List Nat) :=
  (indices t.sz).filter fun ix => slots.any fun (s, n) => s == nth ix 3 0 && nth ix 1 0 < n

/-- The work of ATTN (R301-R309). -/
def attnWork (s : State) (x : Run) : Work :=
  let rd := rdr s x.p
  let c := x.fmt s
  let k := x.sf s
  let a := attnRec s x.p x.m.aux
  let s2 : W32 := BitVec.ofNat 32 (x.m.p 0 4)
  let q := x.tns s x.m.tdA
  let slots := x.liveSlots s
  let srcs := slots.map fun (i, sl, cx) => (i, sl, localSrc cx a sl, tileWork a (localSrc cx a sl) (cx.base + sl.q0) sl.qlen)
  match (unmappedInput s x.p [(inA, q)]).or (unmappedRange s x.p (srcs.map fun (_, _, src, w) => srcRanges a src w).flatten) with
  | some e => .fail e
  | none =>
    let rows := slots.map fun (i, sl, cx) =>
      (i, (slotPartials c rd k s2 a q i (cx.base + sl.q0) sl.qlen (localSrc cx a sl)).map fun (r : RowOf) =>
        RowOf.mk r.h r.i (finishRow k a.partial_ r.part))
    let tab := (List.range x.st.slots.length).map fun i => ((rows.find? (·.1 == i)).map (·.2)).getD []
    let cnt := (rows.map fun (_, l) => l.foldl (fun n r => n.add r.part.cnt) {}).foldl ACnt.add {}
    let steps := sumNat (srcs.map fun (_, _, _, w) => stepCount w)
    let used := slots.map fun (i, sl, _) => (i, sl.qlen)
    let e := writeRows c (x.tns s x.m.tdOut) (x.statsTns s a) tab
    .eff (e.count (cnt.list ++ readCntAt c rd q (slotIndices q used)
      ++ [(oRGN_SAT_BLOCKS, sumNat (used.map fun (i, n) => querySats c rd a q i n)),
        (oRGN_SPECIAL_IN, sumNat (srcs.map fun (_, _, src, w) => srcSpecial c rd a src w)),
        (oRGN_ATTN_CHUNKS, steps), (oRGN_ATTN_MASKED, sumNat (srcs.map fun (_, _, src, w) => maskCount src w)),
        (oRGN_ATTN_SLOTS, (srcs.filter fun (_, _, _, w) => stepCount w != 0).length),
        (oRGN_ARRAY_CYCLES, steps * stepCycles a.d)]))
where
  /-- counts of reading an operand at some indices -/
  readCntAt (c : FmtCtl) (rd : Reader) (t : Tns) (ixs : List (List Nat)) : List (Nat × Nat) :=
    let n := readCountsAt c rd t ixs
    [(oRGN_SPECIAL_IN, n.1), (oRGN_BAD_CODE, n.2)]

/-- ATTN: attention of A over the slots' contexts. -/
def execAttn (m : MopRef) (s : State) : Host.Outcome State Fault Refusal := work m 0x30 (subIs 0) attnWork s

/-! ### KV_APPEND (R311-R313). -/

/-- A block as it lies in a context: the address of its codes and of its scale. -/
def placeBlk (c : FmtCtl) (codes scale : Nat) (vs : List Num) : List (Nat × Byte) × Bool :=
  let (k, cs, sat) := encodeBlock c tyE4M3 vs
  (bytesAt codes (packBlock tyE4M3 cs) ++ [(scale, BitVec.ofNat 8 k)], sat)

/-- Blocks written: bytes, the block as the canary counts it, and special elements read back. -/
structure KvBlk where
  bytes : List (Nat × Byte)
  grp : Grp
  special : Nat := 0
  deriving DecidableEq, Repr

/-- The key blocks of one new position. -/
def keyBlocks (c : FmtCtl) (rd : Reader) (t : Tns) (src : KeySrc) (d i g slot pos : Nat) : List KvBlk :=
  let a := src.at_ (pos / 32) g
  let q := pos % 32
  (List.range (d / 32)).map fun kb =>
    let (bs, sat) := placeBlk c (a + q * d + 32 * kb) (a + 32 * d + q * d / 32 + kb)
      ((List.range 32).map fun j => (valAt c rd t [32 * kb + j, i, g, slot]).1)
    { bytes := bs, grp := ⟨0, [32 * kb, i, g, slot], 32, sat⟩ }

/-- The value block of a column of a segment: `new` gives the slot and token of each position that is written; other positions below
`filled` keep their stored values, and the rest are +0 (R312). -/
def valBlock (c : FmtCtl) (rd : Reader) (t : Tns) (src : KeySrc) (d g seg j filled : Nat) (new : List (Nat × Nat × Nat)) : KvBlk :=
  let a := src.at_ seg g
  let old (q : Nat) : Num × Bool := blockVal c tyE4M3 (rd (a + 65 * d + j)).toNat (rd (a + 33 * d + 32 * j + q)).toNat
  let el (q : Nat) : Num × Nat :=
    match new.find? (·.1 == 32 * seg + q) with
    | some (_, slot, i) => ((valAt c rd t [j, i, g, slot]).1, 0)
    | none => if 32 * seg + q < filled then ((old q).1, if (old q).2 then 1 else 0) else (Num.zero, 0)
  let es := (List.range 32).map el
  let (bs, sat) := placeBlk c (a + 33 * d + 32 * j) (a + 65 * d + j) (es.map (·.1))
  let (s0, i0) := ((new.find? fun (p, _, _) => p / 32 == seg).map (·.2)).getD (0, 0)
  { bytes := bs, grp := ⟨0, [j, i0, g, s0], 1, sat⟩, special := sumNat (es.map (·.2)) }

/-- Positions that a slot writes: local position, slot, token. -/
def newPositions (i : Nat) (k : SlotLen) : List (Nat × Nat × Nat) := (List.range k.qlen).map fun t => (k.q0 + t, i, t)

/-- The work of KV_APPEND. A later slot's value stands where two slots write one position. -/
def appendWork (s : State) (x : Run) : Work :=
  let rd := rdr s x.p
  let c := x.fmt s
  let a := attnRec s x.p x.m.aux
  let ks := x.tns s x.m.tdA
  let vs := x.tns s x.m.tdB
  match unmappedInput s x.p [(inA, ks), (inB, vs)] with
  | some e => .fail e
  | none =>
    let slots := x.liveSlots s
    let keys := (slots.map fun (i, sl, cx) => ((newPositions i sl).map fun (p, _, t) =>
      ((List.range a.hkv).map fun g => keyBlocks c rd ks (localSrc cx a sl) a.d t g i p).flatten).flatten).flatten
    -- one value block for each context, head, segment and column; new values of later slots first
    let ctxs := (slots.map fun (_, sl, _) => sl.ctx).eraseDups
    let vals := (ctxs.map fun n =>
      let mine := slots.filter fun (_, sl, _) => sl.ctx == n
      let new := (mine.reverse.map fun (i, sl, _) => newPositions i sl).flatten
      let segs := sortBy (· ≤ ·) (new.map fun (p, _, _) => p / 32).eraseDups
      match mine.head? with
      | none => []
      | some (_, sl, cx) => (segs.map fun sg => ((List.range a.hkv).map fun g => (List.range a.d).map fun j =>
          valBlock c rd vs (localSrc cx a sl) a.d g sg j cx.filled new).flatten).flatten).flatten
    let all := keys ++ vals
    let used := slots.map fun (i, sl, _) => (i, sl.qlen)
    let rc (t : Tns) : Nat := (readCountsAt c rd t (slotIndices t used)).1
    .eff ({ bytes := (all.map (·.bytes)).flatten, groups := all.map (·.grp) : Eff }.count
      [(oRGN_SAT_BLOCKS, (all.filter (·.grp.sat)).length), (oRGN_SPECIAL_IN, rc ks + rc vs + sumNat (all.map (·.special))),
        (oRGN_ATTN_SLOTS, (used.filter (·.2 != 0)).length)])

/-- KV_APPEND: new keys and values for the slots' contexts. -/
def execKvAppend (m : MopRef) (s : State) : Host.Outcome State Fault Refusal := work m 0x31 (subIs 0) appendWork s

/-- FILLED after a KV_APPEND has completed: of each context that it wrote to, over every slot (R313). -/
def raiseFilled (s : State) (x : Run) : State :=
  forEach (x.st.slots.filter fun k => !k.vacant && x.st.slots.any fun j => !j.vacant && j.qlen != 0 && j.ctx == k.ctx) (fun s k => modCtx s k.ctx fun c => { c with filled := Nat.max c.filled k.k1 }) s

end Sys2Proof.Machine
end

