-- ==== Sys2Proof/Machine/AttnGrad.lean ====
section
/-! DEFINITION. ATTN_GRAD: the three sweeps over a source of keys, which HAUL_GRAD shares (R314-R316). -/

namespace Sys2Proof.Machine

/-- A row of queries as the gradient takes it: its blocks, the elements of dO, dO in blocks along the head dimension, D, the forward
statistics and RCP of their l (R315, R316). -/
structure GRow where
  h : Nat
  i : Nat
  q : List Blk
  dO : List Num
  dOd : List Blk
  dSum : W32
  st : Stat
  rl : SfRes
  deriving DecidableEq, Repr

/-- The bound of MXFP8 E5M2 × E4M3 products. -/
def bGrad : Int := boundB tyE5M2 tyE4M3

/-- Elements that a made block meets, one by one under scales of their own: integer and scale exponent, `none` for what the filler supplies
and for elements of zero blocks. -/
abbrev CrossEls : Type := List (Option (Int × Int))

/-- The sum of a made block and elements that are not blocked along the contraction: exact, with c the largest combined scale of its
pairs (DESIGN CHOICE, log 60). -/
def crossAddend (b : Int) (x : Blk) (unit : Int) (ys : CrossEls) : Option Addend :=
  let scs := ys.filterMap fun y => y.map (·.2)
  match scs with
  | [] => none
  | s0 :: _ =>
    if x.filler || x.zero then none
    else
      let lo := scs.foldl Min.min s0
      let hi := scs.foldl Max.max s0
      let sum := (List.zipWith (fun a y => match y with
        | some (v, sc) => a * v * ((2 ^ (sc - lo).toNat : Nat) : Int)
        | none => 0) x.ints ys).foldl (· + ·) 0
      some ⟨sum, x.unit + unit + x.sc + lo, x.sc + hi + b⟩

/-- Such a pair counts as skipped (R46). -/
def crossSkip (c : FmtCtl) (x : Blk) (ys : CrossEls) : Bool := c.skipZero && !x.filler && (x.zero || ys.all Option.isNone)

/-- Element `i` of a block under its scale. -/
def Blk.el (x : Blk) (i : Nat) : Option (Int × Int) := if x.filler || x.zero then none else some (nth x.ints i 0, x.sc)

/-- Add one K block of cross products to a row: `ys j` are the elements of column `j`. -/
def AccRow.addCross (r : AccRow) (c : FmtCtl) (x : Blk) (cols : List Nat) (ys : Nat → CrossEls) : AccRow × Nat :=
  let ps := cols.map ys
  (r.addBlock (ps.map (crossAddend bGrad x (tyUnit tyE4M3))), (ps.filter (crossSkip c x)).length)

/-- ln 2 as FP32. -/
abbrev ln2_32 : W32 := 0x3F317218

/-- A row's dp against a chunk: dO · V^T over the head dimension (R315). -/
def dpRow (c : FmtCtl) (r : GRow) (ch : Chunk) : AccRow × ACnt :=
  let (acc, z) := ((List.range r.dOd.length).zip r.dOd).foldl (fun (acc, z) (kb, x) =>
    let (acc', n) := acc.addCross c x (List.range 128) fun i =>
      (List.range 32).map fun j => (nth (nth ch.vals (i / 32) []) (32 * kb + j) (fillerBlk tyE4M3)).el (i % 32)
    (acc', z + n)) (AccRow.empty 128, 0)
  (acc, { spills := acc.spills, skips := z })

/-- The probabilities and ds of a row against a chunk, +0 at excluded pairs (R315). -/
def gradRow (c : FmtCtl) (k : SfCtx) (s2 : W32) (r : GRow) (see : Nat → Bool) (ch : Chunk) : List W32 × List W32 × ACnt :=
  let (sc, n1) := scores c r.q ch
  let (dp, n2) := dpRow c r ch
  let inc := (List.range 128).filter see
  let es := inc.map fun i => k.weight s2 r.st.m (in32 (sc.value i))
  let ps := es.map fun e => fMul e.code r.rl.code
  let ds := List.zipWith (fun i p => fMul (fMul (fMul p (fSub (in32 (dp.value i)) r.dSum)) s2) ln2_32) inc ps
  (scatter inc ps, scatter inc ds, (n1.add n2).add (sfCnt (es ++ [r.rl])))

/-- A query tile against a key chunk: the tile's rows with their probabilities and ds. -/
structure GPiece where
  h : Nat
  num : Nat
  rows : List GRow
  p : List (List W32)
  ds : List (List W32)
  deriving DecidableEq, Repr

/-- Blocks of a column of a tile's table along its rows, and those saturated. -/
def colBlks (ty : Nat) (tab : List (List Num)) (i : Nat) : List (Blk × Bool) :=
  (List.range (ceilDiv tab.length 32)).map fun kb => madeBlk ty (((tab.drop (32 * kb)).take 32).map fun r => nth r i Num.zero)

/-- The rows of the accumulators of a gradient row: one for each 128 columns. -/
abbrev GAcc : Type := List AccRow

/-- Empty. -/
def gEmpty (d : Nat) : GAcc := (colGroups d).map fun g => AccRow.empty g.length

/-- Exact values of a gradient row. -/
def GAcc.values (g : GAcc) : List Num := (g.map fun r => (List.range r.accs.length).map r.value).flatten

/-- Its spills. -/
def GAcc.spills (g : GAcc) : Nat := sumNat (g.map AccRow.spills)

/-- Add cross products of a made block to each group of columns. -/
def gCross (c : FmtCtl) (d : Nat) (x : Blk) (ys : Nat → CrossEls) (acc : GAcc × Nat) : GAcc × Nat :=
  let l := List.zipWith (fun (r : AccRow) cols => r.addCross c x cols ys) acc.1 (colGroups d)
  (l.map (·.1), acc.2 + sumNat (l.map (·.2)))

/-- Add products of two made blocks to each group of columns. -/
def gPairs (c : FmtCtl) (d : Nat) (x : Blk) (y : Nat → Blk) (acc : GAcc × Nat) : GAcc × Nat :=
  let l := List.zipWith (fun (r : AccRow) cols =>
    (r.addBlock (cols.map fun j => pairAddend bGrad x (y j)), pairSkips c (cols.map fun j => (x, y j)))) acc.1 (colGroups d)
  (l.map (·.1), acc.2 + sumNat (l.map (·.2)))

/-- dK and dV of one key of a chunk over the pieces of its key-value head (R315 sweep 2). -/
def keyGrads (c : FmtCtl) (d i : Nat) (pieces : List GPiece) : GAcc × GAcc × ACnt :=
  let step (acc : (GAcc × Nat) × (GAcc × Nat) × Nat) (g : GPiece) : (GAcc × Nat) × (GAcc × Nat) × Nat :=
    let (dk, dv, sat) := acc
    let ps := colBlks tyE4M3 (g.p.map (·.map f32)) i
    let dss := colBlks tyE5M2 (g.ds.map (·.map f32)) i
    let dO := (List.range d).map fun j => (colBlks tyE5M2 (g.rows.map (·.dO)) j).map (·.1)
    let dv := ((List.range ps.length).zip ps).foldl (fun a (kb, x, _) =>
      gPairs c d x (fun j => nth (nth dO j []) kb (fillerBlk tyE5M2)) a) dv
    let dk := ((List.range dss.length).zip dss).foldl (fun a (kb, x, _) =>
      gCross c d x (fun j => ((g.rows.drop (32 * kb)).take 32).map fun r => (nth r.q (j / 32) (fillerBlk tyE4M3)).el (j % 32)) a) dk
    (dk, dv, sat + ((ps ++ dss).filter (·.2)).length)
  let ((dk, z1), (dv, z2), sat) := pieces.foldl step ((gEmpty d, 0), (gEmpty d, 0), 0)
  (dk, dv, { skips := z1 + z2, sat := sat })

/-- A query row's dQ gathers one chunk (R315 sweep 3). -/
def queryGrad (c : FmtCtl) (d : Nat) (ch : Chunk) (ds : List W32) (acc : GAcc) : GAcc × ACnt :=
  let xs := (List.range 4).map fun g =>
    if (nth (nth ch.vals g []) 0 (fillerBlk tyE4M3)).filler then (fillerBlk tyE5M2, false)
    else madeBlk tyE5M2 (((ds.drop (32 * g)).take 32).map f32)
  let (r, z) := ((List.range 4).zip xs).foldl (fun a (g, x, _) =>
    gCross c d x (fun j => (List.range 32).map fun i => (nth (nth ch.keys (32 * g + i) []) (j / 32) (fillerBlk tyE4M3)).el (j % 32)) a) (acc, 0)
  (r, { skips := z, sat := (xs.filter (·.2)).length })

/-- A gradient row of a key: key-value head, local position, dK and dV. -/
structure KeyGrad where
  g : Nat
  pos : Nat
  dk : GAcc
  dv : GAcc
  deriving DecidableEq, Repr

/-- A gradient row of a query. -/
structure QueryGrad where
  h : Nat
  i : Nat
  dq : GAcc
  deriving DecidableEq, Repr

/-- What the sweeps over one source give: dK and dV of every key in range, dQ of every query carried on, and counts. -/
structure GradRes where
  keys : List KeyGrad
  queries : List QueryGrad
  cnt : ACnt
  steps : Nat
  deriving DecidableEq, Repr

/-- The sweeps of R315 over one source: `q0` is the sequence position of query 0, `qs` are the rows of dQ so far. -/
def gradSource (c : FmtCtl) (rd : Reader) (k : SfCtx) (s2 : W32) (a : AttnRec) (src : KeySrc) (q0 n : Nat) (rows : List GRow)
    (qs : List QueryGrad) : GradRes :=
  let w := tileWork a src q0 n
  let tab := (List.range a.hkv).map fun g => (usedChunks a src w g).map (chunkAt c rd src a.d g)
  let pieces := (w.map fun (h, f, r, l) =>
    let mine := rows.filter fun x => x.h == h && f ≤ x.i && x.i < f + r
    ((nth tab (a.kvHead h) []).filter fun ch => l.contains ch.num).map fun ch =>
      let rs := mine.map fun x => gradRow c k s2 x (fun i => src.has (128 * ch.num + i) && a.sees (q0 + x.i) (src.base + 128 * ch.num + i)) ch
      (GPiece.mk h ch.num mine (rs.map (·.1)) (rs.map (·.2.1)), (rs.map (·.2.2)).foldl ACnt.add {})).flatten
  let keys := ((List.range a.hkv).map fun g => (List.range (src.hi - src.lo)).map fun j =>
    let pos := src.lo + j
    let (dk, dv, cnt) := keyGrads c a.d (pos % 128) ((pieces.filter fun (p, _) => a.kvHead p.h == g && p.num == pos / 128).map (·.1))
    (KeyGrad.mk g pos dk dv, cnt)).flatten
  let queries := qs.map fun q =>
    let (dq, cnt) := (pieces.filter fun (p, _) => p.h == q.h && p.rows.any (·.i == q.i)).foldl (fun (acc, n) (p, _) =>
      let ds := (((p.rows.zip p.ds).find? fun (r, _) => r.i == q.i).map (·.2)).getD []
      match (nth tab (a.kvHead p.h) []).find? (·.num == p.num) with
      | some ch => let (acc, m) := queryGrad c a.d ch ds acc; (acc, n.add m)
      | none => (acc, n)) (q.dq, ({} : ACnt))
    (QueryGrad.mk q.h q.i dq, cnt)
  -- each chunk step runs in sweep 2 and again in sweep 3
  let once := (pieces.map (·.2)).foldl ACnt.add {}
  { keys := keys.map (·.1), queries := queries.map (·.1)
    cnt := ((once.add once).add ((keys.map (·.2)).foldl ACnt.add {})).add ((queries.map (·.2)).foldl ACnt.add {})
    steps := 2 * stepCount w }

/-- The rows of a slot: D in ascending j, in FP32, by FMA from +0 (R315 sweep 1). -/
def gradRows (c : FmtCtl) (rd : Reader) (k : SfCtx) (a : AttnRec) (q dO o stats : Tns) (slot n : Nat) : List GRow :=
  ((List.range a.hq).map fun h => (List.range n).map fun i =>
    let el (t : Tns) (j : Nat) : Num := (valAt c rd t [j, i, h, slot]).1
    let dv := (List.range a.d).map (el dO)
    let l := in32 (el stats 1)
    { h := h, i := i, q := (queryRow c rd q a.d i h slot).1, dO := dv
      dOd := (List.range (a.d / 32)).map fun kb => (madeBlk tyE5M2 ((dv.drop (32 * kb)).take 32)).1
      dSum := (List.range a.d).foldl (fun s j => fFma (in32 (nth dv j Num.zero)) (in32 (el o j)) s) 0
      st := ⟨in32 (el stats 0), l⟩, rl := k.rcp l }).flatten

/-- Blocks of dO and of the queries that saturate on their way into the array. -/
def gradSats (c : FmtCtl) (rd : Reader) (a : AttnRec) (q : Tns) (rows : List GRow) (slot n : Nat) : Nat :=
  let along := (rows.map fun r => ((List.range (a.d / 32)).filter fun kb => (madeBlk tyE5M2 ((r.dO.drop (32 * kb)).take 32)).2).length)
  let across := (List.range a.hq).map fun h => (queryTiles a.d n).map fun (f, m) =>
    let tile := (rows.filter fun r => r.h == h && f ≤ r.i && r.i < f + m).map (·.dO)
    sumNat ((List.range a.d).map fun j => ((colBlks tyE5M2 tile j).filter (·.2)).length)
  sumNat along + sumNat (across.map sumNat) + querySats c rd a q slot n

/-- The row of dQ, dK or dV that an index names, with its slot. -/
def gradElem (tab : List (Nat × Nat × Nat × List Num)) (ix : List Nat) : Option Num :=
  (tab.find? fun (s, h, i, _) => s == nth ix 3 0 && h == nth ix 2 0 && i == nth ix 1 0).map fun (_, _, _, l) => nth l (nth ix 0 0) Num.zero

/-- Write the rows of a gradient: slot, head, index and exact values. -/
def writeGrad (c : FmtCtl) (t : Tns) (tab : List (Nat × Nat × Nat × List Num)) : Written :=
  writeTensorAt c t (fun ix => (gradElem tab ix).isSome) fun ix => (gradElem tab ix).getD Num.zero

/-- Empty rows of dQ. -/
def noQueryGrads (a : AttnRec) (n : Nat) : List QueryGrad :=
  ((List.range a.hq).map fun h => (List.range n).map fun i => QueryGrad.mk h i (gEmpty a.d)).flatten

/-- The effects of writing the gradients of slots: those of a queries' and a keys' table, with the counts of forming them. -/
def gradEff (s : State) (x : Run) (a : AttnRec) (qs : List (Nat × QueryGrad)) (ks : List (Nat × Nat × KeyGrad)) (cnt : ACnt) (steps : Nat) : Eff :=
  let c := x.fmt s
  let dq := writeGrad c (x.tns s x.m.tdOut) (qs.map fun (i, q) => (i, q.h, q.i, q.dq.values))
  let dk := writeGrad c (x.tns s a.dk) (ks.map fun (i, k0, g) => (i, g.g, g.pos - k0, g.dk.values))
  let dv := writeGrad c (x.tns s a.dv) (ks.map fun (i, k0, g) => (i, g.g, g.pos - k0, g.dv.values))
  let spills := sumNat (qs.map fun (_, q) => q.dq.spills) + sumNat (ks.map fun (_, _, g) => g.dk.spills + g.dv.spills)
  ((dq.append dk).append dv).eff.count (cnt.list ++ [(oRGN_SPILLS, spills), (oRGN_ATTN_CHUNKS, steps)])

/-- Inputs of a gradient, with their structures. -/
def gradInputs (s : State) (x : Run) (a : AttnRec) : List (Nat × Tns) :=
  [(inA, x.tns s x.m.tdA), (inB, x.tns s x.m.tdB), (inC, x.tns s x.m.tdC), (inAux, x.tns s a.stats)]

/-- Counts of reading the operands of a gradient over the queries of slots. -/
def gradReads (s : State) (x : Run) (a : AttnRec) (used : List (Nat × Nat)) : List (Nat × Nat) :=
  ((gradInputs s x a).map fun (_, t) =>
    let n := readCountsAt (x.fmt s) (rdr s x.p) t (slotIndices t used)
    [(oRGN_SPECIAL_IN, n.1), (oRGN_BAD_CODE, n.2)]).flatten

/-- The work of ATTN_GRAD (R314-R316). -/
def gradWork (s : State) (x : Run) : Work :=
  let rd := rdr s x.p
  let c := x.fmt s
  let k := x.sf s
  let a := attnRec s x.p x.m.aux
  let slots := x.liveSlots s
  let q := x.tns s x.m.tdA
  let srcs := slots.map fun (_, sl, cx) => (localSrc cx a sl, tileWork a (localSrc cx a sl) (cx.base + sl.q0) sl.qlen)
  match (unmappedInput s x.p (gradInputs s x a)).or (unmappedRange s x.p (srcs.map fun (src, w) => srcRanges a src w).flatten) with
  | some e => .fail e
  | none =>
    let res := slots.map fun (i, sl, cx) =>
      let rows := gradRows c rd k a q (x.tns s x.m.tdB) (x.tns s x.m.tdC) (x.tns s a.stats) i sl.qlen
      (i, sl, gradSats c rd a q rows i sl.qlen,
        gradSource c rd k (BitVec.ofNat 32 (x.m.p 0 4)) a (localSrc cx a sl) (cx.base + sl.q0) sl.qlen rows (noQueryGrads a sl.qlen))
    let cnt := (res.map fun (_, _, sat, r) => r.cnt.add { sat := sat }).foldl ACnt.add {}
    let e := gradEff s x a (res.map fun (i, _, _, r) => r.queries.map fun q => (i, q)).flatten
      (res.map fun (i, sl, _, r) => r.keys.map fun g => (i, sl.k0, g)).flatten cnt (sumNat (res.map fun (_, _, _, r) => r.steps))
    .eff (e.count (gradReads s x a (slots.map fun (i, sl, _) => (i, sl.qlen))
      ++ [(oRGN_SPECIAL_IN, sumNat (srcs.map fun (src, w) => srcSpecial c rd a src w)),
        (oRGN_ATTN_SLOTS, (srcs.filter fun (_, w) => stepCount w != 0).length),
        (oRGN_ATTN_MASKED, sumNat (srcs.map fun (src, w) => maskCount src w))]))

/-- ATTN_GRAD: OUT = dQ, with dK and dV through the record. -/
def execAttnGrad (m : MopRef) (s : State) : Host.Outcome State Fault Refusal := work m 0x32 (subIs 0) gradWork s

end Sys2Proof.Machine
end

