-- ==== Sys2Proof/Machine/Haul.lean ====
section
/-! DEFINITION. Haulage: shards, need sets, tub areas, the chunks that a module sends, receives and forwards, HAUL_SEND, HAUL_ATTN and
HAUL_GRAD (R319-R345). -/

namespace Sys2Proof.Machine

/-! ### Geometry (R319-R323, R332, R336). -/

/-- What fixes a haul on a module: ranks, record, shards, and the reaches. -/
structure HaulGeo where
  p : Nat
  me : Nat
  n : Nat
  a : AttnRec
  h : HaulRec
  shards : List (Nat × Nat)
  rf : Nat
  rb : Nat
  deriving DecidableEq, Repr

/-- START and LENGTH of a rank's shard. -/
def HaulGeo.shard (g : HaulGeo) (r : Nat) : Nat × Nat := nth g.shards r (0, 0)

/-- The key chunks of a shard of `n` positions. -/
def shardChunks (n : Nat) : List Nat := List.range (ceilDiv n 128)

/-- Chunk `ch` of shard `src` makes work with some query tile of shard `dst` (R321): the tiles of a shard join into one interval. -/
def needs (a : AttnRec) (dst src : Nat × Nat) (ch : Nat) : Bool :=
  a.works dst.1 (dst.1 + dst.2 - 1) (src.1 + 128 * ch) (src.1 + Nat.min (128 * ch + 128) src.2 - 1)

/-- The need set N(i, j), ascending (R321). -/
def HaulGeo.need (g : HaulGeo) (i j : Nat) : List Nat := (shardChunks (g.shard j).2).filter (needs g.a (g.shard i) (g.shard j))

/-- The furthest reach over pairs of ranks: forward, destinations above their sources (R321). -/
def reach (a : AttnRec) (sh : List (Nat × Nat)) (back : Bool) : Nat :=
  maxNat ((List.range sh.length).map fun i => maxNat ((List.range i).map fun j =>
    let dst := nth sh (if back then j else i) (0, 0)
    let src := nth sh (if back then i else j) (0, 0)
    if (shardChunks src.2).any (needs a dst src) then i - j else 0))

/-- The geometry that the attention record at `aux` describes on this module. -/
def haulGeo (s : State) (p aux : Nat) : HaulGeo :=
  let a := attnRec s p aux
  let h := haulRec s p a.haul
  let sh := (List.range (sliceSize s p)).map (shardAt s p h)
  { p := p, me := myRank s p, n := sliceSize s p, a := a, h := h, shards := sh, rf := reach a sh false, rb := reach a sh true }

/-- Closed mode (R322). -/
def HaulGeo.closed (g : HaulGeo) : Bool := !(g.rf + g.rb < g.n - 1 && !bit g.h.hflags 0)

/-- The destinations of a source's tub in ascending step (R322). -/
def HaulGeo.dests (g : HaulGeo) (back : Bool) (j : Nat) : List Nat :=
  if g.closed then (if back then [] else (List.range (g.n - 1)).map fun k => (j + k + 1) % g.n)
  else if back then ((List.range g.rb).filter fun k => k + 1 ≤ j).map fun k => j - k - 1
  else ((List.range g.rf).filter fun k => j + k + 1 < g.n).map fun k => j + k + 1

/-- The chunks of a tub at step `k` + 1, ascending (R323). -/
def HaulGeo.tub (g : HaulGeo) (back : Bool) (j k : Nat) : List Nat :=
  let later := (g.dests back j).drop k
  (shardChunks (g.shard j).2).filter fun ch => later.any fun i => needs g.a (g.shard i) (g.shard j) ch

/-- Segments of a chunk of a shard. -/
def HaulGeo.segs (g : HaulGeo) (j ch : Nat) : Nat := Nat.min 4 (ceilDiv ((g.shard j).2 - 128 * ch) 32)

/-- Bytes of a segment in a tub and in a gradient tub (R324). -/
def HaulGeo.segBytes (g : HaulGeo) (grad : Bool) : Nat := g.a.hkv * (if grad then 256 else 66) * g.a.d

/-- Bytes of some chunks of a shard. -/
def HaulGeo.bytes (g : HaulGeo) (grad : Bool) (j : Nat) (chs : List Nat) : Nat := sumNat (chs.map fun ch => g.segs j ch * g.segBytes grad)

/-- Steps in a direction. -/
def HaulGeo.steps (g : HaulGeo) (back : Bool) : Nat := if g.closed then (if back then 0 else g.n - 1) else if back then g.rb else g.rf

/-- The term of a step in the tub requirement, the tub area's slot for it (R332). -/
def HaulGeo.term (g : HaulGeo) (grad back : Bool) (k : Nat) : Nat :=
  roundUp (maxNat ((List.range g.n).map fun j => if k < (g.dests back j).length then g.bytes grad j (g.tub back j k) else 0)) Config.pageLarge

/-- The slots of the tub area in order: gradient, direction, step (DESIGN CHOICE, log 61). -/
def HaulGeo.slots (g : HaulGeo) (withGrad : Bool) : List (Bool × Bool × Nat) :=
  let one (grad : Bool) : List (Bool × Bool × Nat) :=
    (List.range (g.steps false)).map (fun k => (grad, false, k)) ++ (List.range (g.steps true)).map fun k => (grad, true, k)
  one false ++ if withGrad then one true else []

/-- The tub requirement (R332). -/
def HaulGeo.required (g : HaulGeo) (withGrad : Bool) : Nat := sumNat ((g.slots withGrad).map fun (gr, b, k) => g.term gr b k)

/-- Where chunk `ch` of a tub stands in the tub area. -/
def HaulGeo.place (g : HaulGeo) (grad back : Bool) (j k ch : Nat) : Nat :=
  g.h.area + sumNat (((g.slots true).takeWhile (· != (grad, back, k))).map fun (gr, b, i) => g.term gr b i)
    + g.bytes grad j ((g.tub back j k).filter (· < ch))

/-- The tubs that visit this module, in merge order: direction, source, step - 1 (R336). -/
def HaulGeo.visits (g : HaulGeo) : List (Bool × Nat × Nat) :=
  if g.closed then (List.range (g.n - 1)).map fun k => (false, (g.me + g.n - k - 1) % g.n, k)
  else
    ((List.range (Nat.max g.rf g.rb)).map fun k =>
      (if k < g.rf && k + 1 ≤ g.me then [(false, g.me - k - 1, k)] else [])
        ++ if k < g.rb && g.me + k + 1 < g.n then [(true, g.me + k + 1, k)] else []).flatten

/-- The step - 1 at which a tub visits a module, if it does. -/
def HaulGeo.stepAt (g : HaulGeo) (back : Bool) (j i : Nat) : Option Nat :=
  (List.range (g.dests back j).length).find? fun k => nth (g.dests back j) k g.n == i

/-- A visiting tub as a source of keys. -/
def HaulGeo.src (g : HaulGeo) (back : Bool) (j k : Nat) : KeySrc :=
  ⟨(g.shard j).1, 0, (g.shard j).2, fun sg h => g.place false back j k (sg / 4) + (sg % 4 * g.a.hkv + h) * 66 * g.a.d⟩

/-! ### Ports of the rank ring (R326). -/

/-- The port of the first hop of a step to the next or the previous rank; what the next rank sends this way arrives by it. -/
def stepPort (s : State) (p : Nat) (back : Bool) : Nat :=
  let b := sliceBox s p
  let o (a : Nat) : Nat := boxOff s b a (coord s a)
  let n (a : Nat) : Nat := nth b.extent a 1
  if !back then
    if o 0 + 1 < n 0 then 3
    else if n 0 > 1 then 0
    else if o 1 + 1 < n 1 then 4
    else if n 1 > 1 then 1
    else if o 2 + 1 < n 2 then 5 else 2
  else if o 0 > 0 then 0
  else if o 1 > 0 then 1
  else if o 2 > 0 then 2
  else if n 2 > 1 then 5
  else if n 1 > 1 then 4 else 3

/-- A tub chunk is handed to its port, on the haulage channel (R327). -/
def sendChunk (s : State) (p : Nat) (back : Bool) (h : TubHdr) (data : Bytes) : State :=
  let port := stepPort s p back
  sendOn s port 1 p (32 + data.length) (.chunk port h data)

/-- A chunk of a haul waits on a port. -/
def chunkWaits (s : State) (p id : Nat) : Bool :=
  s.links.ports.any fun x => x.wait.any fun w => match w.item with | .chunk _ h _ => h.tag == p && h.haulId == id | _ => false

/-! ### Checks of admission (R319, R329-R332). -/

/-- A haul record, its shard table and its tub area (R319, R330, R332); failures name HAUL_PTR. Its ranks are those of the slice; while the
slice is not valid, what needs them is not checked, and step 2 refuses the request (R357). -/
def Env.haulRecord (e : Env) (m : Mop) (grad : Bool) : Option Check :=
  let bad := badDesc inAux 0x50
  let a := attnRec e.s e.p m.aux
  let h := haulRec e.s e.p a.haul
  let b := vread e.s e.p a.haul 64
  let slice := (sliceBox e.s e.p).valid
  let n := if slice then sliceSize e.s e.p else h.nrank
  let sh (r : Nat) : Nat × Nat := shardAt e.s e.p h r
  let fields := atField (firstBad [
    e.ptr a.haul 64 64 inAux 0x50,
    need (h.id != 0 && h.nrank != 0 && h.nrank == n && h.hflags < 2 && fld b 7 1 == 0 && allZero (b.drop 0x20)) bad,
    e.ptr h.shards 8 (8 * n) inAux 0x50,
    need (h.area % Config.pageLarge == 0 && !bit h.area 59 && h.bytes % Config.pageLarge == 0) bad,
    need ((List.range n).all fun r => 1 ≤ (sh r).2 && (r == 0 || (sh r).1 == (sh (r - 1)).1 + (sh (r - 1)).2)) bad,
    need ((sh (n - 1)).1 + (sh (n - 1)).2 ≤ 2 ^ 24) (some ⟨stLength, inAux, 0x50⟩)]) inAux 0x50
  match fields, slice with
  | some c, _ => some c
  | none, false => none
  | none, true =>
    let g := haulGeo e.s e.p m.aux
    atField (firstBad [
      need (g.required grad ≤ h.bytes) bad,
      e.extent true h.area h.bytes inAux 0x50,
      need ((pageSteps h.area h.bytes).all fun v => match translate e.s e.p v with | some t => !t.flash && t.pin | none => false) bad])
      inAux 0x50

/-- Fields that a haulage opcode's record has beyond those of attention (R329). -/
def Env.haulFields (e : Env) (m : Mop) (grad : Bool) : Option Check :=
  let a := attnRec e.s e.p m.aux
  firstBad [
    e.attnFields m false 128,
    need (grad || a.dk == 0) (badDesc inAux 0x40), need (grad || a.dv == 0) (badDesc inAux 0x48),
    need (allZero ((vread e.s e.p m.aux 128).drop 0x58)) (badDesc inAux 0x58)]

/-- HAUL_SEND; whether its haul is a gradient's is known from the list (R333). -/
def Env.haulSend (e : Env) (m : Mop) (grad : Bool) : Option Check :=
  firstBad [
    e.form m { bucket := .no, lengths := .must, aux := .must } (· == 0) 0, noNarrow m,
    e.haulFields m false, e.lengthsAt m, e.haulRecord m grad]

/-- HAUL_ATTN (R334). -/
def Env.haulAttn (e : Env) (m : Mop) : Option Check :=
  let a := attnRec e.s e.p m.aux
  firstBad [
    e.form m { out := .must, a := .must, c := .must, bucket := .no, lengths := .must, aux := .must } (· == 0) 4,
    noNarrow m, e.allPlain m, e.haulFields m false, e.queryOk m tyQuery a.d a.hq,
    need (slotCount e.s e.p m == 1) (badDesc inA 0x20),
    e.likeA m m.tdC inC, e.tyIn m m.tdC inC (· == tyFP32), e.likeA m m.tdOut inOut, e.tyIn m m.tdOut inOut tyMatOut,
    need (!a.partial_) (badDesc inAux 6), need (a.stats != 0) (badDesc inAux 0x38), e.statsRec m true a, e.lengthsAt m,
    e.haulRecord m false]

/-- HAUL_GRAD (R335): the LENGTH of its slot is that of this module's shard, so that KMAX is checked here (R314, R320). -/
def Env.haulGrad (e : Env) (m : Mop) : Option Check :=
  let a := attnRec e.s e.p m.aux
  firstBad [e.gradCommon m, e.haulFields m true, need (slotCount e.s e.p m == 1) (badDesc inA 0x20), e.haulRecord m true,
    need (!(sliceBox e.s e.p).valid || (shardAt e.s e.p (haulRec e.s e.p a.haul) (myRank e.s e.p)).2 ≤ (tensor e.s e.p a.dk [] []).dim 1)
      (badDesc inAux 0x40)]

/-- The tensors that a macro-op names, its record's and its layer's pass record's among them. -/
def Env.allTensors (e : Env) (m : Mop) : List Tns :=
  let a := attnRec e.s e.p m.aux
  let more := if m.opcode == 0x30 || m.opcode == 0x32 || isHaul m.opcode then
      [a.stats] ++ (if m.opcode == 0x32 || m.opcode == 0x3A then [a.dk, a.dv] else [])
    else []
  let pass := if m.layer != 0 then vnat e.s e.p (m.layer + 0x18) 8 else 0
  (([m.tdOut, m.tdA, m.tdB, m.tdC] ++ more).filter (· != 0)).map (e.tns m)
    ++ (if m.opcode == 0xF4 || m.opcode == 0xF5 then (ckptRec e.s e.p m.aux).tensors e.s e.p else [])
    ++ if pass != 0 then passInputs e.s e.p pass else []

/-- Two ranges of one space overlap. -/
def vaOverlap (a n b m : Nat) : Bool := n != 0 && m != 0 && a < b + m && b < a + n

/-- The index of the consumer of a HAUL_SEND's haul, the fields that decide the need sets, and the tub area, hold over a list (R329, R331,
R332); `none` for a list that obeys. The failing macro-op's index comes with the check. -/
def Env.haulList (e : Env) (ms : List Mop) : Option (Nat × Check) :=
  let im := (List.range ms.length).zip ms
  let hauls := im.filter fun (_, m) => isHaul m.opcode
  let key (m : Mop) : List Nat :=
    let a := attnRec e.s e.p m.aux
    [a.haul, a.hq, a.hkv, a.headDim, a.layer, if a.band then 1 else 0, a.nanchor, a.g, a.back, a.fwd]
      ++ (a.anchors.map fun (x, y) => [x, y]).flatten
  let one (i : Nat) (m : Mop) : Option Check :=
    let id := haulIdOf e.s e.p m
    let same := hauls.filter fun (_, k) => haulIdOf e.s e.p k == id
    let bad := badDesc inAux 0x50
    match same with
    | [(i0, x), (_, y)] =>
      if !(x.opcode == 0x38 && y.opcode != 0x38) || (i != i0 && key x != key y) then bad
      else
        let h := haulRec e.s e.p (attnRec e.s e.p m.aux).haul
        need (!(ms.any fun k => (e.allTensors k).any fun t =>
          vaOverlap h.area h.bytes t.td.base (extentBytes t) || (tyBlocked t.td.ty && vaOverlap h.area h.bytes t.td.scale (scaleBytes t)))) bad
    | _ => bad
  hauls.findSome? fun (i, m) => (one i m).map fun c => (i, c)

/-- RTR_HAUL_LAST after an admission of a list (R332). -/
def noteHaul (s : State) (p : Nat) (m : Mop) (grad : Bool) : State :=
  let g := haulGeo s p m.aux
  setReg s pgRTR oRTR_HAUL_LAST (at_ (g.rf % 1024) 54 + at_ (g.rb % 1024) 44 + flag g.closed 43 + g.required grad / 2 ^ 20)

/-! ### Hauls in flight. -/

/-- The haul of a partition with an id. -/
def haul? (s : State) (p id : Nat) : Option Haul := s.links.hauls.find? fun h => h.part == p && h.id == id

/-- Update it. -/
def modHaul (s : State) (p id : Nat) (f : Haul → Haul) : State :=
  { s with links := { s.links with hauls := updFirst (fun h => h.part == p && h.id == id) f s.links.hauls } }

/-- The tub area of a HAUL_SEND overlaps that of no other haul in flight in its partition (R331). -/
def tubAreaFree (s : State) (r : Request) (i : Nat) (m : Mop) : Bool :=
  let mine := haulRec s r.part (attnRec s r.part m.aux).haul
  (haulsOf s r.part).all fun h =>
    (h.req == r.id && h.mop == i)
      || (match req? s h.req with
        | some q =>
          let o := haulRec s r.part (attnRec s r.part (mopOf s q h.mop).aux).haul
          !vaOverlap mine.area mine.bytes o.area o.bytes
        | none => true)

/-- The macro-op that consumes the haul of a request. -/
def haulConsumer (s : State) (r : Request) (id : Nat) : Option (Nat × Mop) :=
  ((List.range r.nops).map fun i => (i, mopOf s r i)).find? fun (_, m) =>
    (m.opcode == 0x39 || m.opcode == 0x3A) && haulIdOf s r.part m == id

/-- Geometry, consumer's index and kind of a haul in flight. -/
def haulInfo (s : State) (h : Haul) : Option (HaulGeo × Mop × Bool) :=
  match req? s h.req with
  | some r =>
    let m := mopOf s r h.mop
    some (haulGeo s h.part m.aux, m, (haulConsumer s r h.id).any fun (_, c) => c.opcode == 0x3A)
  | none => none

/-- Chunks of visiting tubs that have not landed. -/
def HaulGeo.missing (g : HaulGeo) (h : Haul) : Bool :=
  g.visits.any fun (back, j, k) => (g.tub back j k).any fun ch => !h.got.contains (if back then 1 else 0, j, ch)

/-- Gradient chunks that come back to this module: DIR, destination and chunk, in the order in which they are added (R335). -/
def HaulGeo.gradIn (g : HaulGeo) : List (Nat × Nat × Nat) :=
  ((List.range g.n).map fun k => ([false, true].map fun back =>
    match (g.dests back g.me)[k]? with
    | some i => (g.need i g.me).map fun ch => (if back then 3 else 2, i, ch)
    | none => []).flatten).flatten

/-- Gradient chunks that pass through this module toward their source: DIR, source and chunk. -/
def HaulGeo.gradThrough (g : HaulGeo) : List (Nat × Nat × Nat) :=
  ((List.range g.n).map fun j => ([false, true].map fun back =>
    match g.stepAt back j g.me with
    | some k => (((g.dests back j).drop (k + 1)).map fun i => (g.need i j).map fun ch => (if back then 3 else 2, j, ch)).flatten
    | none => []).flatten).flatten

/-- How often an element stands in a list. -/
def occurs (l : List (Nat × Nat × Nat)) (x : Nat × Nat × Nat) : Nat := (l.filter (· == x)).length

/-- Every gradient chunk has come back and every one for another module has been passed on. -/
def HaulGeo.gradsDone (g : HaulGeo) (h : Haul) : Bool :=
  g.gradIn.all (h.got.contains ·) && g.gradThrough.all fun x => occurs g.gradThrough x ≤ occurs h.passed x

/-- The bytes of a chunk of this module's own context (R324, R333). -/
def ownChunk (s : State) (g : HaulGeo) (c : Ctx) (ch : Nat) : Bytes :=
  ((List.range (g.segs g.me ch)).map fun i =>
    vread s g.p (ctxVa c.index ((4 * ch + i) * c.seg + g.a.layer * g.segBytes false)) (g.segBytes false)).flatten

/-- The header of a chunk. -/
def HaulGeo.hdr (g : HaulGeo) (h : Haul) (dir j ch : Nat) : TubHdr :=
  ⟨g.p, h.id, j, g.a.layer, h.exec, dir, ch, g.segs j ch⟩

/-- Send this module's own tubs (R323, R325). -/
def sendOwn (s : State) (g : HaulGeo) (h : Haul) (c : Ctx) : State :=
  let s := forEach [false, true] (fun s back =>
    if (g.dests back g.me).isEmpty then s
    else forEach (g.tub back g.me 0) (fun s ch =>
      let data := ownChunk s g c ch
      bump (sendChunk s g.p back (g.hdr h (if back then 1 else 0) g.me ch) data) pgRTR oRTR_TUB_SENT data.length) s) s
  modHaul s g.p h.id fun h => { h with sent := true }

/-! ### Chunks that arrive (R325, R342, R343). -/

/-- A stray (R343). -/
def strayChunk (s : State) (p : Nat) : State := settle (jobFault (raise (bump s pgRTR oRTR_HAUL_STRAY 1) pgRTR 0x12) p)

/-- Hold a chunk back on the haulage channel (R327, R333, R342). -/
def holdChunk (s : State) (h : TubHdr) (data : Bytes) : State :=
  { s with links := { s.links with heldChunks := s.links.heldChunks ++ [⟨h, data⟩] } }

/-- A chunk lands in the tub area. -/
def landChunk (s : State) (g : HaulGeo) (id : Nat) (mark : Nat × Nat × Nat) (va : Nat) (data : Bytes) : State :=
  let s := bump (vstore g.p (bytesAt va data) s) pgRTR oRTR_TUB_RECV data.length
  modHaul s g.p id fun h => { h with got := h.got ++ [mark] }

/-- A chunk that has landed goes on, from the tub area (R325). -/
def forwardChunk (s : State) (g : HaulGeo) (h : Haul) (dir j ch : Nat) : State :=
  let data := vread s g.p (g.place false (dir == 1) j ((g.stepAt (dir == 1) j g.me).getD 0) ch) (g.segs j ch * g.segBytes false)
  bump (sendChunk s g.p (dir == 1) (g.hdr h dir j ch) data) pgRTR oRTR_TUB_FWD data.length

/-- Chunks that landed before this module's own tubs had gone go on after them, in ascending step and chunk (R325). -/
def forwardDue (s : State) (g : HaulGeo) (h : Haul) : State :=
  let step (x : Nat × Nat × Nat) : Nat := (g.stepAt (x.1 == 1) x.2.1 g.me).getD 0
  let l := sortBy (fun x y => step x < step y || (step x == step y && x.2.2 ≤ y.2.2)) h.due
  modHaul (forEach l (fun s (d, j, ch) => forwardChunk s g h d j ch) s) g.p h.id fun h => { h with due := [] }

/-- A chunk of a forward or backward tub: it lands, and goes on where a later destination needs it, once this module's own tubs have gone
(R323, R325). -/
def tubArrives (s : State) (g : HaulGeo) (x : Haul) (h : TubHdr) (data : Bytes) : State :=
  let back := h.dir == 1
  let mark := (h.dir, h.srcRank, h.chunk)
  match g.stepAt back h.srcRank g.me with
  | none => strayChunk s g.p
  | some k =>
    if !(g.tub back h.srcRank k).contains h.chunk || x.got.contains mark then strayChunk s g.p
    else
      let s := landChunk s g x.id mark (g.place false back h.srcRank k h.chunk) data
      if k + 1 < (g.dests back h.srcRank).length && (g.tub back h.srcRank (k + 1)).contains h.chunk then
        if x.sent then bump (sendChunk s g.p back h data) pgRTR oRTR_TUB_FWD data.length
        else modHaul s g.p x.id fun x => { x with due := x.due ++ [mark] }
      else bump s pgRTR oRTR_TUB_DROPPED 1

/-- A chunk of a gradient tub: it lands at its source, as that of the next destination by step, or goes on toward it once this module has
sent its own (R325, R335). -/
def gradArrives (s : State) (g : HaulGeo) (x : Haul) (grad : Bool) (h : TubHdr) (data : Bytes) : State :=
  let back := h.dir == 3
  if !grad then strayChunk s g.p
  else if h.srcRank == g.me then
    match g.gradIn.find? fun (d, i, ch) => d == h.dir && ch == h.chunk && !x.got.contains (d, i, ch) with
    | none => strayChunk s g.p
    | some (d, i, ch) => landChunk s g x.id (d, i, ch) (g.place true back g.me ((g.stepAt back g.me i).getD 0) ch) data
  else
    let mark := (h.dir, h.srcRank, h.chunk)
    if occurs g.gradThrough mark ≤ occurs x.passed mark then strayChunk s g.p
    else if !x.gradSent then holdChunk s h data
    else
      let s := bump (sendChunk s g.p (!back) h data) pgRTR oRTR_TUB_FWD data.length
      modHaul s g.p x.id fun h => { h with passed := h.passed ++ [mark] }

/-- A chunk reaches this module: held back until its HAUL_SEND has begun and its execution has come, discarded when its execution is
past, else taken (R333, R342, R343). -/
def chunkArrives (s : State) (h : TubHdr) (data : Bytes) : State :=
  match haul? s h.tag h.haulId with
  | none => holdChunk s h data
  | some x =>
    if h.exec < x.exec then s
    else if h.exec > x.exec then holdChunk s h data
    else
      match haulInfo s x with
      | none => s
      | some (g, _, grad) =>
        if h.layer != g.a.layer || h.srcRank ≥ g.n || h.dir > 3 || h.segs != g.segs h.srcRank h.chunk || h.segs == 0
            || data.length != h.segs * g.segBytes (h.dir ≥ 2) then strayChunk s h.tag
        else if h.dir < 2 then tubArrives s g x h data
        else gradArrives s g x grad h data

/-- TUB_CHUNK_RECEIVE: a tub chunk arrives, lands, and goes on where a later module needs it. -/
def execTubChunkReceive (h : TubHdr) (data : Bytes) (s : State) : Host.Outcome State Fault Refusal :=
  .next (if !serving s || h.tag ≥ 16 || !(sliceBox s h.tag).valid then s
    else
      let port := stepPort s h.tag (h.dir == 0 || h.dir == 3)
      chunkArrives (rxOn s port (32 + data.length)) h data)

/-- Take again the chunks of a haul that are held back. -/
def releaseChunks (s : State) (p id : Nat) : State :=
  let mine (c : HeldChunk) : Bool := c.hdr.tag == p && c.hdr.haulId == id
  forEach (s.links.heldChunks.filter mine) (fun s c => chunkArrives s c.hdr c.data)
    { s with links := { s.links with heldChunks := s.links.heldChunks.filter fun c => !mine c } }

/-! ### HAUL_SEND. -/

/-- A HAUL_SEND passes step 3: the haul is in flight, and chunks held back for it land (R331, R333); `none` when another haul of its
partition with its id is in flight. -/
def beginHaul (s : State) (x : Run) : Option State :=
  let id := haulIdOf s x.p x.m
  match haul? s x.p id with
  | some h => if h.req == x.r.id && h.mop == x.i then some (start s id) else none
  | none => some (start s id)
where
  /-- the haul begins, or begins again in a higher execution -/
  start (s : State) (id : Nat) : State :=
    let h : Haul := { id := id, req := x.r.id, mop := x.i, part := x.p, exec := x.st.exec }
    let rest := s.links.hauls.filter fun h => !(h.part == x.p && h.id == id)
    releaseChunks (fldSet { s with links := { s.links with hauls := rest ++ [h] } } pgRTR oRTR_HAUL_STAT 63 32 id) x.p id

/-- The haul that a haulage macro-op belongs to, with its geometry. -/
def Run.haul (s : State) (x : Run) : Option (Haul × HaulGeo × Bool) :=
  (haul? s x.p (haulIdOf s x.p x.m)).bind fun h => if h.req == x.r.id then (haulInfo s h).map fun (g, _, grad) => (h, g, grad) else none

/-- The context of the one slot of a haulage macro-op. -/
def Run.haulCtx (s : State) (x : Run) : Option Ctx := (x.st.slots.head?).bind fun k => ctx? s k.ctx

/-- HAUL_SEND is done when every chunk that comes to the module has come and every one that it sends or forwards has left it (R333). -/
def sendDone (s : State) (x : Run) (g : HaulGeo) : State :=
  match haul? s x.p (haulIdOf s x.p x.m) with
  | some h => if g.missing h || chunkWaits s x.p h.id then s else markWorked s x
  | none => s

/-- HAUL_SEND: sends this module's tubs, and then what has come and goes on (R325, R333). -/
def haulSend (s : State) (x : Run) : State :=
  match x.haul s, x.haulCtx s with
  | some (h, g, _), some c =>
    let chs := (if (g.dests false g.me).isEmpty then [] else g.tub false g.me 0)
      ++ if (g.dests true g.me).isEmpty then [] else g.tub true g.me 0
    let ranges := (chs.map fun ch => (List.range (g.segs g.me ch)).map fun i =>
      (inLengths, ctxVa c.index ((4 * ch + i) * c.seg + g.a.layer * g.segBytes false), g.segBytes false)).flatten
    if h.sent then sendDone s x g
    else
      match unmappedRange s x.p ranges with
      | some e => finish s x (.fail e)
      | none =>
        sendDone (forwardDue (sendOwn s g h c) g h) x g
  | _, _ => s

/-- HAUL_SEND: sends this module's tubs; receives and forwards the haul's tubs. -/
def execHaulSend (m : MopRef) (s : State) : Host.Outcome State Fault Refusal :=
  .next (match ready? s m 0x38 (subIs 0) with
    | some x => haulSend s x
    | none => s)

/-- A haul is over once both of its macro-ops have completed (R331). -/
def endHaul (s : State) (p id : Nat) : State :=
  bump { s with links := { s.links with hauls := s.links.hauls.filter fun h => !(h.part == p && h.id == id) } } pgRTR oRTR_HAULS 1

/-! ### HAUL_ATTN (R334). -/

/-- A tile's key chunks of a visiting tub have all landed. -/
def tubHere (h : Haul) (v : Bool × Nat × Nat) (chs : List Nat) : Bool :=
  chs.all fun ch => h.got.contains (if v.1 then 1 else 0, v.2.1, ch)

/-- How many visiting tubs, in merge order, tile `t` of a HAUL_ATTN may have merged by now: the merge of a tub waits for that of the tub
before it. `work` gives the tiles of each tub with the chunks that make work. -/
def HaulGeo.mayMerge (g : HaulGeo) (h : Haul) (work : List (List (Nat × Nat × Nat × List Nat))) (t : Nat) : Nat :=
  ((g.visits.zip work).takeWhile fun (v, w) => tubHere h v (nth w t (0, 0, 0, [])).2.2.2).length

/-- The tiles' work of every visiting tub. -/
def tubWork (g : HaulGeo) (a : AttnRec) (n : Nat) : List (List (Nat × Nat × Nat × List Nat)) :=
  g.visits.map fun (back, j, i) => tileWork a (g.src back j i) (g.shard g.me).1 n

/-- Tubs that each query tile has merged, once this command has merged what has landed. -/
def haulMerged (s : State) (x : Run) (h : Haul) (g : HaulGeo) (n : Nat) : List Nat :=
  let work := tubWork g (attnRec s x.p x.m.aux) n
  let tiles := (tileWork (attnRec s x.p x.m.aux) (g.src false g.me 0) (g.shard g.me).1 n).length
  (List.range tiles).map fun t => Nat.max (nth h.merged t 0) (g.mayMerge h work t)

/-- The work of HAUL_ATTN: each query tile merges the tubs whose chunks have landed, and the running partial stays in C and in the statistics;
once every tile has merged every tub, the rows are finished (log 62). -/
def haulAttnWork (s : State) (x : Run) : Work :=
  match x.haul s, x.st.slots.head? with
  | some (h, g, _), some sl =>
    let rd := rdr s x.p
    let c := x.fmt s
    let k := x.sf s
    let a := attnRec s x.p x.m.aux
    let s2 : W32 := BitVec.ofNat 32 (x.m.p 0 4)
    let q := x.tns s x.m.tdA
    let run := x.tns s x.m.tdC
    match x.statsTns s a with
    | none => .hold
    | some st =>
      match unmappedInput s x.p [(inA, q), (inC, run), (inAux, st)] with
      | some e => .fail e
      | none =>
        let q0 := (g.shard g.me).1
        let n := sl.qlen
        let upto := haulMerged s x h g n
        let done : Bool := upto.all (· == g.visits.length)
        let tile (hd i : Nat) : Nat := hd * ceilDiv n (tileRows a.d) + i / tileRows a.d
        let tubs : List (List RowOf) := g.visits.map fun (back, j, i) => slotPartials c rd k s2 a q 0 q0 n (g.src back j i)
        let el (t : Tns) (j i h : Nat) : W32 := in32 (valAt c rd t [j, i, h, 0]).1
        let rows := ((List.range a.hq).map fun hd => (List.range n).map fun i =>
          let start : RowPart := ⟨⟨el st 0 i hd, el st 1 i hd⟩, (List.range a.d).map fun j => el run j i hd, {}⟩
          let t := tile hd i
          RowOf.mk hd i (((tubs.take (nth upto t 0)).drop (nth h.merged t 0)).foldl (fun acc l =>
            match l.find? fun r => r.h == hd && r.i == i with
            | some r => mergeRows k s2 acc r.part
            | none => acc) start)).flatten
        let steps := sumNat ((List.range upto.length).map fun t =>
          sumNat ((((tubWork g a n).take (nth upto t 0)).drop (nth h.merged t 0)).map fun w => (nth w t (0, 0, 0, [])).2.2.2.length))
        let fin := if done then rows.map fun r => RowOf.mk r.h r.i (finishRow k false r.part) else rows
        let cnt := fin.foldl (fun n r => n.add r.part.cnt) ({} : ACnt)
        let e := if done then writeRows c (x.tns s x.m.tdOut) (some st) [fin] else {}
        let back := writeRows c run (if done then none else some st) [rows]
        let rc := readCountsAt c rd q (slotIndices q [(0, n)])
        let special := rc.1 + sumNat (g.visits.map fun (b, j, i) => srcSpecial c rd a (g.src b j i) (tileWork a (g.src b j i) q0 n))
        if !done && upto == (List.range upto.length).map (nth h.merged · 0) then .hold
        else
          .eff ({ e with bytes := back.bytes ++ e.bytes }.count (cnt.list ++ [(oRGN_ARRAY_CYCLES, steps * stepCycles a.d)]
            ++ if done then [(oRGN_SAT_BLOCKS, querySats c rd a q 0 n), (oRGN_SPECIAL_IN, special)] else []))
  | _, _ => .hold

/-- HAUL_ATTN: the rows are done, or the running partial is written and the tubs that it holds are noted. -/
def haulAttn (s : State) (x : Run) : State :=
  match workIn haulAttnWork s x, x.haul s, x.st.slots.head? with
  | .eff e, some (h, g, _), some sl =>
    let upto := haulMerged s x h g sl.qlen
    if upto.all (· == g.visits.length) then finish s x (.eff e)
    else
      (match vwrite s (some x.r.id) x.p e.bytes with
        | .ok s => modHaul (countEff s x e.cnt) x.p h.id fun h => { h with merged := upto }
        | _ => finish s x (.eff e))
  | w, _, _ => finish s x w

/-- HAUL_ATTN: merges every visiting tub into the local partial; OUT = the attention. -/
def execHaulAttn (m : MopRef) (s : State) : Host.Outcome State Fault Refusal :=
  .next (match ready? s m 0x39 (subIs 0) with
    | some x => haulAttn s x
    | none => s)

/-! ### HAUL_GRAD (R335). -/

/-- The sweeps of a HAUL_GRAD: the local source and then every visiting tub in merge order, dQ carried on. -/
def haulGradRes (s : State) (x : Run) (g : HaulGeo) (sl : SlotLen) (cx : Ctx) (rows : List GRow) :
    GradRes × List ((Bool × Nat × Nat) × GradRes) :=
  let rd := rdr s x.p
  let c := x.fmt s
  let k := x.sf s
  let a := g.a
  let s2 : W32 := BitVec.ofNat 32 (x.m.p 0 4)
  let q0 := (g.shard g.me).1
  let base := gradSource c rd k s2 a (localSrc cx a sl) q0 sl.qlen rows (noQueryGrads a sl.qlen)
  let (tubs, _) := g.visits.foldl (fun (acc, qs) (back, j, i) =>
    let r := gradSource c rd k s2 a (g.src back j i) q0 sl.qlen rows qs
    (acc ++ [((back, j, i), r)], r.queries)) (([] : List ((Bool × Nat × Nat) × GradRes)), base.queries)
  (base, tubs)

/-- The bytes of a gradient chunk: for each segment dK and then dV, FP32, by position, head and dimension (R324). -/
def gradChunk (g : HaulGeo) (keys : List KeyGrad) (j ch : Nat) : Bytes :=
  let val (dv : Bool) (pos h i : Nat) : Bytes :=
    match keys.find? fun k => k.g == h && k.pos == pos with
    | some k => natLe 4 (in32 (nth (if dv then k.dv.values else k.dk.values) i Num.zero)).toNat
    | none => zeros 4
  ((List.range (g.segs j ch)).map fun sg => ([false, true].map fun dv =>
    ((List.range 32).map fun q => ((List.range g.a.hkv).map fun h => ((List.range g.a.d).map fun i =>
      val dv (128 * ch + 32 * sg + q) h i).flatten).flatten).flatten).flatten).flatten

/-- Send the gradient tubs of the sources that have visited, in merge order (R325, R335). -/
def sendGrads (s : State) (g : HaulGeo) (h : Haul) (tubs : List ((Bool × Nat × Nat) × GradRes)) : State :=
  let s := forEach tubs (fun s ((back, j, _), r) =>
    forEach (g.need g.me j) (fun s ch =>
      let data := gradChunk g r.keys j ch
      bump (sendChunk s g.p (!back) (g.hdr h (if back then 3 else 2) j ch) data) pgRTR oRTR_TUB_SENT data.length) s) s
  releaseChunks (modHaul s g.p h.id fun h => { h with gradSent := true }) g.p h.id

/-- A gradient row of this module's keys with the gradient tubs added as further addends (R132, R335). -/
def addGrads (s : State) (g : HaulGeo) (k : KeyGrad) : KeyGrad :=
  let ch := k.pos / 128
  let sg := k.pos % 128 / 32
  let from_ := g.gradIn.filter fun (_, _, c) => c == ch
  let row (dv : Bool) (acc : GAcc) : GAcc :=
    from_.foldl (fun acc (d, i, _) =>
      let at0 := g.place true (d == 3) g.me ((g.stepAt (d == 3) g.me i).getD 0) ch + sg * g.segBytes true
        + ((if dv then 32 else 0) + k.pos % 32) * g.a.hkv * g.a.d * 4 + k.g * g.a.d * 4
      let el (j : Nat) : Num := f32 (BitVec.ofNat 32 (vnat s g.p (at0 + 4 * j) 4))
      List.zipWith (fun (r : AccRow) cols => r.addBlock (cols.map fun j => ownBlock (el j) 1)) acc (colGroups g.a.d)) acc
  { k with dk := row false k.dk, dv := row true k.dv }

/-- The geometry of a HAUL_GRAD's haul under its own record. -/
def HaulGeo.under (g : HaulGeo) (s : State) (x : Run) : HaulGeo := { g with a := attnRec s x.p x.m.aux }

/-- The forward rows that a HAUL_GRAD works from. -/
def haulGradRows (s : State) (x : Run) (a : AttnRec) (n : Nat) : List GRow :=
  gradRows (x.fmt s) (rdr s x.p) (x.sf s) a (x.tns s x.m.tdA) (x.tns s x.m.tdB) (x.tns s x.m.tdC) (x.tns s a.stats) 0 n

/-- The results of HAUL_GRAD, once its gradient tubs have gone and those for this module have come (R335). -/
def haulGradWork (s : State) (x : Run) : Work :=
  match x.haul s, x.st.slots.head?, x.haulCtx s with
  | some (_, g0, _), some sl, some cx =>
    let g := g0.under s x
    let rd := rdr s x.p
    let c := x.fmt s
    let lsrc := localSrc cx g.a sl
    let q0 := (g.shard g.me).1
    let srcs : List (KeySrc × List (Nat × Nat × Nat × List Nat)) := (lsrc, tileWork g.a lsrc q0 sl.qlen)
      :: g.visits.map fun (back, j, i) => (g.src back j i, tileWork g.a (g.src back j i) q0 sl.qlen)
    let rows := haulGradRows s x g.a sl.qlen
    let (base, tubs) := haulGradRes s x g sl cx rows
    let last := ((tubs.getLast?).map fun (t : (Bool × Nat × Nat) × GradRes) => t.2.queries).getD base.queries
    let keys := base.keys.map (addGrads s g)
    let cnt := ((tubs.map fun (t : (Bool × Nat × Nat) × GradRes) => t.2.cnt).foldl ACnt.add base.cnt).add
      { sat := gradSats c rd g.a (x.tns s x.m.tdA) rows 0 sl.qlen }
    let spills := sumNat ((tubs.map fun (t : (Bool × Nat × Nat) × GradRes) => t.2.keys.map fun k => k.dk.spills + k.dv.spills).flatten)
    let e := gradEff s x g.a (last.map fun (r : QueryGrad) => (0, r)) (keys.map fun (k : KeyGrad) => (0, sl.k0, k)) cnt 0
    .eff (e.count (gradReads s x g.a [(0, sl.qlen)]
      ++ [(oRGN_SPILLS, spills), (oRGN_SPECIAL_IN, sumNat (srcs.map fun (src, w) => srcSpecial c rd g.a src w))]))
  | _, _, _ => .hold

/-- HAUL_GRAD: first the sweeps, whose gradient tubs go back to their sources; then, when every gradient tub for this module has come and
those for others have been passed on, the results (R335). -/
def haulGrad (s : State) (x : Run) : State :=
  match x.haul s, x.st.slots.head?, x.haulCtx s with
  | some (h, g0, _), some sl, some cx =>
    let g := g0.under s x
    let lsrc := localSrc cx g.a sl
    if g.missing h then s
    else
      match (unmappedInput s x.p (gradInputs s x g.a)).or
          (unmappedRange s x.p (srcRanges g.a lsrc (tileWork g.a lsrc (g.shard g.me).1 sl.qlen))) with
      | some e => finish s x (.fail e)
      | none =>
        let s := if h.gradSent then s else sendGrads s g h (haulGradRes s x g sl cx (haulGradRows s x g.a sl.qlen)).2
        match haul? s x.p h.id with
        | some h => if g.gradsDone h then finish s x (workIn haulGradWork s x) else s
        | none => s
  | _, _, _ => s

/-- HAUL_GRAD: the attention gradient over the whole sharded sequence. -/
def execHaulGrad (m : MopRef) (s : State) : Host.Outcome State Fault Refusal :=
  .next (match ready? s m 0x3A (subIs 0) with
    | some x => haulGrad s x
    | none => s)

/-! ### The haul timer and the abort (R339-R341). -/

/-- A haul waits for a chunk: of a visiting tub, or of a gradient tub once its own have gone. -/
def haulWaits (s : State) (h : Haul) : Bool :=
  match haulInfo s h with
  | some (g, _, grad) => g.missing h || (grad && h.gradSent && !g.gradsDone h)
  | none => false

/-- HAUL_TIMEOUT: the timer of a haul that waits for a chunk reaches TIMEOUT; it stands still while a HELD announcement stands. -/
def execHaulTimeout (part haulId : Nat) (s : State) : Host.Outcome State Fault Refusal :=
  .next (match haul? s part haulId with
    | some h =>
      if serving s && haulWaits s h && !s.links.heldMarks.any (·.part == part) then
        settle (jobFault (raise (bump s pgRTR oRTR_HAUL_TIMEOUTS 1) pgRTR 0x10) part)
      else s
    | none => s)

/-- HAUL_ABORT: a request that lists a haul has ended, and the module tells the slice over the bell path (R339). -/
def execHaulAbort (req : Nat) (s : State) : Host.Outcome State Fault Refusal :=
  .next (match req? s req with
    | some r => if serving s && r.st == .ended then sendAbort s r r.status else s
    | none => s)

end Sys2Proof.Machine
end

