-- ==== Sys2Proof/Machine/Collectives.lean ====
section
/-! DEFINITION. Collectives: ring phases over the selected axes, the reduction stores of the edge dies and their claims, unit reductions,
and the bell collectives (R359-R374). -/

namespace Sys2Proof.Machine

/-! ### Parameters and geometry (R359, R360, R364). -/

abbrev opREDUCE_SCATTER : Nat := 0x70
abbrev opALL_GATHER : Nat := 0x71
abbrev opBELL_REDUCE : Nat := 0x74
abbrev opBELL_BARRIER : Nat := 0x75
abbrev opBELL_BCAST : Nat := 0x76

/-- The opcodes of R364. -/
def isColl (op : Nat) : Bool := op == 0x70 || op == 0x71 || op == 0x74 || op == 0x75 || op == 0x76

/-- A bell opcode. -/
def isBell (op : Nat) : Bool := 0x74 ≤ op && op ≤ 0x76

def Mop.collId (m : Mop) : Nat := m.p 8 8
def Mop.axes (m : Mop) : Nat := m.p 2 1
def Mop.acc (m : Mop) : Bool := m.p 1 1 == 1
def Mop.redOp (m : Mop) : Nat := m.p 0 1
def Mop.nslot (m : Mop) : Nat := m.p 3 1

/-- A piece on the wire: 32 KiB. -/
abbrev pieceBytes : Nat := 0x8000

/-- Extent of the slice on an axis; a partition without a valid slice is alone. -/
def axisLen (s : State) (p a : Nat) : Nat := if (sliceBox s p).valid then nth (sliceBox s p).extent a 1 else 1

/-- This module's offset and ring position on an axis of its slice. -/
def axisOff (s : State) (p a : Nat) : Nat := boxOff s (sliceBox s p) a (coord s a)
def axisPos (s : State) (p a : Nat) : Nat := ringPos (axisLen s p a) (planeLen s a) (axisOff s p a)

/-- The selected axes, X first (R360). -/
def selAxes (s : State) (p axes : Nat) : List Nat := [0, 1, 2].filter fun a => bit axes a && axisLen s p a ≥ 2

/-- Part `a` of a range split into `n`: first element and length (R360). -/
def partOf (rg : Nat × Nat) (n a : Nat) : Nat × Nat := (rg.1 + a * rg.2 / n, (a + 1) * rg.2 / n - a * rg.2 / n)

/-- The range that this module keeps once the selected axes of a list have been split (R360). -/
def keepRange (s : State) (p e : Nat) (axs : List Nat) : Nat × Nat :=
  axs.foldl (fun rg a => partOf rg (axisLen s p a) (axisPos s p a)) (0, e)

/-- The module's piece of `e` elements (R360). -/
def myPiece (s : State) (p axes e : Nat) : Nat × Nat := keepRange s p e (selAxes s p axes)

/-- The axes of the phases of a ring collective in order (R361, R363). -/
def ringAxes (s : State) (p : Nat) (m : Mop) : List Nat :=
  let l := selAxes s p m.axes
  if m.opcode == opALL_GATHER then l.reverse else l

/-- The axes of the phases of a bell collective (R373). -/
def bellAxes (s : State) (p : Nat) : List Nat := [0, 1, 2].filter fun a => axisLen s p a ≥ 2

/-- The parts that a phase on axis `a` splits the present range into. -/
def phaseParts (s : State) (p e : Nat) (m : Mop) (a : Nat) : List (Nat × Nat) :=
  let rg := keepRange s p e ((selAxes s p m.axes).filter (· < a))
  (List.range (axisLen s p a)).map (partOf rg (axisLen s p a))

/-- The port by which the pieces of an axis arrive, and the port by which they leave (R359). -/
def recvPort (s : State) (p a : Nat) : Nat :=
  let n := axisLen s p a
  let l := planeLen s a
  if n == l then a else portToward n l (axisOff s p a) (ringOff n l ((axisPos s p a + n - 1) % n)) a
def ringPort (s : State) (p a : Nat) : Nat :=
  let n := axisLen s p a
  let l := planeLen s a
  portToward n l (axisOff s p a) (ringOff n l ((axisPos s p a + 1) % n)) a

/-- The edge die of a port (R367). -/
def portEdge (port : Nat) : Nat := if port < 3 then 0 else 1

/-- The part received, and the part sent, at a step (R361, R363). -/
def recvPart (op q n t : Nat) : Nat := if op == opALL_GATHER then (q + n - t) % n else (q + 2 * n - t - 1) % n
def sendPart (op q n t : Nat) : Nat := if op == opALL_GATHER then (q + n + 1 - t) % n else (q + n - t) % n

/-! ### Elements on the wire (R362). -/

/-- The type on the wire. -/
def wireTy (m : Mop) (ty : Nat) : Nat := if m.opcode == opREDUCE_SCATTER && m.acc && ty == tyBF16 then tyFP32 else ty

/-- Combine a received partial with a local element: the received one first. INT32 wraps; OR is a bell opcode's (R362, R364). -/
def combine (op ty : Nat) (acc : Bool) (r l : Nat) : Nat :=
  if ty == tyINT32 then
    let a := signed 32 r
    let b := signed 32 l
    if op == 3 then Nat.lor r l else unsigned 32 (if op == 1 then Max.max a b else if op == 2 then Min.min a b else a + b)
  else
    let lv := scalarVal ty l
    let rv := scalarVal (if acc then tyFP32 else ty) r
    let c (f : W32 → W32 → W32) : Nat := (f (toF32 rv) (toF32 lv)).toNat
    if ty == tyBF16 && !acc then
      if op == 0 then (scalarCode tyBF16 (rv.add lv)).1
      else (scalarCode tyBF16 (f32 (BitVec.ofNat 32 (c (if op == 1 then fMax else fMin))))).1
    else c (if op == 0 then fAdd else if op == 1 then fMax else fMin)

/-- The conversion of a combination to OUT's type saturates: only BF16 is converted (R57, R362). -/
def combineSat (op ty : Nat) (acc : Bool) (r l : Nat) : Bool :=
  if ty != tyBF16 then false
  else if acc then (scalarCode tyBF16 (scalarVal tyFP32 (combine op ty acc r l))).2.1
  else
    let rv := scalarVal ty r
    let lv := scalarVal ty l
    let c (f : W32 → W32 → W32) : Num := f32 (f (toF32 rv) (toF32 lv))
    (scalarCode tyBF16 (if op == 0 then rv.add lv else c (if op == 1 then fMax else fMin))).2.1

/-- The elements of `w` bytes each that some bytes hold. -/
def wireElems (w : Nat) (b : Bytes) : List Nat := (List.range (b.length / w)).map fun i => fld b (w * i) w

/-- The raw code of element `i` of a vector, and where it stands. -/
def vecVa (t : Tns) (i : Nat) : Nat := t.td.base + i * tyBytes t.td.ty
def vecCode (s : State) (p : Nat) (t : Tns) (i : Nat) : Nat := vnat s p (vecVa t i) (tyBytes t.td.ty)

/-- A local element as it goes on the wire. -/
def toWire (m : Mop) (ty c : Nat) : Nat := if wireTy m ty == ty then c else (toF32 (scalarVal ty c)).toNat

/-- A wire element as memory holds it. -/
def fromWire (m : Mop) (ty c : Nat) : Nat := if wireTy m ty == ty then c else (scalarCode ty (scalarVal tyFP32 c)).1

/-- The elements of a collective: of its operand for REDUCE_SCATTER, of its result for ALL_GATHER (R364). -/
def collElems (s : State) (x : Run) : Nat := (x.tns s (if x.m.opcode == opALL_GATHER then x.m.tdOut else x.m.tdA)).count

/-! ### Checks of admission (R364, R365). -/

/-- A vector of contiguous elements (R365). -/
def Env.vector (e : Env) (m : Mop) (va struct : Nat) : Option Check :=
  let t := (e.tns m va).td
  firstBad [need (va == 0 || t.rank == 1) (badDesc struct 0x11), need (va == 0 || nth t.stride 0 0 == 1) (badDesc struct 0x28)]

/-- A size that no run-time dimension gives equals a number that the slice gives; while the slice is not valid, step 2 refuses the request
(R357). -/
def Env.sizeIs (e : Env) (m : Mop) (va struct : Nat) (runtime : Bool) (n : Nat) : Option Check :=
  need (runtime || !(sliceBox e.s e.p).valid || (e.tns m va).count == n) (badDesc struct 0x14)

/-- A vector's size comes from a run-time dimension. -/
def runtimeSize (t : Tns) : Bool := bit (nth t.td.size 0 0) 31

/-- OUT does not overlap A (R365). -/
def Env.apart (e : Env) (m : Mop) : Option Check :=
  let a := e.tns m m.tdA
  let o := e.tns m m.tdOut
  need (!vaOverlap a.td.base (extentBytes a) o.td.base (extentBytes o)) (badDesc inOut 0)

/-- A collective (R364, R365). REDUCE_SCATTER writes over A between its phases (R361). -/
def Env.collective (e : Env) (m : Mop) : Option Check :=
  let bad := badDesc inMop
  let a := e.tns m m.tdA
  let o := e.tns m m.tdOut
  let free := runtimeSize a || runtimeSize o
  let ring (types : Nat → Bool) : List (Option Check) := [
    noNarrow m, e.allPlain m, e.vector m m.tdOut inOut, e.vector m m.tdA inA, e.tyIn m m.tdA inA types,
    need (o.td.ty == a.td.ty) (badDesc inOut 0x10), e.apart m,
    need (m.axes < 8) (bad 0x72), need (2 ≤ m.nslot && m.nslot ≤ 64) (bad 0x73), need (m.p 4 4 == 0) (bad 0x74)]
  let bell : List (Option Check) := [
    noNarrow m, e.allPlain m, e.vector m m.tdOut inOut, e.vector m m.tdA inA,
    e.tyIn m m.tdA inA (fun t => t == tyFP32 || t == tyINT32), need (o.td.ty == a.td.ty) (badDesc inOut 0x10),
    need (free || o.count == a.count) (badDesc inOut 0x14), e.apart m, need (a.cap.foldl (· * ·) 1 * tyBytes a.td.ty ≤ 256) (badDesc inA 0x14)]
  let form (u : Uses) : Option Check := e.form m u (· == 0) 16
  if m.opcode == opREDUCE_SCATTER then
    firstBad ([form { out := .must, a := .must }] ++ ring (fun t => t == tyFP32 || t == tyBF16 || t == tyINT32) ++ [
      need (m.redOp ≤ 2) (bad 0x70), need (m.p 1 1 == 0 || (m.p 1 1 == 1 && a.td.ty == tyBF16)) (bad 0x71),
      e.sizeIs m m.tdOut inOut free (myPiece e.s e.p m.axes a.count).2,
      if (selAxes e.s e.p m.axes).length ≥ 2 then e.tensorAt m true m.tdA inA inMop 0x10 else none])
  else if m.opcode == opALL_GATHER then
    firstBad ([form { out := .must, a := .must }]
      ++ ring (fun t => t == tyFP32 || t == tyBF16 || t == tyFP16 || t == tyINT32 || t == tyINT8 || t == tyUINT8) ++ [
      need (m.p 0 2 == 0) (bad 0x70), e.sizeIs m m.tdA inA free (myPiece e.s e.p m.axes o.count).2])
  else if m.opcode == opBELL_REDUCE then
    firstBad ([form { out := .must, a := .must }] ++ bell ++ [
      need (m.redOp ≤ 3 && (m.redOp != 3 || a.td.ty == tyINT32)) (bad 0x70), need (m.p 1 7 == 0) (bad 0x71)])
  else if m.opcode == opBELL_BARRIER then
    firstBad [form { bucket := .may }, noNarrow m, need (m.p 0 8 == 0) (bad 0x70)]
  else if m.opcode == opBELL_BCAST then
    firstBad ([form { out := .must, a := .must }] ++ bell ++ [
      need (m.p 0 4 == 0) (bad 0x70), need (!(sliceBox e.s e.p).valid || m.p 4 4 < sliceSize e.s e.p) (bad 0x74)])
  else bad 0

/-! ### Collectives that have begun. -/

/-- The record of a collective. -/
def coll? (s : State) (req mop : Nat) : Option Coll := s.links.colls.find? fun c => c.req == req && c.mop == mop

/-- Update it. -/
def modColl (s : State) (c : Coll) (f : Coll → Coll) : State :=
  { s with links := { s.links with colls := updFirst (fun x => x.req == c.req && x.mop == c.mop) f s.links.colls } }

/-- Hops that a value travels on an axis, upward and downward: to the end of an open line, and on a torus ring to the module half
way round (R373). -/
def bellReach (n l u : Nat) (up : Bool) : Nat :=
  if n == l then (if up then n / 2 else (n + 1) / 2 - 1) else if up then n - 1 - u else u

/-- Hops that a message of offset `o` has made when it stands at offset `u`. -/
def bellGone (n o u : Nat) (up : Bool) : Nat := if up then (u + n - o) % n else (o + n - u) % n

/-- Send a bell message out of one port. -/
def bellSend (s : State) (p port kind a b : Nat) (vals : List W32) : State :=
  if portLive s port then bump (emit s (.bell port p kind a b vals)) (pgLNK + port) oLNK_BELL_MSGS 1 else s

/-- The offset of a rank on an axis (R36). -/
def rankOff (s : State) (p rank a : Nat) : Nat :=
  let n (a : Nat) : Nat := axisLen s p a
  if a == 0 then rank % n 0 else if a == 1 then rank / n 0 % n 1 else rank / n 0 / n 1 % n 2

/-- Send a message of rank `rank` to every module of the slice once: it goes along its own axis as a value of R373 does, and begins anew
on every later axis (log 65). -/
def bellTree (s : State) (p rank : Nat) (from_ : Option Nat) (kind a b : Nat) (vals : List W32) : State :=
  forEach ([0, 1, 2].filter fun x => axisLen s p x ≥ 2) (fun s x =>
    forEach [true, false] (fun s up =>
      let n := axisLen s p x
      let l := planeLen s x
      let u := axisOff s p x
      let port := if up then x + 3 else x
      let begin_ : Bool := bellReach n l u up > 0
      let goes : Bool := match from_ with
        | none => begin_
        | some f =>
          if x < portAxis f then false
          else if x > portAxis f then begin_
          else
            let o := rankOff s p rank x
            up == !portUp f && bellGone n o u up < bellReach n l o up
      if goes then bellSend s p port kind a b vals else s) s) s

/-- Other ranks of the slice. -/
def otherRanks (s : State) (p : Nat) : List Nat := (List.range (sliceSize s p)).filter (· != myRank s p)

/-- Values of axis 3 are the checks of R365; those of axis 4 are what a check that has not come must be, once its collective is over here. -/
def isCheck (p coll axis rank : Nat) (b : BellVal) : Bool := b.part == p && b.coll == coll && b.axis == axis && b.offset == rank

/-- The checks of a collective that is over: those that have come are done with, the others are still to come. -/
def settleChecks (s : State) (p coll : Nat) (mine : List W32) : State :=
  forEach (otherRanks s p) (fun s r =>
    let bs := s.links.bells
    let bs := if bs.any (isCheck p coll 3 r) then bs.eraseP (isCheck p coll 3 r) else bs ++ [⟨p, coll, 4, r, mine⟩]
    { s with links := { s.links with bells := bs } }) s

/-- A collective is over: its record and its claims go, and the announcements that rested on them (R368, R371). -/
def endColl (s : State) (x : Run) : State :=
  announceHeld { s with links := { s.links with
    colls := s.links.colls.filter fun c => !(c.req == x.r.id && c.mop == x.i)
    claims := s.links.claims.filter fun c => !(c.req == x.r.id && c.mop == x.i) } }

/-- Write a vector's elements from index `i` on. -/
def writeVec (s : State) (x : Run) (t : Tns) (i : Nat) (cs : List Nat) : WriteRes :=
  vwrite s (some x.r.id) x.p (bytesAt (vecVa t i) ((cs.map (natLe (tyBytes t.td.ty))).flatten))

/-! ### Ring phases (R360-R363, R366, R370). -/

/-- Send the pieces of a part at a step (R360, R366). -/
def sendPieces (s : State) (x : Run) (a phase step : Nat) (data : Bytes) : State :=
  forEach (List.range (ceilDiv data.length pieceBytes)) (fun s k =>
    let b := (data.drop (k * pieceBytes)).take pieceBytes
    let port := ringPort s x.p a
    sendOn s port 0 x.p b.length (.piece port x.p x.m.collId phase step (k * pieceBytes) b)) s

/-- The bytes on the wire of a range of a vector. -/
def wireRange (s : State) (x : Run) (t : Tns) (rg : Nat × Nat) : Bytes :=
  ((List.range rg.2).map fun i =>
    natLe (tyBytes (wireTy x.m t.td.ty)) (toWire x.m t.td.ty (vecCode s x.p t (rg.1 + i)))).flatten

/-- The tensor whose elements a ring phase sends and combines. -/
def ringTns (s : State) (x : Run) : Tns := x.tns s (if x.m.opcode == opALL_GATHER then x.m.tdOut else x.m.tdA)

/-- Start a phase: send the own part (R361, R363). -/
def startPhase (s : State) (x : Run) (c : Coll) (a : Nat) : State :=
  let n := axisLen s x.p a
  let rg := nth (phaseParts s x.p (collElems s x) x.m a) (sendPart x.m.opcode (axisPos s x.p a) n 1) (0, 0)
  modColl (sendPieces s x a c.phase 1 (wireRange s x (ringTns s x) rg)) c fun c => { c with started := true }

/-- The claim of a collective on an edge die. -/
def claim? (s : State) (x : Run) (edge : Nat) : Option Claim :=
  s.links.claims.find? fun c => c.req == x.r.id && c.mop == x.i && c.edge == edge

/-- A phase on an axis may run: its claim is granted, or has lapsed and its unit reductions are not paused (R370, R371). -/
def phaseRuns (s : State) (x : Run) (a : Nat) : Bool :=
  let edge := portEdge (recvPort s x.p a)
  match claim? s x edge with
  | some c => c.granted || (c.lapsed && !redPaused s x.p edge)
  | none => false

/-- Bytes on the wire of the part received at a step. -/
def stepBytes (s : State) (x : Run) (a t : Nat) : Nat :=
  (nth (phaseParts s x.p (collElems s x) x.m a) (recvPart x.m.opcode (axisPos s x.p a) (axisLen s x.p a) t) (0, 0)).2
    * tyBytes (wireTy x.m (ringTns s x).td.ty)

/-- A phase has taken every byte of every step. -/
def phaseDone (s : State) (x : Run) (c : Coll) (a : Nat) : Bool :=
  (List.range (axisLen s x.p a - 1)).all fun k =>
    sumNat ((c.got.filter fun (t, _, _) => t == k + 1).map fun (_, _, n) => n) == stepBytes s x a (k + 1)

/-- A piece fits the phase: a step and an offset that it expects, and that it has not had. -/
def pieceFits (s : State) (x : Run) (c : Coll) (a : Nat) (q : Piece) : Bool :=
  let n := stepBytes s x a q.step
  1 ≤ q.step && q.step < axisLen s x.p a && q.offset % pieceBytes == 0 && q.offset < n
    && q.data.length == Nat.min pieceBytes (n - q.offset) && !c.got.any fun (t, o, _) => t == q.step && o == q.offset

/-- Take a piece: combine it or place it, and send it on in a step before the last (R361-R363); `none` while its page has no frame. -/
def takePiece (s : State) (x : Run) (c : Coll) (a : Nat) (q : Piece) : WriteRes :=
  let n := axisLen s x.p a
  let t := ringTns s x
  let w := tyBytes (wireTy x.m t.td.ty)
  let rg := nth (phaseParts s x.p (collElems s x) x.m a) (recvPart x.m.opcode (axisPos s x.p a) n q.step) (0, 0)
  let i0 := rg.1 + q.offset / w
  let note (s : State) (b : Bytes) (keep : Bool) (sats : List Nat) : State :=
    let s := modColl s c fun c => { c with
      got := c.got ++ [(q.step, q.offset, q.data.length)], formed := if keep then c.formed ++ [(q.offset, b)] else c.formed
      sats := if keep && c.phase + 1 == (ringAxes s x.p x.m).length then c.sats ++ sats else c.sats }
    if q.step + 1 < n then
      let port := ringPort s x.p a
      sendOn s port 0 x.p b.length (.piece port x.p x.m.collId c.phase (q.step + 1) q.offset b)
    else s
  if x.m.opcode == opALL_GATHER then
    match writeVec s x t i0 (wireElems w q.data) with
    | .ok s => .ok (note s q.data false [])
    | r => r
  else
    let es := wireElems w q.data
    let out := (List.range es.length).map fun i =>
      combine x.m.redOp t.td.ty x.m.acc (nth es i 0) (vecCode s x.p t (i0 + i))
    .ok (note s ((out.map (natLe w)).flatten) (q.step + 1 == n) (((List.range es.length).filter fun i =>
      combineSat x.m.redOp t.td.ty x.m.acc (nth es i 0) (vecCode s x.p t (i0 + i))).map (q.offset / w + ·)))

/-- Take the stored pieces of the present phase; the flag says that a page has no frame, `none` that a page is not writable. -/
def takePieces (x : Run) (a : Nat) : List Piece → State → Option (State × Bool)
  | [], s => some (s, false)
  | q :: qs, s =>
    match coll? s x.r.id x.i with
    | none => some (s, false)
    | some c =>
      let drop (s : State) : State := { s with links := { s.links with pieces := s.links.pieces.erase q } }
      if pieceFits s x c a q then
        match takePiece s x c a q with
        | .ok s => takePieces x a qs (drop s)
        | .full => some (s, true)
        | .bad => none
      else takePieces x a qs (drop s)

/-- What a reducing phase has formed goes over the kept part's range of A, or to OUT after the last (R361). -/
def writePhase (s : State) (x : Run) (c : Coll) (a : Nat) (last : Bool) : WriteRes :=
  if x.m.opcode == opALL_GATHER then .ok s
  else
    let t := ringTns s x
    let w := tyBytes (wireTy x.m t.td.ty)
    let bs := ((sortBy (fun (u v : Nat × Bytes) => u.1 ≤ v.1) c.formed).map fun (f : Nat × Bytes) => f.2).flatten
    let cs := (wireElems w bs).map (fromWire x.m t.td.ty)
    let rg := nth (phaseParts s x.p (collElems s x) x.m a) (axisPos s x.p a) (0, 0)
    if last then writeVec s x (x.tns s x.m.tdOut) 0 cs else writeVec s x t rg.1 cs

/-! ### The check of the slice's modules (R365). -/

/-- What every module of the slice must have in common. -/
def collCheck (s : State) (x : Run) : List W32 :=
  [BitVec.ofNat 32 x.m.opcode, BitVec.ofNat 32 x.m.axes] ++ if x.m.opcode == opREDUCE_SCATTER then [BitVec.ofNat 32 (collElems s x)] else []

/-- The checks of other modules that have come agree with this module's (R365). -/
def collAgrees (s : State) (x : Run) : Bool :=
  (otherRanks s x.p).all fun r =>
    match s.links.bells.find? (isCheck x.p x.m.collId 3 r) with
    | some b => b.vals == collCheck s x
    | none => true

/-- A mismatch ends the job of the slice (R365). -/
def collMismatch (s : State) (p : Nat) : State := settle (jobFault s p)

/-- The groups of 32 elements of OUT that a collective has written, for the watch and the count of saturated groups (R72, R92). -/
def collEff (s : State) (x : Run) (sats : List Nat) : Eff :=
  let n := (x.tns s x.m.tdOut).count
  let gs : List Grp := (List.range (ceilDiv n 32)).map fun g => ⟨0, [32 * g], Nat.min 32 (n - 32 * g), sats.any (· / 32 == g)⟩
  { groups := gs, cnt := [(oRGN_SAT_BLOCKS, (gs.filter (·.sat)).length)] }

/-- What a collective has written is counted, in the lead region, since no tile ran it (log 15). -/
def countColl (s : State) (x : Run) : State :=
  let e := collEff s x ((coll? s x.r.id x.i).elim [] (·.sats))
  watchEff (forEach e.cnt (fun s c => bumpLead s x.p c.1 c.2) s) x e

/-- A ring collective has formed its result (R368, R370). -/
def collDone (s : State) (x : Run) : State :=
  markWorked (bump (settleChecks (endColl (countColl s x) x) x.p x.m.collId (collCheck s x)) pgRTR oRTR_COLLS 1) x

/-- Run a ring collective as far as its claims and the pieces that have come let it. -/
def advanceRing (x : Run) : Nat → State → State
  | 0, s => s
  | fuel + 1, s =>
    match coll? s x.r.id x.i with
    | none => s
    | some c =>
      let axs := ringAxes s x.p x.m
      match axs[c.phase]? with
      | none => collDone s x
      | some a =>
        if !phaseRuns s x a then s
        else
          let s := if c.started then s else startPhase s x c a
          let mine := s.links.pieces.filter fun q => q.part == x.p && q.coll == c.coll && q.phase == c.phase
          match takePieces x a mine s with
          | none => finish s x (.fail ⟨stDescriptor, inOut, 0⟩)
          | some (s, true) => finish s x .full
          | some (s, false) =>
            match coll? s x.r.id x.i with
            | none => s
            | some c =>
              if !phaseDone s x c a then s
              else
                match writePhase s x c a (c.phase + 1 == axs.length) with
                | .full => finish s x .full
                | .bad => finish s x (.fail ⟨stDescriptor, inOut, 0⟩)
                | .ok s =>
                  advanceRing x fuel (modColl s c fun c => { c with phase := c.phase + 1, started := false, got := [], formed := [] })

/-! ### Claims on the reduction stores (R367-R369). -/

/-- A claim leaves its queue for unit reductions (R369). -/
def lapseClaim (s : State) (req mop edge : Nat) : State :=
  let s := { s with links := { s.links with claims := s.links.claims.map fun c =>
    if c.req == req && c.mop == mop && c.edge == edge then { c with lapsed := true } else c } }
  announceHeld (raise (bump s pgRTR oRTR_RED_FALLBACKS 1) pgRTR 2)

/-- Claim slots on an edge die: granted at once, or queued; with WAIT 0 a contended claim lapses at once (R368, R369). -/
def claimEdge (s : State) (x : Run) (edge : Nat) : State :=
  let now := redFree s edge ≥ x.m.nslot && redQueue s edge == 0
  let c : Claim := { req := x.r.id, mop := x.i, edge := edge, slots := x.m.nslot, granted := now }
  let s := { s with links := { s.links with claims := s.links.claims ++ [c] } }
  if now then bump s pgRTR oRTR_RED_CLAIMS 1
  else
    let s := raise (bump s pgRTR oRTR_RED_QUEUED 1) pgRTR 1
    if fldGet s pgRTR oRTR_RED_CTRL 15 0 == 0 then lapseClaim s x.r.id x.i edge else s

/-! ### Ring collectives. -/

/-- A REDUCE_SCATTER or ALL_GATHER whose sizes at run time do not fit ends its request. -/
def collSizesOk (s : State) (x : Run) : Bool :=
  let a := (x.tns s x.m.tdA).count
  let o := (x.tns s x.m.tdOut).count
  if x.m.opcode == opREDUCE_SCATTER then o == (myPiece s x.p x.m.axes a).2
  else if x.m.opcode == opALL_GATHER then a == (myPiece s x.p x.m.axes o).2
  else x.m.opcode == opBELL_BARRIER || a == o

/-- The operand's elements go to OUT: from index 0, or for ALL_GATHER to the own piece's place. -/
def copyOwn (s : State) (x : Run) : WriteRes :=
  let a := x.tns s x.m.tdA
  let i0 := if x.m.opcode == opALL_GATHER then (myPiece s x.p x.m.axes (collElems s x)).1 else 0
  writeVec s x (x.tns s x.m.tdOut) i0 ((List.range a.count).map (vecCode s x.p a))

/-- Begin a ring collective: the check goes to the slice, the claims to the edge dies (R365, R368). -/
def beginRing (s : State) (x : Run) : State :=
  let axs := ringAxes s x.p x.m
  let placed := if x.m.opcode == opALL_GATHER || axs.isEmpty then copyOwn s x else .ok s
  match placed with
  | .full => finish s x .full
  | .bad => finish s x (.fail ⟨stDescriptor, inOut, 0⟩)
  | .ok s =>
    let c : Coll := { req := x.r.id, mop := x.i, part := x.p, coll := x.m.collId }
    let s := latchLinks s
    let s := { s with links := { s.links with colls := s.links.colls ++ [c] } }
    let s := bellTree s x.p (myRank s x.p) none bellCOLL x.m.collId (3 * 1024 + myRank s x.p) (collCheck s x)
    if !collAgrees s x then collMismatch s x.p
    else
      let edges := (axs.map fun a => portEdge (recvPort s x.p a)).eraseDups
      advanceRing x 4 (forEach edges (fun s e => claimEdge s x e) s)

/-- A ring collective at its command: it begins, or goes on. -/
def ring (s : State) (x : Run) : State :=
  let a := x.tns s x.m.tdA
  match coll? s x.r.id x.i with
  | some _ => advanceRing x 4 s
  | none =>
    if !collSizesOk s x then finish s x (.fail ⟨stDescriptor, inOut, 0x14⟩)
    else
      match unmappedInput s x.p [(inA, a)] with
      | some e => finish s x (.fail e)
      | none => beginRing s x

/-- REDUCE_SCATTER: OUT = the module's piece of the reduction. -/
def execReduceScatter (m : MopRef) (s : State) : Host.Outcome State Fault Refusal :=
  .next (match ready? s m 0x70 (subIs 0) with | some x => ring s x | none => s)

/-- ALL_GATHER: OUT = all elements. -/
def execAllGather (m : MopRef) (s : State) : Host.Outcome State Fault Refusal :=
  .next (match ready? s m 0x71 (subIs 0) with | some x => ring s x | none => s)

/-- A collective that may go on goes on: it is granted and waits on no memory. -/
def resumeRing (s : State) (c : Coll) : State :=
  match run? s ⟨c.req, c.mop⟩ with
  | some x => if x.st.stage == .granted && x.st.memWait.isNone && !isBell x.m.opcode then advanceRing x 4 s else s
  | none => s

/-- REDUCTION_CLAIM_GRANT: slots have come free and the head of an edge die's queue gets its claim (R368, R370). -/
def execReductionClaimGrant (edge : Nat) (s : State) : Host.Outcome State Fault Refusal :=
  .next (match s.links.claims.find? fun c => c.edge == edge && !c.granted && !c.lapsed with
    | some c =>
      if serving s && redFree s edge ≥ c.slots then
        let hit (d : Claim) : Bool := d.req == c.req && d.mop == c.mop && d.edge == edge
        let s := { s with links := { s.links with claims := s.links.claims.map fun d => if hit d then { d with granted := true } else d } }
        let s := bump s pgRTR oRTR_RED_CLAIMS 1
        match coll? s c.req c.mop with
        | some k => resumeRing s k
        | none => s
      else s
    | none => s)

/-- RED_FALLBACK: a claim has waited WAIT µs, and the phases that receive on its edge die run as unit reductions (R369, R370). -/
def execRedFallback (m : MopRef) (edge : Nat) (s : State) : Host.Outcome State Fault Refusal :=
  .next (match s.links.claims.find? fun c => c.req == m.req && c.mop == m.idx && c.edge == edge && !c.granted && !c.lapsed with
    | some c =>
      if serving s then
        let s := lapseClaim s c.req c.mop edge
        match coll? s c.req c.mop with
        | some k => resumeRing s k
        | none => s
      else s
    | none => s)

/-- COLL_PIECE_RECEIVE: a piece arrives; it is combined or placed, and sent on, once its phase runs (R361-R363, R370). -/
def execCollPieceReceive (tag collId phase step offset : Nat) (data : Bytes) (s : State) : Host.Outcome State Fault Refusal :=
  .next (if !serving s || tag ≥ 16 || !(sliceBox s tag).valid then s
    else
      let q : Piece := ⟨tag, collId, phase, step, offset, data⟩
      let s : State := { s with links := { s.links with pieces := s.links.pieces ++ [q] } }
      match s.links.colls.find? fun c => c.part == tag && c.coll == collId with
      | some c =>
        (match run? s ⟨c.req, c.mop⟩ with
          | some x =>
            let s := match (ringAxes s x.p x.m)[phase]? with
              | some a => rxOn s (recvPort s x.p a) data.length
              | none => s
            resumeRing s c
          | none => s)
      | none => s)

/-! ### Bell collectives (R373). -/

/-- Send a value of offset `u` on from this module in one direction of an axis. -/
def bellHop (s : State) (p coll a u : Nat) (up : Bool) (vals : List W32) : State :=
  bellSend s p (if up then a + 3 else a) bellCOLL coll (a * 1024 + u) vals

/-- Keep a value that has arrived. -/
def keepBell (s : State) (p coll a u : Nat) (vals : List W32) : State :=
  { s with links := { s.links with bells := s.links.bells ++ [⟨p, coll, a, u, vals⟩] } }

/-- The values of a line in ascending offset, if all have come. -/
def lineVals (s : State) (p coll a : Nat) : Option (List (List W32)) :=
  (List.range (axisLen s p a)).mapM fun u =>
    (s.links.bells.find? fun b => b.part == p && b.coll == coll && b.axis == a && b.offset == u).map (·.vals)

/-- Take the values of a line: the first of each offset goes. -/
def dropLine (s : State) (p coll a : Nat) : State :=
  { s with links := { s.links with bells :=
      (List.range (axisLen s p a)).foldl (fun bs u =>
        bs.eraseP fun b => b.part == p && b.coll == coll && b.axis == a && b.offset == u) s.links.bells } }

/-- Combine the values of a line (R362, R373): a broadcast's is the one that is there, a barrier's is empty. -/
def bellCombine (m : Mop) (ty : Nat) (vs : List (List W32)) : List W32 :=
  if m.opcode == opBELL_REDUCE then
    match vs with
    | [] => []
    | v :: rest => rest.foldl (fun acc w => List.zipWith (fun (x y : W32) =>
        BitVec.ofNat 32 (combine m.redOp ty false x.toNat y.toNat)) acc w) v
  else (vs.find? fun v => !v.isEmpty).getD []

/-- Start a phase of a bell collective: the present value goes to both neighbours. -/
def startBell (s : State) (x : Run) (c : Coll) (a : Nat) : State :=
  let n := axisLen s x.p a
  let l := planeLen s a
  let u := axisOff s x.p a
  let s := forEach [true, false] (fun s up => if bellReach n l u up > 0 then bellHop s x.p c.coll a u up c.val else s) s
  modColl (keepBell s x.p c.coll a u c.val) c fun c => { c with started := true }

/-- Run a bell collective as far as the values that have come let it. -/
def advanceBell (x : Run) : Nat → State → State
  | 0, s => s
  | fuel + 1, s =>
    match coll? s x.r.id x.i with
    | none => s
    | some c =>
      match (bellAxes s x.p)[c.phase]? with
      | some a =>
        let s := if c.started then s else startBell s x c a
        (match lineVals s x.p c.coll a with
          | none => s
          | some vs =>
            let v := bellCombine x.m (x.tns s x.m.tdA).td.ty vs
            advanceBell x fuel (modColl (dropLine s x.p c.coll a) c fun c =>
              { c with phase := c.phase + 1, started := false, val := v }))
      | none =>
        let done (s : State) : State := markWorked (bump (endColl s x) pgRTR oRTR_BELL_OPS 1) x
        if x.m.opcode == opBELL_BARRIER then done s
        else
          match writeVec s x (x.tns s x.m.tdOut) 0 (c.val.map (·.toNat)) with
          | .ok s => done (countColl s x)
          | .full => finish s x .full
          | .bad => finish s x (.fail ⟨stDescriptor, inOut, 0⟩)

/-- A bell collective at its command: it begins, or goes on. -/
def bellColl (s : State) (x : Run) : State :=
  match coll? s x.r.id x.i with
  | some _ => advanceBell x 5 s
  | none =>
    let a := x.tns s x.m.tdA
    let reads := x.m.opcode == opBELL_REDUCE || (x.m.opcode == opBELL_BCAST && x.m.p 4 4 == myRank s x.p)
    if !collSizesOk s x then finish s x (.fail ⟨stDescriptor, inOut, 0x14⟩)
    else
      match if reads then unmappedInput s x.p [(inA, a)] else none with
      | some e => finish s x (.fail e)
      | none =>
        let v := if reads then (List.range a.count).map fun i => BitVec.ofNat 32 (vecCode s x.p a i) else []
        let c : Coll := { req := x.r.id, mop := x.i, part := x.p, coll := x.m.collId, val := v }
        let s := latchLinks s
        advanceBell x 5 { s with links := { s.links with colls := s.links.colls ++ [c] } }

/-- BELL_REDUCE: OUT = the reduction over every module of the slice. -/
def execBellReduce (m : MopRef) (s : State) : Host.Outcome State Fault Refusal :=
  .next (match ready? s m 0x74 (subIs 0) with | some x => bellColl s x | none => s)
/-- BELL_BARRIER: completes when every module of the slice has reached it. -/
def execBellBarrier (m : MopRef) (s : State) : Host.Outcome State Fault Refusal :=
  .next (match ready? s m 0x75 (subIs 0) with | some x => bellColl s x | none => s)
/-- BELL_BCAST: OUT = the root's A. -/
def execBellBcast (m : MopRef) (s : State) : Host.Outcome State Fault Refusal :=
  .next (match ready? s m 0x76 (subIs 0) with | some x => bellColl s x | none => s)

/-- The bell collective of a partition with an id goes on. -/
def resumeBell (s : State) (p coll : Nat) : State :=
  match s.links.colls.find? fun c => c.part == p && c.coll == coll with
  | some c =>
    (match run? s ⟨c.req, c.mop⟩ with
      | some x => if x.st.stage == .granted && x.st.memWait.isNone && isBell x.m.opcode then advanceBell x 5 s else s
      | none => s)
  | none => s

/-- A module's check of a ring collective goes on through the slice and meets this module's own, of the collective that runs here, of
one that is over, or of one to come (R365). -/
def checkArrives (s : State) (port p coll rank : Nat) (vals : List W32) : State :=
  if !(otherRanks s p).contains rank then s
  else
    let s := bellTree s p rank (some port) bellCOLL coll (3 * 1024 + rank) vals
    match s.links.bells.find? (isCheck p coll 4 rank) with
    | some b =>
      let s := { s with links := { s.links with bells := s.links.bells.eraseP (isCheck p coll 4 rank) } }
      if b.vals == vals then s else collMismatch s p
    | none =>
      let s := keepBell s p coll 3 rank vals
      match s.links.colls.find? fun c => c.part == p && c.coll == coll with
      | some c =>
        (match run? s ⟨c.req, c.mop⟩ with
          | some x => if isBell x.m.opcode || collAgrees s x then s else collMismatch s p
          | none => s)
      | none => s

/-- BELL_COLL: a value of a bell collective arrives, goes on in its direction, and is combined; on axis 3, a module's check of a ring
collective (R365, R373). -/
def execBellColl (port tag collId axis offset : Nat) (payload : List W32) (s : State) : Host.Outcome State Fault Refusal :=
  .next (onBell s port tag fun s =>
    if axis == 3 then checkArrives s port tag collId offset payload
    else if axis != portAxis port then s
    else
      let n := axisLen s tag axis
      let l := planeLen s axis
      let u := axisOff s tag axis
      let up := !portUp port
      let gone := bellGone n offset u up
      if offset ≥ n || offset == u then s
      else
        let s := if gone < bellReach n l offset up then bellHop s tag collId axis offset up payload else s
        resumeBell (keepBell s tag collId axis offset payload) tag collId)

/-! ### The timer (R371). -/

/-- A collective that has begun waits for a piece or a value. -/
def collWaits (s : State) (x : Run) (c : Coll) : Bool :=
  if isBell x.m.opcode then c.phase < (bellAxes s x.p).length
  else c.started && (match (ringAxes s x.p x.m)[c.phase]? with | some a => !phaseDone s x c a | none => false)

/-- COLL_TIMEOUT: the timer of a collective that waits reaches TIMEOUT, while no HELD announcement of the slice stands. -/
def execCollTimeout (m : MopRef) (s : State) : Host.Outcome State Fault Refusal :=
  .next (match run? s m, coll? s m.req m.idx with
    | some x, some c =>
      if serving s && collWaits s x c && !s.links.heldMarks.any (·.part == x.p) then
        settle (jobFault (raise (bump s pgRTR oRTR_COLL_TIMEOUTS 1) pgRTR 4) x.p)
      else s
    | _, _ => s)

end Sys2Proof.Machine
end

