-- ==== Sys2Proof/Machine/Control.lean ====
section
/-! DEFINITION. The control queue: TALLY_SET, TALLY_ADD and BARRIER (R467-R470). -/

namespace Sys2Proof.Machine

/-- The tally and the value of a TALLY_SET or TALLY_ADD. -/
def tallyParam (m : Mop) : Nat × W32 := (m.p 0 2, BitVec.ofNat 32 (m.p 4 4))

/-- A control-queue macro-op (R122, R467). -/
def Env.control (e : Env) (m : Mop) : Option Check :=
  firstBad [e.form m { bucket := .no } (· == 0) (if m.opcode == 0xF2 then 0 else 8), noBits m,
    if m.opcode == 0xF2 then none
    else firstBad [need (m.p 2 2 == 0) (badDesc inMop 0x72), need (tallyAllotted e.s e.p (m.p 0 2)) (badPart inMop 0x70)]]
where
  /-- NARROW_A has no operand to narrow -/
  noBits (m : Mop) : Option Check := need (!m.narrowA) (badDesc inMop 1)

/-- TALLY_SET. -/
def tallySetWork (s : State) (x : Run) : Work := .state (setTally s (tallyParam x.m).1 (tallyParam x.m).2)

/-- TALLY_ADD. -/
def tallyAddWork (s : State) (x : Run) : Work := .state (addTally s (tallyParam x.m).1 (tallyParam x.m).2)

/-- BARRIER: it holds until every earlier macro-op of the request has completed and signalled. -/
def barrierWork (s : State) (x : Run) : Work :=
  if (List.range x.i).all fun j => (mopSt? x.r j).any fun st => st.stage == .done then .state s else .hold

/-- TALLY_SET: sets a tally. -/
def execTallySet (m : MopRef) (s : State) : Host.Outcome State Fault Refusal := work m 0xF0 (subIs 0) tallySetWork s
/-- TALLY_ADD: adds to a tally. -/
def execTallyAdd (m : MopRef) (s : State) : Host.Outcome State Fault Refusal := work m 0xF1 (subIs 0) tallyAddWork s
/-- BARRIER: completes once every earlier macro-op of the request has. -/
def execBarrier (m : MopRef) (s : State) : Host.Outcome State Fault Refusal := work m 0xF2 (subIs 0) barrierWork s

end Sys2Proof.Machine
end

