-- ==== Sys2Proof/Machine/Window.lean ====
section
/-! DEFINITION. Window operators: strip form, the window record, CONV and POOL (R150-R152, R376-R390). -/

namespace Sys2Proof.Machine

/-! ### The window record (R377, R378). -/

/-- One axis of a window: taps, stride, dilation, padding before, padding in all, input size. -/
structure WinAxis where
  k : Nat
  s : Nat
  d : Nat
  p : Nat
  pads : Nat
  size : Nat
  deriving DecidableEq, Repr

/-- The output size along an axis. -/
def WinAxis.out (a : WinAxis) : Int := ((a.size + a.pads : Nat) - (a.d * (a.k - 1) : Nat) - 1 : Int).fdiv a.s + 1

/-- The input index that output `o` reads with tap `t`; `none` is padding. -/
def WinAxis.at_ (a : WinAxis) (o t : Nat) : Option Nat :=
  let i := a.s * o + a.d * t
  if a.p ≤ i && i - a.p < a.size then some (i - a.p) else none

/-- Some output reads the input index. -/
def WinAxis.reads (a : WinAxis) (i : Nat) : Bool :=
  (List.range a.k).any fun t => (i + a.p) ≥ a.d * t && (i + a.p - a.d * t) % a.s == 0 && ((i + a.p - a.d * t) / a.s : Nat) < a.out

/-- A window record: its axes along column, row and frame, AVG_PAD, and the output strip's width. -/
structure WinRec where
  x : WinAxis
  y : WinAxis
  t : WinAxis
  wflags : Nat
  stripW : Nat
  deriving DecidableEq, Repr

/-- The record at an address. -/
def winRec (s : State) (p va : Nat) : WinRec :=
  let b := vread s p va 64
  let f (o : Nat) : Nat := fld b o 1
  let ax (i causal size : Nat) : WinAxis := ⟨f i, f (4 + i), f (8 + i), f (0xC + i), if causal == 1 then f (0xC + i) else 2 * f (0xC + i), size⟩
  { x := ax 0 0 (fld b 0x10 4), y := ax 1 0 (fld b 0x14 4), t := ax 2 (if bit (f 3) 1 then 1 else 0) (fld b 0x18 4)
    wflags := f 3, stripW := fld b 0x1C 4 }

/-- AVG_PAD. -/
def WinRec.avgPad (w : WinRec) : Bool := bit w.wflags 0

/-- Taps of a window. -/
def WinRec.taps (w : WinRec) : Nat := w.x.k * w.y.k * w.t.k

/-- The taps along an axis in pieces of at most 7 (R381). -/
def piecesAxis (k : Nat) : List (List Nat) := (List.range (ceilDiv k 7)).map fun i => (List.range (Nat.min 7 (k - 7 * i))).map (7 * i + ·)

/-- The taps (kx, ky, kt) in tap order (R381). -/
def WinRec.tapList (w : WinRec) : List (Nat × Nat × Nat) :=
  ((piecesAxis w.t.k).map fun pt => ((piecesAxis w.y.k).map fun py => ((piecesAxis w.x.k).map fun px =>
    (pt.map fun kt => (py.map fun ky => px.map fun kx => (kx, ky, kt)).flatten).flatten).flatten).flatten).flatten

/-- NS, and the input strip's width (R378). -/
def WinRec.ns (w : WinRec) : Nat := w.x.out.toNat / w.stripW
def WinRec.stripIn (w : WinRec) : Nat := w.x.size / w.ns

/-- Positions in an output strip and in an input strip (R376). -/
def WinRec.outPos (w : WinRec) : Nat := w.stripW * w.t.out.toNat * w.y.out.toNat
def WinRec.inPos (w : WinRec) : Nat := w.stripIn * w.t.size * w.y.size

/-- The strip and position that output position `m` of strip `n` reads with a tap; `none` is padding (R376, R378). -/
def WinRec.input (w : WinRec) (n m : Nat) (tap : Nat × Nat × Nat) : Option (Nat × Nat) :=
  let ot := w.t.out.toNat
  match w.x.at_ (n * w.stripW + m % w.stripW) tap.1, w.y.at_ (m / w.stripW / ot) tap.2.1, w.t.at_ (m / w.stripW % ot) tap.2.2 with
  | some x, some y, some t => some (x / w.stripIn, x % w.stripIn + w.stripIn * (t + w.t.size * y))
  | _, _, _ => none

/-- A CONV that runs as MATMUL (R384). -/
def WinRec.isMatmul (w : WinRec) : Bool :=
  w.taps == 1 && w.x.s == 1 && w.y.s == 1 && w.t.s == 1 && w.x.p == 0 && w.y.p == 0 && w.t.p == 0

/-! ### Halos and side columns (R382, R383). -/

/-- Bytes from one position of a map to the next, and of the elements of a position. -/
def posBytes (t : TD) (c : Nat) : Nat × Nat :=
  let st := nth t.stride 1 0
  if tyBlocked t.ty then (st / 32 * blockBytes t.ty, ceilDiv c 32 * blockBytes t.ty)
  else if t.compressed then (st / 128 * compBytes t.comp, ceilDiv c 128 * compBytes t.comp)
  else (st * tyBytes t.ty, c * tyBytes t.ty)

/-- The positions that the outputs `m0` to `m0` + 127 of strip `n` read: (strip, position), each once. -/
def WinRec.tileReads (w : WinRec) (n m0 : Nat) : List (Nat × Nat) :=
  (((List.range (Nat.min 128 (w.outPos - m0))).map fun i => w.tapList.filterMap (w.input n (m0 + i))).flatten).eraseDups

/-- [lo, hi) of a tile within its own input strip, in bytes. -/
def WinRec.tileSpan (w : WinRec) (pb : Nat × Nat) (n m0 : Nat) : Option (Nat × Nat) :=
  let own := ((w.tileReads n m0).filter fun (g, _) => g == n).map (·.2)
  match own with
  | [] => none
  | q :: qs => some (qs.foldl Nat.min q * pb.1, qs.foldl Nat.max q * pb.1 + pb.2)

/-- The halos of the tiles of a line after its first. -/
def WinRec.halos (w : WinRec) (pb : Nat × Nat) (n : Nat) : List Nat :=
  let spans := (List.range (ceilDiv w.outPos 128)).map fun t => w.tileSpan pb n (128 * t)
  List.zipWith (fun a b => match a, b with
    | some (_, hi), some (lo, _) => hi - lo
    | _, _ => 0) spans (spans.drop 1)

/-- Side-column bytes of the tiles of a line. -/
def WinRec.sideBytes (w : WinRec) (pb : Nat × Nat) (n : Nat) : Nat :=
  sumNat ((List.range (ceilDiv w.outPos 128)).map fun t => ((w.tileReads n (128 * t)).filter fun (g, _) => g != n).length * pb.2)

/-! ### Checks of admission. -/

/-- A feature map in strip form (R376). -/
def Env.stripForm (e : Env) (m : Mop) (va struct : Nat) (pos ns : Nat) : Option Check :=
  let t := e.tns m va
  let unit := if t.td.compressed then 128 else 32
  let st (d : Nat) : Nat := nth t.td.stride d 0
  let z (d : Nat) : Nat := nth t.cap d 1
  firstBad [
    need (t.td.rank == 4) (badDesc struct 0x11),
    need (z 1 == pos) (badDesc struct 0x18), need (z 2 == ns) (badDesc struct 0x1C), need (1 ≤ z 3 && z 3 ≤ 65535) (badDesc struct 0x20),
    need (st 0 == 1) (badDesc struct 0x28), need (st 1 == roundUp (z 0) unit) (badDesc struct 0x2C),
    need (st 2 == st 1 * z 1) (badDesc struct 0x30), need (st 3 ≥ st 2 * z 2 && st 3 % unit == 0) (badDesc struct 0x34)]

/-- One axis of a record is in range. -/
def winAxisOk (a : WinAxis) (i : Nat) : List (Option Check) :=
  let bad := badDesc inAux
  [need (1 ≤ a.k && a.k ≤ 31) (bad i), need (1 ≤ a.s && a.s ≤ 8) (bad (4 + i)), need (1 ≤ a.d && a.d ≤ 16) (bad (8 + i)),
    need (a.p ≤ 31) (bad (0xC + i)), need (1 ≤ a.size) (bad (0x10 + 4 * i)), need (1 ≤ a.s && 1 ≤ a.out) (bad (0x10 + 4 * i))]

/-- The window record and the maps A and OUT (R377, R378, R383). -/
def Env.window (e : Env) (m : Mop) : Option Check :=
  match e.ptr m.aux 64 64 inMop 0x48 with
  | some c => some c
  | none =>
    let w := winRec e.s e.p m.aux
    let b := vread e.s e.p m.aux 64
    let bad := badDesc inAux
    let fields := firstBad (winAxisOk w.x 0 ++ winAxisOk w.y 1 ++ winAxisOk w.t 2 ++ [
      need (w.wflags < 4) (bad 3), need (fld b 7 1 == 0) (bad 7), need (fld b 0xB 1 == 0) (bad 0xB), need (fld b 0xF 1 == 0) (bad 0xF),
      need (w.stripW != 0 && w.x.out.toNat % w.stripW == 0) (bad 0x1C), need (allZero (b.drop 0x20)) (bad 0x20)])
    match fields with
    | some c => some c
    | none =>
      let narrow := w.ns == 1 || (w.x.size == w.x.s * w.x.out.toNat && w.x.p ≤ w.x.s * w.stripW && w.x.d * (w.x.k - 1) ≤ w.x.s * w.stripW)
      let a := e.tns m m.tdA
      firstBad [
        need narrow (bad 0x10),
        e.stripForm m m.tdA inA w.inPos w.ns, e.stripForm m m.tdOut inOut w.outPos w.ns, e.sameSize m m.tdOut 3 m.tdA 3 inOut,
        need (w.isMatmul || (List.range w.ns).all fun n => (w.halos (posBytes a.td (a.dim 0)) n).all (· ≤ 0x40000)) (bad 0)]

/-- Input channels as B's dimension 0 counts them: C_pad for each tap, at the largest bucket where they are a run-time size (R155, R381;
log 98); a CONV that runs as MATMUL may also have them as they are (R384, log 63). -/
def convCPad (w : WinRec) (c k : Nat) : Nat := if w.isMatmul && k == c then c else roundUp c 32

/-- CONV (R379-R384). -/
def Env.conv (e : Env) (m : Mop) : Option Check :=
  let w := winRec e.s e.p m.aux
  let c := (e.tns m m.tdA).dim 0
  let k := (e.tns m m.tdB).dim 0
  firstBad ([
    e.form m { out := .must, a := .must, b := .must, c := .may, coat := .may, aux := .must } (· == 0) 0,
    e.window m, e.plain m m.tdB inB,
    need ((e.tns m m.tdB).td.rank == 2) (badDesc inB 0x11), need (k == w.taps * convCPad w c k) (badDesc inB 0x14),
    e.sameSize m m.tdB 1 m.tdOut 0 inB]
    ++ (List.range 5).map (fun d => e.sameSize m m.tdC d m.tdOut d inC)
    ++ [e.product m])

/-- POOL (R379, R386). -/
def Env.pool (e : Env) (m : Mop) : Option Check :=
  firstBad [
    e.form m { out := .must, a := .must, aux := .must } (· < 3) 0, noNarrow m, e.window m, e.elemTypes m,
    e.sameSize m m.tdOut 0 m.tdA 0 inOut]

/-! ### CONV. -/

/-- The index of A that output position `r` of a batch reads at `k` of the contraction: `none` is padding or a channel beyond the input's. -/
def convAt (w : WinRec) (taps : List (Nat × Nat × Nat)) (c cp : Nat) (bt : List Nat) (r k : Nat) : Option (List Nat) :=
  if k % cp ≥ c then none
  else
    match taps[k / cp]? with
    | some tap => (w.input (nth bt 0 0) r tap).map fun (n, p) => [k % cp, p, n, nth bt 1 0]
    | none => none

/-- The same within A's actual sizes: what lies beyond a run-time size is the filler's (R145, R155). -/
def convRead (w : WinRec) (a b : Tns) (bt : List Nat) (r k : Nat) : Option (List Nat) :=
  (convAt w w.tapList (a.dim 0) (convCPad w (nth a.cap 0 1) (nth b.cap 0 1)) bt r k).filter a.has

/-- The indices of A that a window reads at all. -/
def winReads (w : WinRec) (a : Tns) : List (List Nat) :=
  (indices a.sz).filter fun ix =>
    let p := nth ix 1 0
    w.x.reads (nth ix 2 0 * w.stripIn + p % w.stripIn) && w.t.reads (p / w.stripIn % w.t.size) && w.y.reads (p / w.stripIn / w.t.size)

/-- Halo and side-column bytes of a window macro-op (R382, R383). -/
def winCnt (w : WinRec) (a o : Tns) : List (Nat × Nat) :=
  if w.isMatmul then []
  else
    let pb := posBytes a.td (a.dim 0)
    let lines := ceilDiv (o.dim 0) 128 * o.dim 3
    [(oRGN_HALO_BYTES, lines * sumNat ((List.range w.ns).map fun n => sumNat (w.halos pb n))),
      (oRGN_SIDE_BYTES, lines * sumNat ((List.range w.ns).map (w.sideBytes pb)))]

/-- The work of CONV (R380-R384). -/
def convWork (s : State) (x : Run) : Work :=
  let rd := rdr s x.p
  let c := x.fmt s
  let a := x.tns s x.m.tdA
  let b := x.tns s x.m.tdB
  let o := x.tns s x.m.tdOut
  let cT := if x.m.tdC == 0 then none else some (x.tns s x.m.tdC)
  let f := x.matForm s b
  match (unmappedInput s x.p (productInputs a b cT f)).or (unmappedRange s x.p ((inAux, x.m.aux, 64) :: productLists s x b)) with
  | some e => .fail e
  | none =>
    let w := winRec s x.p x.m.aux
    let at_ (bt : List Nat) (r k : Nat) : Option (List Nat) := convRead w a b bt r k
    let args (bt : List Nat) : MatArgs :=
      matArgs c rd a b cT f (b.dim 0) (b.dim 1) (at_ bt) (fun n k => some [k, n]) fun m n => [n, m] ++ bt
    .eff ((productEff c rd a b o cT f (x.bucketSizes s x.m.tdOut) (nth (x.bucketSizes s x.m.tdB) 0 1) at_
      (winReads w a) args).count (winCnt w a o))

/-- CONV: OUT = the convolution of A by B, plus C. -/
def execConv (m : MopRef) (s : State) : Host.Outcome State Fault Refusal := work m 0x40 (subIs 0) convWork s

/-! ### POOL (R386). -/

/-- The pool of a window: its taps in order, `none` a padding position. -/
def poolOf (k : SfCtx) (how : Nat) (avgPad : Bool) (vs : List (Option W32)) : W32 × List SfRes :=
  let ins := vs.filterMap id
  if how < 2 then (if ins.isEmpty then 0 else reduceF32 (how + 1) ins, [])
  else
    let l := if avgPad then vs.map fun v => v.getD 0 else ins
    if ins.isEmpty then (0, [])
    else
      let r := k.rcp (ofCount l.length)
      (fMul (reduceF32 0 l) r.code, [r])

/-- What a tap of a pooling window takes from A, as a stream reads it (R173): `none` is padding, and for a maximum or minimum a position beyond a run-time size too, which an
average takes as the filler's zero (R145, R149, R376). -/
def poolTap (s : State) (x : Run) (w : WinRec) (a : Tns) (ix : List Nat) (tap : Nat × Nat × Nat) : Option W32 :=
  (w.input (nth ix 2 0) (nth ix 1 0) tap).bind fun q =>
    let jx := [nth ix 0 0, q.2, q.1, nth ix 3 0]
    if a.has jx then some (streamElem (x.fmt s) (rdr s x.p) a jx) else if x.m.subop < 2 then none else some 0

/-- The work of POOL. -/
def poolWork (s : State) (x : Run) : Work :=
  let rd := rdr s x.p
  let c := x.fmt s
  let a := x.tns s x.m.tdA
  match (unmappedInput s x.p [(inA, a)]).or (unmappedRange s x.p [(inAux, x.m.aux, 64)]) with
  | some e => .fail e
  | none =>
    let o := x.tns s x.m.tdOut
    let w := winRec s x.p x.m.aux
    let res := (indices o.sz).map fun ix => poolOf (x.sf s) x.m.subop w.avgPad (w.tapList.map (poolTap s x w a ix))
    let log := (res.map (·.2)).flatten
    let word (ix : List Nat) : W32 := (nth res (linear o.sz ix) (0, [])).1
    let wr := writeTensor c o fun ix => if o.td.ty == tyINT32 then Num.ofInt (signed 32 (word ix).toNat) else f32 (word ix)
    let n := readCountsAt c rd a (winReads w a)
    .eff (wr.eff.count ([(oRGN_SF_RESULTS, log.length), (oRGN_SF_FLUSHES, (log.filter (·.flushed)).length), (oRGN_SPECIAL_IN, n.1),
      (oRGN_BAD_CODE, n.2)] ++ winCnt w a o))

/-- POOL, maximum. -/
def execPoolMax (m : MopRef) (s : State) : Host.Outcome State Fault Refusal := work m 0x41 (subIs 0) poolWork s
/-- POOL, minimum. -/
def execPoolMin (m : MopRef) (s : State) : Host.Outcome State Fault Refusal := work m 0x41 (subIs 1) poolWork s
/-- POOL, average. -/
def execPoolAverage (m : MopRef) (s : State) : Host.Outcome State Fault Refusal := work m 0x41 (subIs 2) poolWork s

end Sys2Proof.Machine
end

