-- ==== Sys2Proof/Machine/Groups.lean ====
section
/-! DEFINITION. The tile walk: groups and their home dies, the group queues, what a cluster takes next, and the chunk credits of the units
(R12-R16, R138-R143, R150, R308). No result depends on it (R144). -/

namespace Sys2Proof.Machine

/-- A group before it has a home: the first byte of its larger operand's strip, if that is not read through broadcast alone; the rest is that of
a `Group`. -/
structure Walk where
  first : Option Nat
  tiles : Nat
  edges : Nat
  strip : List Nat
  chunks : Nat := 1
  width : Nat := 16
  line : Bool := false
  sweep : Nat := 0
  batch : Nat := 0
  band : Nat := 0
  strips : List (List Strip) := []
  deriving DecidableEq, Repr

/-- Bytes of `rows` rows of `n` elements. -/
def rowsBytes (t : Tns) (rows n : Nat) : Nat :=
  rows * (if tyBlocked t.td.ty then ceilDiv n 32 * blockBytes t.td.ty
    else if t.td.compressed then ceilDiv n 128 * compBytes t.td.comp else n * tyBytes t.td.ty)

/-- An operand read only through broadcast along the given dimensions: it has stride 0 along each of them that is longer than 1. -/
def broadcastOnly (t : Tns) (ds : List Nat) : Bool :=
  ds.any (fun d => t.dim d > 1) && ds.all fun d => t.dim d ≤ 1 || nth t.td.stride d 0 == 0

/-- A strip of the larger operand: its first byte for the home, unless the operand is read through broadcast, and what tells its bytes from those
of others: first byte, bytes of a row of `k` elements, stride of a row. -/
def stripAt (t : Tns) (ds ix : List Nat) (k : Nat) : Option Nat × List Nat :=
  (if broadcastOnly t ds then none else some (elemVa t.td ix), [elemVa t.td ix, rowsBytes t 1 k, nth t.td.stride 1 0])

/-- The tile (mt, nt) of a batch index reaches beyond a size. -/
def edgeTile (sz : List Nat) (mt nt : Nat) (bt : List Nat) : Bool :=
  128 * (nt + 1) > nth sz 0 1 || 128 * (mt + 1) > nth sz 1 1 || (List.range 3).any fun d => nth bt d 0 ≥ nth sz (2 + d) 1

/-- Tiles of a run of `n` starting at tile `a`, of `total`. -/
def tileRun (total a n : Nat) : List Nat := (List.range (Nat.min n (total - a))).map (a + ·)

/-- Groups of 4 by 4 tiles over sizes `grid` (R139): `mFast` says that the M groups run fastest; `va` gives a group's first byte, `strips` the
operand strips of the tile at an M and an N tile. -/
def gridGroups (sz grid : List Nat) (mFast : Bool) (chunks : Nat) (strips : Nat → Nat → List Nat → List Strip)
    (va : Nat → Nat → List Nat → Option Nat × List Nat) : List Walk :=
  let mt := ceilDiv (nth grid 1 1) 128
  let nt := ceilDiv (nth grid 0 1) 128
  let bts := indices (grid.drop 2)
  let ms := List.range (ceilDiv mt 4)
  let ns := List.range (ceilDiv nt 4)
  let order : List (Nat × Nat) :=
    if mFast then (ns.map fun n => ms.map fun m => (m, n)).flatten else (ms.map fun m => ns.map fun n => (m, n)).flatten
  (bts.map fun bt => order.map fun (gm, gn) =>
    let cols := tileRun nt (4 * gn) 4
    let tiles : List (Nat × Nat) := ((tileRun mt (4 * gm) 4).map fun m => cols.map fun n => (m, n)).flatten
    { first := (va gm gn bt).1, tiles := tiles.length, edges := (tiles.filter fun (m, n) => edgeTile sz m n bt).length
      strip := (va gm gn bt).2 ++ [if mFast then cols.length else tiles.length / Nat.max 1 cols.length], chunks := chunks
      width := cols.length, batch := linear (grid.drop 2) bt, band := 4 * gm, strips := tiles.map fun (m, n) => strips m n bt : Walk }).flatten

/-- Groups of up to 16 tiles of one line (R150): the line's home is that of its first tile. -/
def lineGroups (sz grid : List Nat) (chunks : Nat) (va : Nat → List Nat → Option Nat × List Nat) : List Walk :=
  let mt := ceilDiv (nth grid 1 1) 128
  let ns := List.range (ceilDiv (nth grid 0 1) 128)
  ((indices (grid.drop 2)).map fun bt => (ns.map fun n =>
    (List.range (ceilDiv mt 16)).map fun g =>
      let tiles := tileRun mt (16 * g) 16
      { first := (va n bt).1, tiles := tiles.length, edges := (tiles.filter fun m => edgeTile sz m n bt).length
        strip := (va n bt).2, chunks := chunks, line := true, batch := linear (grid.drop 2) bt : Walk }).flatten).flatten

/-- The input of an element-wise opcode with the most bytes per tile, the first among equals (R139). -/
def largestInput (s : State) (x : Run) : Option Tns :=
  let bytes (t : Tns) : Nat :=
    let n (d : Nat) : Nat := if nth t.td.stride d 0 == 0 then 1 else Nat.min 128 (t.dim d)
    rowsBytes t (n 1) (n 0)
  let ts := ([x.m.tdA, x.m.tdB, x.m.tdC].filter (· != 0)).map (x.tns s)
  ts.foldl (fun best t => match best with | some b => if bytes t > bytes b then some t else some b | none => some t) none

/-- Whether A is the larger operand of a product over `k`: a strip is counted with the rows that it has, 128 or OUT's size (R139; DESIGN CHOICE,
log 97). -/
def productLarger (s : State) (x : Run) (k : Nat) : Bool :=
  let a := x.tns s x.m.tdA
  let b := x.tns s x.m.tdB
  let o := x.tns s x.m.tdOut
  rowsBytes a (Nat.min 128 (o.dim 1)) k ≥ rowsBytes b (Nat.min 128 (o.dim 0)) k

/-- K chunks of a product. -/
def productChunks (s : State) (x : Run) (k : Nat) : Nat :=
  let ta := if x.m.narrowA && x.st.exec == 0 then tyE2M1 else (x.tns s x.m.tdA).td.ty
  Nat.max 1 (ceilDiv k (Nat.max 1 (kChunk ta (x.tns s x.m.tdB).td.ty)))

/-- No strip is named: what the fetch engine reads through the catch for these opcodes is open (log 112). -/
def noStrips (_ _ : Nat) (_ : List Nat) : List Strip := []

/-- The operand strips of a tile of a product, with the bytes of a K chunk of 128 rows or columns as they are stored (R15, R143). -/
def productStrips (s : State) (x : Run) (m n : Nat) (bt : List Nat) : List Strip :=
  let a := x.tns s x.m.tdA
  let b := x.tns s x.m.tdB
  let kc := kChunk (if x.m.narrowA && x.st.exec == 0 then tyE2M1 else a.td.ty) b.td.ty
  [⟨elemVa a.td ([0, 128 * m] ++ bt), rowsBytes a 128 kc⟩, ⟨elemVa b.td ([0, 128 * n] ++ bt), rowsBytes b 128 kc⟩]

/-- Groups of MATMUL and MATMUL_ADD. -/
def matmulGroups (s : State) (x : Run) : List Walk :=
  let a := x.tns s x.m.tdA
  let b := x.tns s x.m.tdB
  let k := nth (x.bucketSizes s x.m.tdA) 0 1
  let big := productLarger s x k
  gridGroups (x.tns s x.m.tdOut).sz (x.bucketSizes s x.m.tdOut) (!big) (productChunks s x k) (productStrips s x) fun gm gn bt =>
    if big then stripAt a [1, 2, 3, 4] ([0, 512 * gm] ++ bt) k else stripAt b [1, 2, 3, 4] ([0, 512 * gn] ++ bt) k

/-- Groups of an element-wise or row opcode over the tensor at `va`. -/
def elementGroups (s : State) (x : Run) (va : Nat) : List Walk :=
  gridGroups (x.tns s va).sz (x.bucketSizes s va) false 1 noStrips fun gm gn bt =>
    match largestInput s x with
    | some t => stripAt t [0, 1, 2, 3, 4] ([512 * gn, 512 * gm] ++ bt) 512
    | none => (none, [])

/-- Groups of a window or detection opcode (R150, R384, R397). A CONV's K range is that of B at its bucket (R155). POOL, BOX_DECODE and NMS have
one input of which a line reads its images: its strip is taken as A from channel 0 of the line's image on (DESIGN CHOICE, log 97). -/
def windowGroups (s : State) (x : Run) : List Walk :=
  let o := x.tns s x.m.tdOut
  let grid := x.bucketSizes s x.m.tdOut
  let a := x.tns s x.m.tdA
  if x.m.opcode == 0x40 then
    let k := nth (x.bucketSizes s x.m.tdB) 0 1
    let big := productLarger s x k
    let b := x.tns s x.m.tdB
    let ch := productChunks s x k
    if (winRec s x.p x.m.aux).isMatmul then
      gridGroups o.sz grid (!big) ch noStrips fun gm gn bt =>
        if big then stripAt a [1, 2, 3, 4] ([0, 512 * gm] ++ bt) k else stripAt b [1] [0, 512 * gn, 0, 0, 0] k
    else lineGroups o.sz grid ch fun n bt => if big then stripAt a [1, 2, 3, 4] ([0, 0] ++ bt) k else stripAt b [1] [0, 128 * n, 0, 0, 0] k
  else lineGroups o.sz grid 1 fun _ bt => stripAt a [1, 2, 3, 4] ([0, 0] ++ bt) (a.dim 0)

/-- One item: its first byte, whether its query tile reaches beyond the queries, its chunk steps. -/
abbrev Item := Option Nat × Bool × Nat

/-- Items of one slot and key-value head in groups of 16 (R308): `strip` names the keys and values that they read. -/
def itemGroups (strip : List Nat) (items : List Item) : List Walk :=
  (List.range (ceilDiv items.length 16)).map fun g =>
    let mine := (items.drop (16 * g)).take 16
    { first := (mine.head?).bind (·.1), tiles := mine.length, edges := (mine.filter fun i => i.2.1).length
      strip := strip, chunks := Nat.max 1 (maxNat (mine.map fun i => i.2.2)) }

/-- Groups of the attention opcodes (R303, R308, R311). -/
def attnGroups (s : State) (x : Run) : List Walk :=
  let a := attnRec s x.p x.m.aux
  let rows := if a.d == 256 then 64 else 128
  (((List.range x.st.slots.length).zip x.st.slots).map fun (i, sl) =>
    match sl.vacant, ctx? s sl.ctx with
    | false, some c =>
      let q := sl.q1 - sl.q0
      ((List.range a.hkv).map fun g =>
        if x.m.opcode == 0x31 then
          itemGroups [sl.ctx, sl.layer, g] ((List.range (ceilDiv q 128)).map fun t =>
            ((some (elemVa (x.tns s x.m.tdA).td [0, 128 * t, g, i, 0]), 128 * (t + 1) > q, 1) : Item))
        else
          let src := localSrc c a sl
          let spans := Nat.max 1 a.spans
          itemGroups [sl.ctx, sl.layer, g] (((List.range (a.hq / Nat.max 1 a.hkv)).map fun _ =>
            ((List.range (ceilDiv q rows)).map fun t =>
              let w := src.work a (c.base + sl.q0 + rows * t) (c.base + sl.q0 + Nat.min q (rows * (t + 1)) - 1)
              (List.range spans).map fun k =>
                let mine := spanOf spans k w
                (((mine.head?).map fun ch => src.at_ (4 * ch) g, rows * (t + 1) > q, mine.length) : Item)).flatten).flatten)).flatten
    | _, _ => []).flatten

/-- The groups of a macro-op in the order of their enumeration. -/
def walkOf (s : State) (x : Run) : List Walk :=
  let op := x.m.opcode
  if tileless op then []
  else if op == 0x00 || op == 0x01 then matmulGroups s x
  else if op < 0x30 then
    if twoSweeps op then
      (elementGroups s x x.m.tdA).map (fun w => { w with sweep := 1 }) ++ (elementGroups s x x.m.tdOut).map fun w => { w with sweep := 2 }
    else elementGroups s x x.m.tdOut
  else if op < 0x40 then attnGroups s x
  else windowGroups s x

/-- The home die of a group among the dies that have a region for the macro-op (R140, R521). -/
def homeDie (s : State) (p : Nat) (dies : List Nat) (w : Walk) : Nat :=
  match dies.head? with
  | none => 0
  | some low =>
    match w.first.bind (translate s p) with
    | some e => if e.flash then low else (nearestDie (e.pa / hbmSize) dies).getD low
    | none => low

/-- Count the groups that enter each die's queue (R141). -/
def countEntered (s : State) (gs : List Group) : State :=
  forEach (List.range 12) (fun s d => bump s (pgDIE + d) oDIE_GROUPS (gs.filter (·.die == d)).length) s

/-- Enter the groups of a macro-op that begins to hand out tiles in the queues of the dies (R141): `rs` are the regions it may run on. -/
def enterGroups (s : State) (x : Run) (rs : List Nat) : State :=
  let dies := (rs.map dieOf).eraseDups
  let ws := walkOf s x
  let gs : List Group := List.zipWith (fun i (w : Walk) =>
    { req := x.r.id, mop := x.i, number := i, die := homeDie s x.p dies w, tiles := w.tiles, edges := w.edges, strip := w.strip
      chunks := w.chunks, width := w.width, line := w.line, sweep := w.sweep, batch := w.batch, band := w.band, strips := w.strips }) (List.range ws.length) ws
  modMop (countEntered { s with fab := { s.fab with queue := s.fab.queue ++ gs } } gs) x.r.id x.i fun st => { st with queued := true }

/-- A cluster may take a group: its region runs and may run the group's macro-op, whose turn it is (R117, R521). -/
def mayTake (s : State) (p r : Nat) (g : Group) : Bool :=
  match req? s g.req with
  | some q => q.part == p && (leaveRgns s g.req g.mop p).contains r && tilesBefore s q g.mop
      && ((mopSt? q g.mop).any fun st => st.stage == .granted)
  | none => false

/-- The group that a cluster takes (R142): of its own die, by strip, whichever macro-op it belongs to, and then the head; then of the nearest die
that has one. A group of a line is never chosen by its strip (R150). With a partial grant a group may be taken from any die (R521). -/
def nextGroup (s : State) (cluster : Nat) (last : Option Group) : Option Group :=
  let r := clusterRgn cluster
  match (rgn s r).owner with
  | none => none
  | some p =>
    let can := s.fab.queue.filter (mayTake s p r)
    let own := can.filter (·.die == dieOf r)
    let seq := (rgn s r).latch.seq
    let sticky := last.bind fun l => own.find? fun g => !g.line && g.strip == l.strip
    match (if bit seq 1 then sticky else none), own.head? with
    | some g, _ => some g
    | none, some g => some g
    | none, none =>
      let far := if bit seq 0 then can else can.filter fun g =>
        !((leaveRgns s g.req g.mop p).map dieOf).contains g.die
      match nearestDie (dieOf r) ((far.map (·.die)).eraseDups) with
      | some d => far.find? (·.die == d)
      | none => none

/-- Every tile of the cluster's present group has begun its last K chunk. -/
def clusterReady (s : State) (cluster : Nat) : Bool :=
  s.fab.units.all fun u => u.unit / 16 != cluster || u.chunk ≥ u.chunks

/-- The unit that tile `j` of a group goes to in a cluster: that at row r and column c to 4r + c (R143), tile j of a line or of items to j
(R150, R308). -/
def Group.unitOf (g : Group) (cluster j : Nat) : Nat := 16 * cluster + 4 * (j / g.width) + j % g.width

/-- Rows of a unit's last tile that still stand in its accumulators: all of them when it has begun its last chunk, and what stood before
otherwise (R16). -/
def rowsBack (s : State) (unit : Nat) : Nat :=
  match s.fab.units.find? (·.unit == unit) with
  | some u => if u.chunk ≥ u.chunks then 128 else u.back
  | none => 0

/-! ### The catch (R143, R232-R234). -/

/-- Bytes of working space that the macro-ops and unit reductions in a cluster need (R233, R369): a lapsed claim on an edge die takes 32 KiB for
each of its slots in the partition's lowest cluster there. -/
def workNeed (s : State) (cluster : Nat) : Nat :=
  let claims := s.links.claims.filter fun c => c.lapsed
    && (match req? s c.req with | some r => (redRgn s r.part c.edge).any fun g => 12 * g == cluster | none => false)
  let mop := match s.fab.held.find? (·.cluster == cluster) with
    | some h => (match req? s h.group.req with
        | some r => Config.workBytes (mopOf s r h.group.mop).opcode h.group.mop cluster
        | none => 0)
    | none => 0
  sumNat (claims.map fun c => c.slots * 0x8000) + mop

/-- Bytes of a cluster's catch: CATCH_SIZE x 256 KiB, less what the working region lacks (R232, R233). -/
def catchSize (s : State) (cluster : Nat) : Nat :=
  Nat.min (Nat.min (bits (memCtl s (clusterRgn cluster)) 20 16) 16 * 0x40000) (0x400000 - workNeed s cluster)

/-- The youngest entries that fit into `size` bytes: the oldest go first (R233, R234). -/
def fitKept (size : Nat) : List CatchEntry → List CatchEntry
  | [] => []
  | e :: es => if sumNat ((e :: es).map (·.bytes)) ≤ size then e :: es else fitKept size es

/-- A cluster's catch holds no more than its size. -/
def trimKept (s : State) (cluster : Nat) : State :=
  let mine := s.fab.kept.filter (·.cluster == cluster)
  { s with fab := { s.fab with kept := (s.fab.kept.filter (·.cluster != cluster)) ++ fitKept (catchSize s cluster) mine } }

/-- The fetch engine reads a K chunk of a strip for a macro-op: from the catch, or on a miss from memory into it (R234). -/
def fetchChunk (g : Group) (cluster chunk : Nat) (s : State) (t : Strip) : State :=
  let pg := rgnPage (clusterRgn cluster)
  let key (e : CatchEntry) : Bool := e.cluster == cluster && e.va == t.va && e.chunk == chunk && e.req == g.req && e.mop == g.mop
  if s.fab.kept.any key then bump s pg oRGN_CATCH_HITS 1
  else
    let s := bump s pg oRGN_CATCH_MISSES 1
    trimKept { s with fab := { s.fab with kept := s.fab.kept ++ [⟨cluster, t.va, chunk, g.req, g.mop, t.bytes⟩] } } cluster

/-- The tile of a group that a unit of its cluster holds. -/
def Group.tileOf (g : Group) (unit : Nat) : Nat := if g.width == 16 then unit % 16 else unit % 16 / 4 * g.width + unit % 4

/-- The fetches of the K chunk that a unit begins. -/
def fetchFor (s : State) (u : UnitRun) : State :=
  match s.fab.held.find? (·.cluster == u.unit / 16) with
  | some h => forEach (nth h.group.strips (h.group.tileOf u.unit) []) (fetchChunk h.group (u.unit / 16) u.chunk) s
  | none => s

/-- A region's clusters do work: it runs, and no trip has stopped its die (R531). -/
def rgnWorks (s : State) (r : Nat) : Bool := (rgn s r).runs && !dieTripped s (dieOf r)

/-- GROUP_TAKE: a cluster takes its next group, and its tiles go to the cluster's units (R142, R143). The group before it is done but for the
rows that wait to be written back (R16). -/
def execGroupTake (cluster : Nat) (s : State) : Host.Outcome State Fault Refusal :=
  .next (if cluster ≥ 576 || !serving s || !rgnWorks s (clusterRgn cluster) || !clusterReady s cluster then s
    else
      let last := (s.fab.held.find? (·.cluster == cluster)).map (·.group)
      match nextGroup s cluster last with
      | none => s
      | some g =>
        let s := match last with
          | some l => countGroup s (clusterRgn cluster) l
          | none => s
        let s := countTake s (clusterRgn cluster) g
        let us : List UnitRun := (List.range (Nat.min 16 g.tiles)).map fun j =>
          { unit := g.unitOf cluster j, chunk := 0, chunks := g.chunks, back := rowsBack s (g.unitOf cluster j) }
        trimKept { modMop s g.req g.mop (fun st => { st with tiles := true }) with fab := { s.fab with
            queue := s.fab.queue.erase g
            held := (s.fab.held.filter fun h => h.cluster != cluster) ++ [{ cluster := cluster, group := g }]
            units := (s.fab.units.filter fun u => u.unit / 16 != cluster) ++ us } } cluster)

/-- A group covers a tile of band `b` of a batch index (R208). -/
def Group.covers (g : Group) (batch b : Nat) : Bool := g.batch == batch && g.band ≤ b && b < g.band + ceilDiv g.tiles (Nat.max 1 g.width)

/-- A sweep-1 tile of a band has not written its partials: its group waits, or a unit that holds it has chunks to run (R208). -/
def sweepOneLeft (s : State) (g : Group) (b : Nat) : Bool :=
  let mine (h : Group) : Bool := h.req == g.req && h.mop == g.mop && h.sweep == 1 && h.covers g.batch b
  let left (held : List Held) (us : List UnitRun) : Bool :=
    held.any fun h => mine h.group
      && us.any fun u => u.unit / 16 == h.cluster && u.unit % 16 / 4 == b - h.group.band && u.chunk < u.chunks
  s.fab.queue.any mine || left s.fab.held s.fab.units || s.fab.rgns.any fun r => r.saved.any fun v => left v.held v.units

/-- The first credit of a tile of sweep 2 waits for every tile of sweep 1 of its band (R208). -/
def creditHeld (s : State) (u : UnitRun) : Bool :=
  u.chunk == 0 && match s.fab.held.find? (·.cluster == u.unit / 16) with
    | some h => h.group.sweep == 2 && sweepOneLeft s h.group (h.group.band + u.unit % 16 / 4)
    | none => false

/-- CHUNK_CREDIT: a unit that holds the credits of both operands starts its next K chunk, which the fetch engine has read through the catch (R15,
R143). The first chunk of a tile goes into each row once
the tile before has been written back there, so that none of it stands in the accumulators after it (R16). -/
def execChunkCredit (unit : Nat) (s : State) : Host.Outcome State Fault Refusal :=
  .next (if serving s && unit < 9216 && rgnWorks s (clusterRgn (unit / 16)) then
      let s := forEach (s.fab.units.filter fun u => u.unit == unit && u.chunk < u.chunks && !creditHeld s u) fetchFor s
      { s with fab := { s.fab with units := s.fab.units.map fun u =>
          if u.unit == unit && u.chunk < u.chunks && !creditHeld s u then { u with chunk := u.chunk + 1, back := 0 } else u } }
    else s)

end Sys2Proof.Machine
end

