-- ==== Sys2Proof/Machine/MoveOps.lean ====
section
/-! DEFINITION. Memory macro-ops: COPY, PREFETCH, PIN, UNPIN, image commits, shootdowns and checkpoints (R262, R263, R268, R274-R278,
R481-R483, R603). -/

namespace Sys2Proof.Machine

/-! ### Copying elements as they are stored. -/

/-- The bytes of a block with its elements beyond the size as +0; a whole block is copied as it stands (R43, R603). -/
def blockBytesAt (rd : Reader) (t : Tns) (ix : List Nat) : Bytes :=
  let raw := blockAt rd t.td (elemOff t.td ix)
  let es := groupIx t.sz t.td.blockDim 32 ix
  if es.length == 32 then raw else packBlock t.td.ty ((List.range es.length).map fun i => (blockCode t.td.ty raw i).1)

/-- Copy one block and its scale from index `ix` of a tensor to index `jx` of another. -/
def copyBlock (rd : Reader) (a o : Tns) (ix jx : List Nat) : List (Nat × Byte) :=
  bytesAt (elemVa o.td jx) (blockBytesAt rd a ix) ++ [(o.td.scale + scaleIdx o jx, rd (a.td.scale + scaleIdx a ix))]

/-- Copy one element of a scalar type that neither tensor stores compressed. -/
def copyScalar (rd : Reader) (a o : Tns) (ix jx : List Nat) : List (Nat × Byte) :=
  bytesAt (elemVa o.td jx) (readN rd (elemVa a.td ix) (tyBytes a.td.ty))

/-- The effects of COPY (R603): scalar elements pair in ascending linear index, blocks at equal indices. -/
def copyEff (c : FmtCtl) (rd : Reader) (a o : Tns) : Eff :=
  let pair (jx : List Nat) : List Nat := unlinear a.sz (linear o.sz jx)
  let groups (d : Nat) : List Grp := (groupStarts o.sz d 32).map fun ix => ⟨d, ix, (groupIx o.sz d 32 ix).length, false⟩
  if tyBlocked a.td.ty then
    { bytes := ((groupStarts a.sz a.td.blockDim 32).map fun ix => copyBlock rd a o ix ix).flatten, groups := groups o.td.blockDim }
  else if a.td.compressed || o.td.compressed then (writeTensor c o fun jx => (valAt c rd a (pair jx)).1).eff
  else { bytes := ((indices o.sz).map fun jx => copyScalar rd a o (pair jx) jx).flatten, groups := groups 0 }

/-! ### Packed copies (R104, R482). -/

/-- The elements of a tensor, packed densely with dimension 0 fastest, in whole blocks for a blocked type. -/
def packElems (rd : Reader) (t : Tns) : Bytes :=
  if tyBlocked t.td.ty then ((groupStarts t.sz t.td.blockDim 32).map fun ix => blockAt rd t.td (elemOff t.td ix)).flatten
  else ((indices t.sz).map fun ix => readN rd (elemVa t.td ix) (tyBytes t.td.ty)).flatten

/-- Its scale array (R127). -/
def packScales (rd : Reader) (t : Tns) : Bytes := readN rd t.td.scale (scaleBytes t)

/-- The bytes of a tensor that come from its packed elements at `ea` and its packed scales at `sa`. -/
def unpackTns (rd : Reader) (t : Tns) (ea sa : Nat) : List (Nat × Byte) :=
  if tyBlocked t.td.ty then
    let n := blockBytes t.td.ty
    let starts := groupStarts t.sz t.td.blockDim 32
    ((List.range starts.length).zipWith (fun k ix => bytesAt (elemVa t.td ix) (readN rd (ea + n * k) n)) starts).flatten
      ++ bytesAt t.td.scale (readN rd sa (scaleBytes t))
  else
    let n := tyBytes t.td.ty
    ((List.range t.count).zipWith (fun k ix => bytesAt (elemVa t.td ix) (readN rd (ea + n * k) n)) (indices t.sz)).flatten

/-! ### Checks of admission. -/

/-- A range covers whole pages: its ends lie at ends of pages; a page of a context that is not allocated counts as large (R278). -/
def wholePages (s : State) (p va n : Nat) : Bool :=
  let page (a : Nat) : Nat := match translate s p a with | some e => e.size | none => Config.pageLarge
  n == 0 || (vaOff va % page va == 0 && (vaOff va + n) % page (va + n - 1) == 0)

/-- TD_A of the opcodes 0x80-0x84 covers whole pages (R278). -/
def Env.wholeA (e : Env) (m : Mop) : Option Check :=
  let a := e.tns m m.tdA
  firstBad [need (wholePages e.s e.p a.td.base (extentBytes a)) (badDesc inA 0),
    need (!tyBlocked a.td.ty || wholePages e.s e.p a.td.scale (scaleBytes a)) (badDesc inA 8)]

/-- A size field of a tensor is read at run time. -/
def TD.runtime (t : TD) : Bool := t.size.any fun z => bit z 31

/-- What COPY asks of two tensors of given sizes (R278, R603). -/
def copyShape (x y : TD) (n m : List Nat) : Option Check :=
  firstBad [need (x.ty == y.ty) (badDesc inOut 0x10),
    if tyBlocked x.ty then firstBad [need (y.rank == x.rank) (badDesc inOut 0x11), need (y.blockDim == x.blockDim) (badDesc inOut 0x12),
      need (n == m) (badDesc inOut 0x14)]
    else need (n.foldl (· * ·) 1 == m.foldl (· * ·) 1) (badDesc inOut 0x14)]

/-- COPY. -/
def Env.copy (e : Env) (m : Mop) : Option Check :=
  let a := e.tns m m.tdA
  let o := e.tns m m.tdOut
  let lens (t : Tns) : List Nat := if a.td.runtime || o.td.runtime then [] else t.cap
  firstBad [e.form m { out := .must, a := .must } (· == 0) 0, noNarrow m, copyShape a.td o.td (lens a) (lens o), e.wholeA m]

/-- PREFETCH, PIN and UNPIN. -/
def Env.tier (e : Env) (m : Mop) : Option Check :=
  firstBad [e.form m { a := .must } (· == 0) 0, noNarrow m, e.allPlain m, e.wholeA m]

/-- IMAGE_WRITE and IMAGE_SEAL (R278): the session that owns the partition is secure. -/
def Env.image (e : Env) (m : Mop) (write : Bool) : Option Check :=
  firstBad [
    e.form m { a := if write then .must else .no, bucket := if write then .may else .no } (· == 0) 12, noNarrow m,
    need ((sess e.s (partSess e.s e.p)).secure) (badPart inMop 0),
    need (m.p 0 4 < 16) (badDesc inMop 0x70),
    need (m.p 4 8 + (if write then extentBytes (e.tns m m.tdA) else 0) ≤ imgSlotSize e.s - 4096) (badDesc inMop 0x74),
    if write then firstBad [e.allPlain m, e.wholeA m] else none]

/-- Fields of a shootdown's PARAM (R268). -/
structure MapParam where
  va : Nat
  count : Nat
  w : Bool
  pin : Bool
  small : Bool
  image : Nat
  deriving DecidableEq, Repr

/-- They stand at these bytes. -/
def mapParam (m : Mop) : MapParam :=
  { va := m.p 0 8, count := m.p 8 4, w := bit (m.p 12 4) 0, pin := bit (m.p 12 4) 1, small := bit (m.p 12 4) 2, image := bits (m.p 12 4) 11 8 }

/-- The size of its pages, and their offsets within their space. -/
def MapParam.page (q : MapParam) : Nat := if q.small then Config.pageSmall else Config.pageLarge
def MapParam.offs (q : MapParam) : List Nat := (List.range q.count).map fun i => vaOff q.va + i * q.page
def MapParam.bytes (q : MapParam) : Nat := q.count * q.page

/-- SHOOTDOWN (R268). -/
def Env.shootdown (e : Env) (m : Mop) : Option Check :=
  let q := mapParam m
  let bad (o : Nat) : Option Check := badDesc inMop (0x70 + o)
  firstBad [
    e.form m { bucket := .no } (· < 5) 16, noNarrow m,
    need (q.va % q.page == 0 && rangeInSpace q.va q.bytes) (bad 0), need (1 ≤ q.count && q.count ≤ 2 ^ 20) (bad 8),
    need (bits (m.p 12 4) 7 3 == 0 && bits (m.p 12 4) 31 12 == 0 && !(m.subop == 1 && q.pin)) (bad 12),
    need (m.subop == 3 || q.image == 0) (bad 13)]

/-- A tensor's place in a checkpoint area: offset and length of its elements and of its scale array. -/
structure Part where
  elemOff : Nat
  elemLen : Nat
  scaleOff : Nat
  scaleLen : Nat
  deriving DecidableEq, Repr

/-- The parts of a list of tensors from an offset on, each aligned to 4 KiB (R482). -/
def ckptParts : Nat → List Tns → List Part
  | _, [] => []
  | off, t :: ts =>
    let n := denseElems t
    let k := scaleBytes t
    let so := off + roundUp n 4096
    ⟨off, n, if k == 0 then 0 else so, k⟩ :: ckptParts (so + roundUp k 4096) ts

/-- Bytes that a checkpoint takes. -/
def ckptSize (ts : List Tns) : Nat := 4096 + sumNat (ts.map saveParts)

/-- CKPT_SAVE and CKPT_RESTORE (R481). -/
def Env.ckpt (e : Env) (m : Mop) : Option Check :=
  let form := firstBad [e.form m { bucket := .no, aux := .must } (· == 0) 0, noNarrow m, e.ptr m.aux 64 64 inMop 0x48]
  match form with
  | some c => some c
  | none =>
    let r := ckptRec e.s e.p m.aux
    let b := vread e.s e.p m.aux 64
    let bad := badDesc inAux
    let head := firstBad [
      need (1 ≤ r.ntd && r.ntd ≤ 16) (bad 0), need (fld b 1 7 == 0) (bad 1), need (r.dest % 4096 == 0) (bad 8),
      e.extent true r.dest r.bytes inAux 8, need (allZero (b.drop 0x20)) (bad 0x20), e.extent false (m.aux + 0x40) (8 * r.ntd) inAux 0x40]
    match head with
    | some c => some c
    | none =>
      firstBad ((List.range r.ntd).map (fun i => e.auxTensor m (m.opcode == 0xF5) (nth r.tds i 0) (0x40 + 8 * i))
        ++ [need (ckptSize (r.tensors e.s e.p) ≤ r.bytes) (bad 0x10)])

/-! ### COPY and the tiers (R274-R278). -/

/-- The work of COPY. -/
def copyWork (s : State) (x : Run) : Work :=
  let a := x.tns s x.m.tdA
  let o := x.tns s x.m.tdOut
  match (copyShape a.td o.td a.sz o.sz).or (unmappedInput s x.p [(inA, a)]) with
  | some c => .fail c
  | none => .eff (copyEff (x.fmt s) (rdr s x.p) a o)

/-- COPY: OUT = A element by element (R603). -/
def execCopy (m : MopRef) (s : State) : Host.Outcome State Fault Refusal := work m 0x80 (subIs 0) copyWork s

/-- The addresses of the pages of a tensor's extent. -/
def extentPages (t : Tns) : List Nat :=
  pageSteps t.td.base (extentBytes t) ++ (if tyBlocked t.td.ty then pageSteps t.td.scale (scaleBytes t) else [])

/-- The entries of a list of addresses, each once; `none` where one is not mapped (R267). -/
def entriesAt (s : State) (p : Nat) : List Nat → List Pte → Option (List Pte)
  | [], acc => some acc
  | a :: as, acc =>
    match translate s p a with
    | none => none
    | some e => entriesAt s p as (if acc.any fun x => x.space == e.space && x.va == e.va then acc else acc ++ [e])

/-- Promote a list of pages (R274, R275). -/
def promoteAll (p : Nat) : List Pte → State → Option State
  | [], s => some s
  | e :: es, s =>
    match findPte s e.space e.va with
    | some e' => (promote s p e').bind (promoteAll p es)
    | none => none

/-- Bytes of the pinned HBM pages of p. -/
def pinnedBytes (s : State) (p : Nat) : Nat := sumNat ((s.pool.ptes.filter fun e => e.owner == p && !e.flash && e.pin).map Pte.size)

/-- Promote a list of pages and pin each as it comes, so that none goes for a later one (R268, R276, R278). -/
def pinAll (p : Nat) : List Pte → State → Option State
  | [], s => some s
  | e :: es, s =>
    match findPte s e.space e.va with
    | some e' => (promote s p e').bind fun s => pinAll p es (modPte s e.space e.va fun x => { x with pin := true, evicting := false })
    | none => none

/-- The pages can be pinned within the HBM quota (R276). -/
def pinFits (s : State) (p : Nat) (es : List Pte) : Bool :=
  pinnedBytes s p + sumNat ((es.filter fun e => !(e.pin && !e.flash)).map Pte.size) ≤ quotaH s p

/-- Change the entries of a list of pages. -/
def modPtes (es : List Pte) (f : Pte → Pte) (s : State) : State := forEach es (fun s e => modPte s e.space e.va f) s

/-- The pages of A's extent. -/
def withPages (s : State) (x : Run) (f : List Pte → Work) : Work :=
  match entriesAt s x.p (extentPages (x.tns s x.m.tdA)) [] with
  | none => .fail ⟨stDescriptor, inA, 0⟩
  | some es => f es

/-- Promote and pin pages, and go on with `f`. -/
def pinPages (s : State) (p : Nat) (es : List Pte) (c : Check) (f : State → State) : Work :=
  if !pinFits s p es then .fail c
  else
    match pinAll p es s with
    | some s => .state (f s)
    | none => .full

/-- PREFETCH: every page of A's extent goes to HBM. -/
def execPrefetch (m : MopRef) (s : State) : Host.Outcome State Fault Refusal :=
  work m 0x81 (subIs 0) (fun s x => withPages s x fun es => match promoteAll x.p es s with | some s => .state s | none => .full) s

/-- PIN: every page of A's extent goes to HBM and stays there. -/
def execPin (m : MopRef) (s : State) : Host.Outcome State Fault Refusal :=
  work m 0x82 (subIs 0) (fun s x => withPages s x fun es =>
    pinPages s x.p es ⟨stNoReservation, inA, 0⟩ (modPtes es fun e => { e with pin := true, evicting := false })) s

/-- UNPIN: the pages may be evicted again. A trace buffer that loses its pin stops the trace (R585). -/
def execUnpin (m : MopRef) (s : State) : Host.Outcome State Fault Refusal :=
  work m 0x83 (subIs 0) (fun s x => withPages s x fun es =>
    .state (traceCheck (modPtes es (fun e => { e with pin := false }) s))) s

/-! ### Image commits (R262, R263). -/

/-- A commit fails on a stack that accepts no writes (R260); slots are striped over all four. -/
def commitFails (s : State) : Bool := s.nv.flashReadOnly.any id

/-- The work of IMAGE_WRITE: the free slot's header is erased, then A's extent goes to the payload. -/
def imageWriteWork (s : State) (x : Run) : Work :=
  let i := x.m.p 0 4
  let k := imgFree s i
  let a := x.tns s x.m.tdA
  let b := vread s x.p a.td.base (extentBytes a)
  if !rangeMapped s x.p a.td.base b.length then .fail ⟨stDescriptor, inA, 0⟩
  else if commitFails s then .fail ⟨stDescriptor, inMop, 0x70⟩
  else .state (imgWrite (imgWrite s i k 0 (zeros 4096)) i k (4096 + x.m.p 4 8) b)

/-- IMAGE_WRITE. -/
def execImageWrite (m : MopRef) (s : State) : Host.Outcome State Fault Refusal := work m 0x84 (subIs 0) imageWriteWork s

/-- The header of a sealed slot (R262). -/
def imgHeader (gen len i k : Nat) (hash : Bytes) : Bytes :=
  natLe 8 0x5EA1ED0000000001 ++ natLe 8 gen ++ natLe 8 len ++ natLe 1 i ++ natLe 1 k ++ zeros 6 ++ hash ++ zeros 4000

/-- The work of IMAGE_SEAL. Where the HASH that the payload is checked against comes from is open, so whether it matches is a free value. -/
def imageSealWork (s : State) (x : Run) : Work :=
  let i := x.m.p 0 4
  let k := imgFree s i
  let n := x.m.p 4 8
  let other := 1 - k
  let gen := if imgSealed s i other then imgFld s i other 8 8 + 1 else 1
  if commitFails s then .fail ⟨stDescriptor, inMop, 0x70⟩
  else if takeFree s 0 % 2 == 1 then .fail ⟨stDescriptor, inMop, 0x74⟩
  else .state (bumpFree (imgWrite s i k 0 (imgHeader gen n i k (sha3 (imgRead s i k 4096 n)))))

/-- IMAGE_SEAL. -/
def execImageSeal (m : MopRef) (s : State) : Host.Outcome State Fault Refusal := work m 0x85 (subIs 0) imageSealWork s

/-! ### Shootdowns (R268, R269). -/

/-- Pages of sequence space lie within an open context of the partition. -/
def mapSpaceFail (s : State) (p : Nat) (q : MapParam) : Option Check :=
  match vaSpace p q.va with
  | .gen _ => none
  | .ctx i =>
    match ctx? s i with
    | none => badDesc inMop 0x70
    | some c =>
      firstBad [need (c.owner == p) (badPart inMop 0x70), need (vaOff q.va + q.bytes ≤ c.extent) (badDesc inMop 0x70)]

/-- No page of the range is mapped. -/
def unmappedAll (s : State) (p : Nat) (q : MapParam) : Bool :=
  !s.pool.ptes.any fun e => e.space == vaSpace p q.va && e.va < vaOff q.va + q.bytes && vaOff q.va < e.va + e.size

/-- The entries of the range, every page mapped at the size that SMALL gives. -/
def mappedAll (s : State) (p : Nat) (q : MapParam) : Option (List Pte) :=
  let es := q.offs.filterMap fun o => s.pool.ptes.find? fun e => e.space == vaSpace p q.va && e.va == o && e.small == q.small
  if es.length == q.count then some es else none

/-- Add an entry. -/
def addPte (s : State) (e : Pte) : State := { s with pool := { s.pool with ptes := s.pool.ptes ++ [e] } }

/-- A shootdown is counted. -/
def countShoot (s : State) : State := bump s pgPOL oPOL_SHOOTDOWNS 1

/-- A shootdown whose range obeys the space's rules. -/
def shoot (s : State) (x : Run) (f : MapParam → Work) : Work :=
  let q := mapParam x.m
  match mapSpaceFail s x.p q with
  | some c => .fail c
  | none => f q

/-- Map pages in HBM, each in a zeroed frame. -/
def mapHbmPages (p : Nat) (q : MapParam) : List Nat → State → Option State
  | [], s => some s
  | o :: os, s =>
    match findHbm s q.page with
    | none => none
    | some pa =>
      mapHbmPages p q os (addPte (bumpFree (memZero s pa (pa + q.page)))
        { space := vaSpace p q.va, va := o, small := q.small, pa := pa, w := q.w, pin := q.pin, stamp := now s, owner := p })

/-- SHOOTDOWN 0: map in HBM. Too few zeroed frames wait (R269). -/
def execMapHbm (m : MopRef) (s : State) : Host.Outcome State Fault Refusal :=
  work m 0xF8 (subIs 0) (fun s x => shoot s x fun q =>
    if !unmappedAll s x.p q then .fail ⟨stDescriptor, inMop, 0x70⟩
    else if hbmUse s x.p + q.bytes > quotaH s x.p then .fail ⟨stNoReservation, inMop, 0x78⟩
    else match mapHbmPages x.p q q.offs s with
      | some s => .state (countShoot s)
      | none => .hold) s

/-- Map pages in flash, with ZERO set. -/
def mapFlashPages (p : Nat) (q : MapParam) : List Nat → State → Option State
  | [], s => some s
  | o :: os, s => (findFlash s q.page).bind fun pa => mapFlashPages p q os (addPte (bumpFree s)
      { space := vaSpace p q.va, va := o, small := q.small, pa := pa, zero := true, flash := true, w := q.w, owner := p })

/-- SHOOTDOWN 1: map in flash. -/
def execMapFlash (m : MopRef) (s : State) : Host.Outcome State Fault Refusal :=
  work m 0xF8 (subIs 1) (fun s x => shoot s x fun q =>
    if !unmappedAll s x.p q then .fail ⟨stDescriptor, inMop, 0x70⟩
    else if flashUse s x.p + q.bytes > quotaF s x.p then .fail ⟨stNoReservation, inMop, 0x78⟩
    else match mapFlashPages x.p q q.offs s with
      | some s => .state (countShoot s)
      | none => .hold) s

/-- SHOOTDOWN 2: unmap; the frames are freed for zeroing. -/
def execUnmap (m : MopRef) (s : State) : Host.Outcome State Fault Refusal :=
  work m 0xF8 (subIs 2) (fun s x => shoot s x fun q =>
    match mappedAll s x.p q with
    | some es => .state (traceCheck (countShoot (forEach es (fun s e => dropPte s e) s)))
    | none => .fail ⟨stDescriptor, inMop, 0x70⟩) s

/-- The work of SHOOTDOWN 3: page j of the map is page j of the slot in force, read only. With PIN its pages go to HBM. -/
def mapImageWork (s : State) (x : Run) : Work :=
  shoot s x fun q =>
    match imgInForce s q.image with
    | none => .fail ⟨stDescriptor, inMop, 0x7D⟩
    | some k =>
      if !unmappedAll s x.p q then .fail ⟨stDescriptor, inMop, 0x70⟩
      else if q.bytes > imgSlotSize s then .fail ⟨stDescriptor, inMop, 0x78⟩
      else
        let es : List Pte := (List.range q.count).map fun j =>
          { space := vaSpace x.p q.va, va := vaOff q.va + j * q.page, small := q.small, pa := imgPa s q.image k (j * q.page)
            image := some q.image, flash := true, w := false, owner := x.p }
        let s' := countShoot (forEach es addPte s)
        if q.pin then pinPages s' x.p es ⟨stNoReservation, inMop, 0x7C⟩ (modPtes es fun e => { e with pin := true })
        else .state s'

/-- SHOOTDOWN 3: map an image. -/
def execMapImage (m : MopRef) (s : State) : Host.Outcome State Fault Refusal := work m 0xF8 (subIs 3) mapImageWork s

/-- SHOOTDOWN 4: change W and PIN; a page that is pinned goes to HBM first. -/
def execChangeProtection (m : MopRef) (s : State) : Host.Outcome State Fault Refusal :=
  work m 0xF8 (subIs 4) (fun s x => shoot s x fun q =>
    match mappedAll s x.p q with
    | none => .fail ⟨stDescriptor, inMop, 0x70⟩
    | some es =>
      let set (s : State) : State :=
        traceCheck (countShoot (modPtes es (fun e => { e with w := q.w, pin := q.pin, evicting := e.evicting && !q.pin }) s))
      if q.pin then pinPages s x.p es ⟨stNoReservation, inMop, 0x7C⟩ set else .state (set s)) s

/-! ### Checkpoints (R482, R483). -/

/-- SEAL of a checkpoint. -/
abbrev ckptSeal : Nat := 0x5AFE5A7E00000001

/-- The work of CKPT_SAVE. -/
def ckptSaveWork (s : State) (x : Run) : Work :=
  let r := ckptRec s x.p x.m.aux
  let ts := r.tensors s x.p
  let rd := rdr s x.p
  let parts := ckptParts 4096 ts
  match unmappedInput s x.p (ts.map fun t => (inAux, t)) with
  | some c => .fail c
  | none =>
    let body := List.zipWith (fun t (q : Part) => bytesAt (r.dest + q.elemOff) (packElems rd t) ++ bytesAt (r.dest + q.scaleOff) (packScales rd t)) ts parts
    let entries := parts.map fun q => natLe 8 q.elemOff ++ natLe 8 q.elemLen ++ natLe 8 q.scaleOff ++ natLe 8 q.scaleLen
    .eff { bytes := bytesAt r.dest (zeros 8) ++ body.flatten ++ bytesAt (r.dest + 0x40) entries.flatten ++ bytesAt (r.dest + 0x10) (natLe 1 r.ntd)
             ++ bytesAt (r.dest + 8) (natLe 8 r.gen) ++ bytesAt r.dest (natLe 8 ckptSeal) }

/-- CKPT_SAVE: the tensors, then the header, SEAL last. -/
def execCkptSave (m : MopRef) (s : State) : Host.Outcome State Fault Refusal := work m 0xF4 (subIs 0) ckptSaveWork s

/-- The checkpoint's SEAL, GENERATION, NTD and lengths are those of the record and its tensors. -/
def ckptMatches (s : State) (p : Nat) (r : CkptRec) (parts : List Part) : Bool :=
  vnat s p r.dest 8 == ckptSeal && vnat s p (r.dest + 8) 8 == r.gen && vnat s p (r.dest + 0x10) 1 == r.ntd
    && (List.range parts.length).all fun i =>
      let at0 := r.dest + 0x40 + 32 * i
      match parts[i]? with
      | some q => vnat s p (at0 + 8) 8 == q.elemLen && vnat s p (at0 + 24) 8 == q.scaleLen
      | none => true

/-- The work of CKPT_RESTORE. -/
def ckptRestoreWork (s : State) (x : Run) : Work :=
  let r := ckptRec s x.p x.m.aux
  let ts := r.tensors s x.p
  let rd := rdr s x.p
  if !rangeMapped s x.p r.dest r.bytes then .fail ⟨stDescriptor, inAux, 8⟩
  else if !ckptMatches s x.p r (ckptParts 4096 ts) then .fail ⟨stDescriptor, inAux, 8⟩
  else
    .eff { bytes := ((List.range ts.length).zipWith (fun i t =>
      let at0 := r.dest + 0x40 + 32 * i
      unpackTns rd t (r.dest + vnat s x.p at0 8) (r.dest + vnat s x.p (at0 + 16) 8)) ts).flatten }

/-- CKPT_RESTORE. -/
def execCkptRestore (m : MopRef) (s : State) : Host.Outcome State Fault Refusal := work m 0xF5 (subIs 0) ckptRestoreWork s

end Sys2Proof.Machine
end

