-- ==== Sys2Proof/Machine/Video.lean ====
section
/-! DEFINITION. Video: stream contexts, decoding of segments and encoding of clips (R400-R434). What a bitstream holds, and what an encoder
writes, are the codecs' own affair and open here; parsing goes picture by picture (log 64). -/

namespace Sys2Proof.Machine

/-! ### Checks of admission. -/

/-- A slot of the reference area (R407). -/
def dpbSlot (w h : Nat) (ten : Bool) : Nat :=
  let b := if ten then 2 else 1
  let hh := roundUp h 16
  roundUp (roundUp (w * b) 128 * hh * 3 / 2 + 16 * ceilDiv w 16 * (hh / 16)) 0x10000

/-- A range is mapped in the HBM tier and pinned. -/
def Env.pinned (e : Env) (va n struct byte : Nat) : Option Check :=
  firstBad [e.extent true va n struct byte,
    need ((pageSteps va n).all fun a => match translate e.s e.p a with | some t => !t.flash && t.pin | none => false) (badDesc struct byte)]

/-- A pointer into the partition's general space. -/
def generalVa (va : Nat) : Bool := va < 2 ^ 48

/-- The stream context that a record describes, with the partition as its owner (R406). -/
def vctxRec (s : State) (p va : Nat) : VCtx :=
  let b := vread s p va 64
  { index := fld b 0 2, owner := p, codec := fld b 2 1, set := fld b 3 1, maxW := fld b 4 2, maxH := fld b 6 2, tenBit := fld b 8 1 == 10
    slots := fld b 9 1, area := fld b 0x10 8, bytes := fld b 0x18 8 }

/-- VCTX (R406, R407). -/
def Env.vctxOp (e : Env) (m : Mop) : Option Check :=
  let isOpen := m.subop == 0
  let form := firstBad [
    e.form m { bucket := .no, aux := if isOpen then .must else .no } (· < 3) (if isOpen then 0 else 2), noNarrow m,
    -- a VCTX carries class 1 (R406, R432); another class is refused (DEDUCED, log 114)
    need (m.cls == 1) (badDesc inMop 2),
    need (m.layer == 0) (badDesc inMop 0x38)]
  if form.isSome then form
  else if !isOpen then need (m.p 0 2 < 1024) (badDesc inMop 0x70)
  else
    match e.ptr m.aux 64 64 inMop 0x48 with
    | some c => some c
    | none =>
      let b := vread e.s e.p m.aux 64
      let c := vctxRec e.s e.p m.aux
      let bad := badDesc inAux
      firstBad [
        need (c.index < 1024) (bad 0), need (c.codec < 3) (bad 2), need (c.set < 3) (bad 3),
        need (16 ≤ c.maxW && c.maxW ≤ 8192 && c.maxW % 2 == 0) (bad 4), need (16 ≤ c.maxH && c.maxH ≤ 8704 && c.maxH % 2 == 0) (bad 6),
        need (fld b 8 1 == 8 || (c.tenBit && c.codec != 0)) (bad 8), need (2 ≤ c.slots && c.slots ≤ 17) (bad 9),
        need (fld b 0xA 6 == 0) (bad 0xA), need (c.area % Config.pageLarge == 0 && generalVa c.area) (bad 0x10),
        need (c.slots * dpbSlot c.maxW c.maxH c.tenBit ≤ c.bytes) (bad 0x18), e.pinned c.area c.bytes inAux 0x10,
        need (allZero (b.drop 0x20)) (bad 0x20)]

/-- A segment descriptor (R412). -/
structure SegDesc where
  vctx : Nat
  src : Nat
  reset : Bool
  sample : Nat
  addr : Nat
  len : Nat
  base : Nat
  stride : Nat
  maxFrames : Nat
  pitch : Nat
  record : Nat
  done : Nat
  deriving DecidableEq, Repr

/-- The descriptor at an address. -/
def segDesc (s : State) (p va : Nat) : SegDesc :=
  let b := vread s p va 64
  { vctx := fld b 0 2, src := fld b 2 1, reset := fld b 3 1 == 1, sample := fld b 4 4, addr := fld b 8 8, len := fld b 0x10 8
    base := fld b 0x18 8, stride := fld b 0x20 4, maxFrames := fld b 0x24 2, pitch := fld b 0x26 2, record := fld b 0x28 8
    done := fld b 0x30 8 }

/-- A ring record (R409). -/
structure Ring where
  base : Nat
  size : Nat
  wr : Nat
  rd : Nat
  deriving DecidableEq, Repr

/-- The record at an address. -/
def ringRec (s : State) (p va : Nat) : Ring :=
  let b := vread s p va 64
  ⟨fld b 0 8, fld b 8 8, fld b 0x10 8, fld b 0x18 8⟩

/-- A ring (R409). -/
def Env.ring (e : Env) (va byte : Nat) : Option Check :=
  match firstBad [need (va % 64 == 0) (badDesc inAux byte), e.extent true va 64 inAux byte] with
  | some c => some c
  | none =>
    let r := ringRec e.s e.p va
    firstBad [
      need (r.base % 4096 == 0 && (List.range 15).any (fun k => r.size == 2 ^ (16 + k)) && allZero ((vread e.s e.p va 64).drop 0x20))
        (badDesc inAux byte),
      e.pinned r.base r.size inAux byte]

/-- MAX_W, MAX_H and the depth of a stream context, as the list opens it or as it stands. -/
def Env.vctxDims (e : Env) (i : Nat) : Option (Nat × Nat × Bool) :=
  match e.vctxs.find? (·.1 == i) with
  | some (_, d) => some d
  | none => (e.s.video.vctxs.find? fun c => c.index == i && c.owner == e.p).map fun c => (c.maxW, c.maxH, c.tenBit)

/-- One descriptor of a VDEC, which begins at byte `o` of the array (R412, R413). -/
def Env.segment (e : Env) (va o : Nat) : Option Check :=
  let b := vread e.s e.p va 64
  let d := segDesc e.s e.p va
  let bad (k : Nat) : Option Check := badDesc inAux (o + k)
  let dims := e.vctxDims d.vctx
  firstBad [
    need (d.vctx < 1024) (bad 0), need (d.src < 2) (bad 2), need (fld b 3 1 < 2) (bad 3),
    if d.src == 0 then firstBad [need (generalVa d.addr) (bad 8), e.extent false d.addr d.len inAux (o + 8)] else e.ring d.addr (o + 8),
    need (if d.src == 0 then 1 ≤ d.len && d.len ≤ 2 ^ 32 else d.len == 0) (bad 0x10),
    need (d.base % 4096 == 0) (bad 0x18),
    need (1 ≤ d.maxFrames && d.maxFrames ≤ 4096) (bad 0x24), need (d.pitch % 128 == 0) (bad 0x26),
    match dims with
    | some (w, h, ten) => firstBad [
        need (w * (if ten then 2 else 1) ≤ d.pitch) (bad 0x26),
        e.extent true d.base ((d.maxFrames - 1) * d.stride + d.pitch * h * 3 / 2) inAux (o + 0x18)]
    | none => none,
    need (d.stride % 4096 == 0 && (match dims with | some (_, h, _) => d.pitch * h * 3 / 2 ≤ d.stride | none => true)) (bad 0x20),
    need (d.record % 64 == 0) (bad 0x28), e.extent true d.record 64 inAux (o + 0x28),
    need (entryOk d.done) (bad 0x30), need (e.entryAllotted d.done) (badPart inAux (o + 0x30)), need (fld b 0x38 8 == 0) (bad 0x38)]

/-- VDEC (R412). -/
def Env.vdec (e : Env) (m : Mop) : Option Check :=
  let n := m.p 0 2
  firstBad ([
    e.form m { bucket := .no, aux := .must } (· == 0) 2, noNarrow m, need (m.layer == 0) (badDesc inMop 0x38),
    need (1 ≤ n && n ≤ 4096) (badDesc inMop 0x70), e.ptr m.aux 64 (64 * n) inMop 0x48]
    ++ (List.range n).map fun i => e.segment (m.aux + 64 * i) (64 * i))

/-- The failure of step 2: every segment's context is open and the partition's own, in list order (R416). -/
def vdecCtxFail (s : State) (p : Nat) (m : Mop) : Option Check :=
  (List.range (m.p 0 2)).findSome? fun i =>
    match s.video.vctxs.find? (·.index == vnat s p (m.aux + 64 * i) 2) with
    | none => badDesc inAux (64 * i)
    | some c => need (c.owner == p) (badPart inAux (64 * i))

/-! ### Stream contexts (R405-R408). -/

/-- Update a stream context. -/
def modVctx (s : State) (i : Nat) (f : VCtx → VCtx) : State :=
  { s with video := { s.video with vctxs := updFirst (·.index == i) f s.video.vctxs } }

/-- Update a segment. -/
def modSeg (s : State) (id : Nat) (f : Seg → Seg) : State :=
  { s with video := { s.video with segs := updFirst (·.id == id) f s.video.segs } }

/-- The set of a context that leaves the choice to the module: the one with fewer open contexts (R406). -/
def chooseSet (s : State) : Nat :=
  let n (k : Nat) : Nat := (s.video.vctxs.filter (·.set == k)).length
  if n 1 < n 0 then 1 else 0

/-- A VCTX that ends its request. -/
def vctxFail (c : VCtx) (p : Nat) : Work := .fail ⟨if c.owner == p then stDescriptor else stPartition, inAux, 0⟩

/-- OPEN (R408). -/
def vctxOpenWork (s : State) (x : Run) : Work :=
  let c := vctxRec s x.p x.m.aux
  match s.video.vctxs.find? (·.index == c.index) with
  | some old => vctxFail old x.p
  | none =>
    let c := { c with set := if c.set == 2 then chooseSet s else c.set }
    .state { s with video := { s.video with vctxs := s.video.vctxs ++ [c] } }

/-- CLOSE and RESET: a context of another partition ends the request; a closed one has nothing to do; one with a segment that has begun
waits (R408). A segment of a VDEC that has passed step 4 counts as begun, though it waits for an entropy engine: it could not run without its
context (DEDUCED, log 114). -/
def vctxOther (s : State) (x : Run) (f : Nat → State) : Work :=
  let i := x.m.p 0 2
  match s.video.vctxs.find? (·.index == i) with
  | none => .state s
  | some c =>
    if c.owner != x.p then .fail ⟨stPartition, inMop, 0x70⟩
    else if s.video.segs.any fun g => g.vctx == i && !g.ended then .hold
    else .state (f i)

/-- VCTX, OPEN. -/
def execVctxOpen (m : MopRef) (s : State) : Host.Outcome State Fault Refusal := work m 0x50 (subIs 0) vctxOpenWork s

/-- VCTX, CLOSE. -/
def execVctxClose (m : MopRef) (s : State) : Host.Outcome State Fault Refusal :=
  work m 0x50 (subIs 1) (fun s x => vctxOther s x fun i =>
    { s with video := { s.video with vctxs := s.video.vctxs.filter (·.index != i) } }) s

/-- VCTX, RESET. -/
def execVctxReset (m : MopRef) (s : State) : Host.Outcome State Fault Refusal :=
  work m 0x50 (subIs 2) (fun s x => vctxOther s x fun i => modVctx s i fun c => { c with hasRefs := false, refs := 0 }) s

/-! ### Segments. -/

/-- A segment with its descriptor and its context. -/
structure SegRun where
  g : Seg
  d : SegDesc
  c : VCtx
  deriving DecidableEq, Repr

/-- The descriptor of a segment. -/
def segRunOf (s : State) (g : Seg) : Option SegRun :=
  match req? s g.req with
  | some r =>
    (s.video.vctxs.find? (·.index == g.vctx)).map fun c => ⟨g, segDesc s g.part ((mopOf s r g.mop).aux + 64 * g.entry), c⟩
  | none => none

/-- The running segment `id`, with its set at work. -/
def seg? (s : State) (id : Nat) : Option SegRun :=
  match s.video.segs.find? (·.id == id) with
  | some g => if g.running && !g.ended && serving s && !nth s.video.stopped g.set true then segRunOf s g else none
  | none => none

/-- `n` bytes of a ring from stream byte `k` (R410). -/
def ringBytes (s : State) (p : Nat) (r : Ring) (k n : Nat) : Bytes :=
  (List.range n).map fun i => vget s p (r.base + (k + i) % r.size)

/-- LENGTH of a ring segment, once its header has been written (R410). -/
def SegRun.ringLen (x : SegRun) (s : State) : Option Nat :=
  let r := ringRec s x.g.part x.d.addr
  if x.g.ringPos + 16 ≤ r.wr then some (leNat (ringBytes s x.g.part r x.g.ringPos 4)) else none

/-- The header's SAMPLE differs from the descriptor's (R411). -/
def SegRun.mismatch (x : SegRun) (s : State) : Bool :=
  (x.ringLen s).isSome && leNat (ringBytes s x.g.part (ringRec s x.g.part x.d.addr) (x.g.ringPos + 4) 4) != x.d.sample

/-- The bytes of a segment that stand in memory, and whether they are all of them. -/
def SegRun.bytes (x : SegRun) (s : State) : Bytes × Bool :=
  if x.d.src == 0 then (vread s x.g.part x.d.addr x.d.len, true)
  else
    let r := ringRec s x.g.part x.d.addr
    match x.ringLen s with
    | some n =>
      let got := Nat.min n (r.wr - x.g.ringPos - 16)
      (ringBytes s x.g.part r (x.g.ringPos + 16) got, got == n)
    | none => ([], false)

/-- What the decoder's answers depend on: the codec, the limits of the context and the state that it keeps. -/
def VCtx.key (c : VCtx) : List Nat := [c.codec, c.maxW, c.maxH, if c.tenBit then 1 else 0, c.refs]

/-- An answer about the bytes of a segment. -/
def SegRun.fact (x : SegRun) (b : Bytes) (q i : Nat) : Nat := Config.vdecFact x.c.key b q i

/-- What the parameter sets or the sequence header of a picture declare (R403): the profile, as H.264's 0 Constrained Baseline, 1 Main and 2 High,
HEVC's general_profile_idc and AV1's seq_profile; the level in tenths; bit depth; chroma format, 0 for 4:0:0 and 1 for 4:2:0; the size. -/
structure Declared where
  profile : Nat
  level : Nat
  depth : Nat
  chroma : Nat
  w : Nat
  h : Nat
  deriving DecidableEq, Repr

/-- The table of R402: profiles, levels, depths, chroma formats and sizes. -/
def Declared.supported (d : Declared) (codec : Nat) : Bool :=
  (if codec == 0 then d.profile < 3 && d.level ≤ 52 && d.depth == 8 && (d.chroma == 1 || (d.chroma == 0 && d.profile == 2))
    else if codec == 1 then
      1 ≤ d.profile && d.profile ≤ 3 && d.level ≤ 62 && (d.depth == 8 || (d.depth == 10 && d.profile == 2)) && d.chroma == 1
    else d.profile == 0 && d.level ≤ 61 && (d.depth == 8 || d.depth == 10) && d.chroma < 2)
    && d.w ≤ 8192 && d.h ≤ 8704 && d.w * d.h ≤ 35651584

/-- They lie within the limits of the stream context too (R403); a context of 10 bits takes streams of 8 as well (DESIGN CHOICE, log 69). -/
def Declared.fits (d : Declared) (c : VCtx) : Bool := d.supported c.codec && d.w ≤ c.maxW && d.h ≤ c.maxH && (d.depth == 8 || c.tenBit)

/-- What holds for picture `k`. -/
def SegRun.declared (x : SegRun) (b : Bytes) (k : Nat) : Declared :=
  ⟨x.fact b 20 k, x.fact b 21 k, x.fact b 22 k, x.fact b 23 k, x.fact b 24 k, x.fact b 25 k⟩

/-- Pictures that parse whole from the bytes: none from the first whose parameter sets the module does not support (R403). -/
def SegRun.pictures (x : SegRun) (b : Bytes) : Nat :=
  ((List.range (x.fact b 0 0)).find? fun k => !(x.declared b k).fits x.c).getD (x.fact b 0 0)

/-- The error that the bytes hold: UNSUPPORTED for a picture's parameter sets, SYNTAX, UNSUPPORTED for a tool that R402 leaves out, MISSING_REF
or SYNTAX_OVERFLOW, or TRUNCATED where all of the bytes end inside a picture; 0 for none (R422). -/
def SegRun.error (x : SegRun) (b : Bytes) (whole : Bool) : Nat :=
  let e := x.fact b 1 0
  if x.pictures b < x.fact b 0 0 then 2
  else if [1, 2, 3, 7].contains e then e else if whole && bit (x.fact b 15 0) 0 then 4 else 0

/-- KiB of syntax that a picture takes in the share, at most the share (R418). -/
def SegRun.kib (x : SegRun) (b : Bytes) (k : Nat) : Nat := Nat.min 1024 (x.fact b 8 k)

/-- Output pictures that the first `k` pictures complete; at the segment's end those that still wait come too (R414). -/
def SegRun.outs (x : SegRun) (b : Bytes) (k : Nat) (atEnd : Bool) : Nat :=
  let n := maxNat ((List.range (k + 1)).map fun j => x.fact b 3 j)
  if atEnd then Nat.max n (x.fact b 12 k) else n

/-- What holds for the picture that output picture `f` shows; which picture that is, is the standard's. -/
def SegRun.shown (x : SegRun) (b : Bytes) (f : Nat) : Declared := x.declared b (x.fact b 16 f % Nat.max 1 (x.pictures b))

/-- Size of output picture `f`, cropped from the declared one (R414), and the depth of the segment. -/
def SegRun.width (x : SegRun) (b : Bytes) (f : Nat) : Nat := Nat.min x.c.maxW (Nat.min (x.shown b f).w (x.fact b 6 f))
def SegRun.height (x : SegRun) (b : Bytes) (f : Nat) : Nat := Nat.min x.c.maxH (Nat.min (x.shown b f).h (x.fact b 7 f))
def SegRun.ten (x : SegRun) (b : Bytes) : Bool := x.c.tenBit && (x.declared b 0).depth == 10

/-- Monochrome pictures: H.264 and AV1 have them (R402). -/
def SegRun.mono (x : SegRun) (b : Bytes) (f : Nat) : Bool := x.c.codec != 1 && (x.shown b f).chroma == 0

/-- The bytes of output frame `f` (R413). -/
def SegRun.frame (x : SegRun) (b : Bytes) (f : Nat) : List (Nat × Byte) :=
  let w := x.width b f
  let h := x.height b f
  let n := if x.ten b then 2 else 1
  let depth := if x.ten b then 10 else 8
  let at0 := x.d.base + f * x.d.stride
  let put (off col v : Nat) : List (Nat × Byte) := bytesAt (at0 + off + n * col) (natLe n (v % 2 ^ depth))
  let luma := (List.range h).map fun y => (List.range w).map fun c => put (y * x.d.pitch) c (Config.vdecSample x.c.key b f 0 c y)
  let chroma := (List.range (ceilDiv h 2)).map fun y => (List.range (2 * ceilDiv w 2)).map fun c =>
    put (x.d.pitch * (x.c.maxH + y)) c
      (if x.mono b f then 2 ^ (depth - 1) else Config.vdecSample x.c.key b f (1 + c % 2) (c / 2) y)
  (luma ++ chroma).flatten.flatten

/-- The end of a write that could not be made: the request waits on memory, or ends where it has not yet. -/
def segWriteFail (s : State) (x : SegRun) : WriteRes → State
  | .full => markWait s x.g.req x.g.mop
  | _ =>
    let s := { s with video := { s.video with segs := s.video.segs.filter (·.id != x.g.id) } }
    match req? s x.g.req with
    | some r => if r.st == .admitted then settle (refuse s r.id ⟨stDescriptor, inAux, 64 * x.g.entry + 0x18⟩ 0x51 x.g.mop) else s
    | none => s

/-- Write the output frames that stand complete, up to MAX_FRAMES (R414). -/
def SegRun.writeFrames (x : SegRun) (b : Bytes) (upTo : Nat) (s : State) : WriteRes :=
  let n := Nat.min upTo x.d.maxFrames
  match vwrite s (some x.g.req) x.g.part (((List.range n).filter (x.g.frames ≤ ·)).map (x.frame b)).flatten with
  | .ok s =>
    .ok (modSeg s x.g.id fun g => { g with
      frames := Nat.max g.frames n, width := if g.frames < n then x.width b (n - 1) else g.width
      height := if g.frames < n then x.height b (n - 1) else g.height
      rflags := Nat.lor g.rflags (flag (upTo > x.d.maxFrames) 0) })
  | r => r

/-- The segments of a VDEC join their contexts' set queues (R417). -/
def joinSegs (s : State) (x : Run) : State :=
  let n := x.m.p 0 2
  let segs := (List.range n).map fun i =>
    let v := vnat s x.p (x.m.aux + 64 * i) 2
    let set := match s.video.vctxs.find? (·.index == v) with | some c => c.set | none => 0
    { id := s.video.nextSeg + i, req := x.r.id, mop := x.i, entry := i, set := set, vctx := v, part := x.p, prio := x.r.prio : Seg }
  modMop { s with video := { s.video with segs := s.video.segs ++ segs, nextSeg := s.video.nextSeg + n } } x.r.id x.i
    fun st => { st with queued := true }

/-- VDEC: its segments are queued; it completes when all have ended (R412, R421). -/
def execVdec (m : MopRef) (s : State) : Host.Outcome State Fault Refusal :=
  .next (match ready? s m 0x51 (subIs 0) with
    | some x => if x.st.queued then s else joinSegs s x
    | none => s)

/-- Parse what the share and the bytes allow: `fuel` pictures at most. -/
def parsePics (x : SegRun) (b : Bytes) : Nat → State → Seg → State × Seg
  | 0, s, g => (s, g)
  | fuel + 1, s, g =>
    let k := g.parsedPics
    if k < x.pictures b && sumNat g.syntaxKib + x.kib b k ≤ 1024 then
      let s := bump s (pgVDC + g.set) oVDC_BINS (x.fact b 18 k)
      parsePics x b fuel { s with video := { s.video with order := s.video.order ++ [g.id] } }
        { g with parsedPics := k + 1, syntaxKib := g.syntaxKib ++ [x.kib b k] }
    else (s, g)

/-- A segment's parsing goes on; it is over at its last byte or its first error (R418, R421, R422). -/
def parseSeg (s : State) (id : Nat) : State :=
  match seg? s id with
  | none => s
  | some x =>
    if x.g.parsed then s
    else if x.d.src == 1 && x.mismatch s then modSeg s id fun g => { g with parsed := true, waiting := false, result := 6 }
    else
      let (b, whole) := x.bytes s
      let n := x.pictures b
      let (s, g) := parsePics x b (n - x.g.parsedPics) s x.g
      let past := g.parsedPics ≥ n && (whole || x.error b whole != 0)
      -- the cycles that the engine waits for room are its own (log 8)
      let s := if g.parsedPics < n then bumpOpen [(pgVDC + g.set, oVDC_SYNTAX_WAIT)] s else s
      modSeg s id fun _ => { g with parsed := past, waiting := !past, result := if past then x.error b whole else 0 }

/-- The waiting segment that a free entropy engine takes (R417). -/
def nextSegment (s : State) (set : Nat) : Option Seg :=
  let live := s.video.segs.filter fun g => g.set == set && !g.ended
  let busy (g : Seg) : Bool := s.video.segs.any fun h => h.vctx == g.vctx && h.running && !h.ended
  (sortBy (fun a b => a.prio > b.prio || (a.prio == b.prio && a.id ≤ b.id)) (live.filter fun g => !g.running && !busy g)).head?

/-- The entropy engines of a set that hold no segment. -/
def freeEngines (s : State) (set : Nat) : List Nat :=
  (List.range 8).filter fun e => !s.video.segs.any fun g => g.set == set && g.running && !g.ended && g.engine == 8 * set + e

/-- SEGMENT_START: a free entropy engine takes a segment, applies RESET, records T_START and begins to parse (R417, R418). Which of the
free engines takes it is open. -/
def execSegmentStart (set : Nat) (s : State) : Host.Outcome State Fault Refusal :=
  .next (
    let free := freeEngines s set
    if set ≥ 2 || !serving s || nth s.video.stopped set true || free.isEmpty then s
    else
      match (nextSegment s set).bind (segRunOf s) with
      | none => s
      | some x =>
        let e := 8 * set + nth free (takeFree s 0 % free.length) 0
        let s := bumpFree s
        let s := if x.d.reset then modVctx s x.g.vctx fun c => { c with hasRefs := false, refs := Config.vdecNoRefs c.refs } else s
        let rd := if x.d.src == 1 then (ringRec s x.g.part x.d.addr).rd else 0
        parseSeg (modSeg s x.g.id fun g => { g with
          running := true, engine := e, tStart := now s, ringPos := rd, ctrl := regRaw s (pgVDC + g.set) oVDC_CTRL }) x.g.id)

/-- PARSE_RESUME: the engine goes on once its share has room or the ring has bytes (R411, R418). -/
def execParseResume (seg : Nat) (s : State) : Host.Outcome State Fault Refusal :=
  .next (match seg? s seg with
    | some x => if x.g.waiting then parseSeg s seg else s
    | none => s)

/-! ### Pictures (R419). -/

/-- The rank of a segment's request, 0 when the segment is gone. -/
def segPrio (s : State) (id : Nat) : Nat := match s.video.segs.find? (·.id == id) with | some g => g.prio | none => 0

/-- The higher of two in rank, the earlier among equals. -/
def higher (s : State) (best : Option Nat) (id : Nat) : Option Nat :=
  match best with
  | some b => if segPrio s id > segPrio s b then some id else some b
  | none => some id

/-- The segment whose picture a free pixel engine takes. -/
def nextPicture (s : State) (set : Nat) : Option Nat :=
  let waits (id : Nat) : Bool := s.video.segs.any fun g => g.id == id && g.set == set && g.running && !g.ended && g.pics < g.parsedPics
  (s.video.order.filter waits).foldl (higher s) none

/-- The bytes of a reference slot that a picture is reconstructed into; which slot, and their layout, are open. -/
def slotFill (s : State) (c : VCtx) : List (Nat × Byte) :=
  let n := dpbSlot c.maxW c.maxH c.tenBit
  let k := if c.slots == 0 then 0 else takeFree s 0 % c.slots
  (List.range n).map fun i => (c.area + k * n + i, BitVec.ofNat 8 (takeFree s (i + 1)))

/-- A picture is reconstructed, and the frames that it completes are written. -/
def reconstruct (s : State) (x : SegRun) : State :=
  let b := (x.bytes s).1
  let k := x.g.pics
  match vwrite s (some x.g.req) x.g.part (slotFill s x.c) with
  | .ok s1 =>
    let last := x.g.parsed && k + 1 == x.g.parsedPics
    (match x.writeFrames b (x.outs b (k + 1) last) (bumpFree s1) with
      | .ok s2 =>
        let s := bump (bump s2 (pgVDC + x.g.set) oVDC_PICTURES 1) (pgVDC + x.g.set) oVDC_SAMPLES (x.fact b 5 k)
        let s := bumpOpen trafficCounters s
        modSeg { s with video := { s.video with order := s.video.order.erase x.g.id } } x.g.id fun g =>
          { g with pics := k + 1, syntaxKib := g.syntaxKib.drop 1 }
      | r => segWriteFail s x r)
  | r => segWriteFail s x r

/-- PICTURE_RECONSTRUCT: a free pixel engine of the set takes a picture (R419). -/
def execPictureReconstruct (set : Nat) (s : State) : Host.Outcome State Fault Refusal :=
  .next (match (nextPicture s set).bind (seg? s) with
    | some x => reconstruct s x
    | none => s)

/-! ### The end of a segment (R421, R422). -/

/-- The counter of a result. -/
def resultOff (r : Nat) : Nat :=
  match r with
  | 1 | 6 => oVDC_ERR_SYNTAX
  | 2 | 7 => oVDC_ERR_UNSUP
  | 3 => oVDC_ERR_REF
  | 4 => oVDC_ERR_TRUNC
  | _ => oVDC_ERR_TIMEOUT

/-- The decode record of a segment that ends now. -/
def SegRun.record (x : SegRun) (s : State) (b : Bytes) : Bytes :=
  let g := x.g
  let inPic := g.result != 0 && g.result != 6
  let parsed := Nat.min b.length (x.fact b 11 g.result)
  let flags := g.rflags + flag (x.c.codec == 2 && bit (x.fact b 4 0) 1) 1 + flag (x.c.codec == 0 && bit (x.fact b 4 0) 2) 2
    + flag (x.c.codec != 2 && bit (x.fact b 4 0) 3) 3
  natLe 1 g.result ++ natLe 1 flags ++ natLe 2 g.frames ++ natLe 4 x.d.sample ++ natLe 2 g.width ++ natLe 2 g.height
    ++ natLe 1 (if x.ten b then 10 else 8) ++ natLe 1 g.engine ++ natLe 2 (if inPic then g.parsedPics else 0xFFFF)
    ++ natLe 8 (if inPic then Nat.min b.length (x.fact b 2 g.result) else 0) ++ natLe 8 parsed ++ natLe 8 g.tStart ++ natLe 8 (now s)
    ++ natLe 8 (takeFree s 0) ++ zeros 8

/-- Where RD of the ring stands once the segment has ended: past the entry, or past the bytes that WR covers (R410, R411). -/
def SegRun.ringAfter (x : SegRun) (s : State) : Nat :=
  let r := ringRec s x.g.part x.d.addr
  match x.ringLen s with
  | some n => if x.g.result == 4 && r.wr < x.g.ringPos + 16 + roundUp n 16 then r.wr else x.g.ringPos + 16 + roundUp n 16
  | none => r.wr

/-- What a segment writes when it ends: its record and, of a ring, RD. -/
def SegRun.lastBytes (x : SegRun) (s : State) (b : Bytes) : List (Nat × Byte) :=
  bytesAt x.d.record (x.record s b) ++ (if x.d.src == 1 then bytesAt (x.d.addr + 0x18) (natLe 8 (x.ringAfter s)) else [])

/-- The VDEC whose last segment has ended has done its work; the grant of one whose request has ended before goes (R421). -/
def vdecDone (s : State) (req mop : Nat) : State :=
  if s.video.segs.any fun g => g.req == req && g.mop == mop && !g.ended then s
  else
    match run? s ⟨req, mop⟩ with
    | some x => if x.st.stage == .granted then markWorked s x else s
    | none => releaseLeave s req mop

/-- A segment whose pictures are reconstructed ends: last frames, record, counters, DONE, the context's state (R414, R421, R422). -/
def endSegment (s : State) (x : SegRun) : State :=
  let b := (x.bytes s).1
  let r := x.g.result
  match x.writeFrames b (x.outs b x.g.pics true) s with
  | .ok s1 =>
    (match s1.video.segs.find? (·.id == x.g.id) with
      | none => s
      | some g =>
        let x : SegRun := { x with g := g }
        match vwrite s1 (some g.req) g.part (x.lastBytes s1 b) with
        | .ok s2 =>
          let pg := pgVDC + g.set
          let s := bump (bumpFree s2) pg oVDC_SEGMENTS 1
          let s := if r == 0 then s else raise (bump s pg (resultOff r) 1) pg (if r == 5 then 2 else 1)
          let s := modVctx s g.vctx fun c =>
            if r == 0 then { c with hasRefs := bit (x.fact b 9 0) 0, refs := x.fact b 10 0 } else { c with hasRefs := false, refs := 0 }
          let s := modSeg s g.id fun g => { g with ended := true, waiting := false, syntaxKib := [] }
          let s := { s with video := { s.video with order := s.video.order.filter (· != g.id) } }
          let s := noteSegment s g.part x.d.sample r g.frames (takeFree s1 0 % 2 ^ 64)
          vdecDone (bumpOpen trafficCounters (signalEntry s x.d.done)) g.req g.mop
        | r => segWriteFail s x r)
  | r => segWriteFail s x r

/-- SEGMENT_END: the last byte, or the error, has been met and every picture before it is reconstructed (R421, R422). -/
def execSegmentEnd (seg : Nat) (s : State) : Host.Outcome State Fault Refusal :=
  .next (match seg? s seg with
    | some x => if x.g.parsed && x.g.parsedPics ≤ x.g.pics then endSegment s x else s
    | none => s)

/-- A running segment's parsing ends here with a result; pictures that stand parsed are kept or dropped. -/
def stopSegment (s : State) (x : SegRun) (result : Nat) (keep : Bool) : State :=
  let s := modSeg s x.g.id fun g =>
    { g with parsed := true, waiting := false, result := result, parsedPics := if keep then g.parsedPics else g.pics }
  match seg? s x.g.id with
  | some y => if y.g.parsedPics ≤ y.g.pics then endSegment s y else s
  | none => s

/-- RING_WAIT_EXPIRY: WR has not moved for RING_WAIT (R411). -/
def execRingWaitExpiry (seg : Nat) (s : State) : Host.Outcome State Fault Refusal :=
  .next (match seg? s seg with
    | some x => if x.g.waiting && !x.g.parsed && x.d.src == 1 && !(x.bytes s).2 then stopSegment s x 4 true else s
    | none => s)

/-- SEG_LIMIT_EXPIRY: the segment has run for SEG_LIMIT (R420). -/
def execSegLimitExpiry (seg : Nat) (s : State) : Host.Outcome State Fault Refusal :=
  .next (match seg? s seg with
    | some x => stopSegment s x 5 false
    | none => s)

/-! ### Encoding (R424-R431). -/

/-- An encode record. -/
structure EncRec where
  codec : Nat
  depth : Nat
  struct_ : Nat
  rc : Nat
  width : Nat
  height : Nat
  frames : Nat
  gop : Nat
  baseQ : Nat
  set : Nat
  bitrate : Nat
  cap : Nat
  inBase : Nat
  inStride : Nat
  inPitch : Nat
  outBase : Nat
  outBytes : Nat
  index : Nat
  roi : Nat
  recon : Nat
  reconBytes : Nat
  deriving DecidableEq, Repr

/-- The record at an address. -/
def encRec (s : State) (p va : Nat) : EncRec :=
  let b := vread s p va 128
  { codec := fld b 0 1, depth := fld b 1 1, struct_ := fld b 2 1, rc := fld b 3 1, width := fld b 4 2, height := fld b 6 2
    frames := fld b 8 2, gop := fld b 0xA 2, baseQ := fld b 0xC 1, set := fld b 0xD 1, bitrate := fld b 0x10 4, cap := fld b 0x14 4
    inBase := fld b 0x20 8, inStride := fld b 0x28 4, inPitch := fld b 0x2C 2, outBase := fld b 0x30 8, outBytes := fld b 0x38 8
    index := fld b 0x40 8, roi := fld b 0x48 8, recon := fld b 0x50 8, reconBytes := fld b 0x58 8 }

/-- Bytes of a region table: its entries and the regions that they name (R427). -/
def roiBytes (s : State) (p : Nat) (r : EncRec) : Nat :=
  8 * r.frames + 16 * maxNat ((List.range r.frames).map fun f =>
    if vnat s p (r.roi + 8 * f + 4) 1 == 0 then 0 else vnat s p (r.roi + 8 * f) 4 + vnat s p (r.roi + 8 * f + 4) 1)

/-- A region table (R427). -/
def Env.roi (e : Env) (r : EncRec) : Option Check :=
  let bad := badDesc inAux 0x48
  if r.roi == 0 then none
  else
    match e.extent false r.roi (8 * r.frames) inAux 0x48 with
    | some c => some c
    | none =>
      let n := roiBytes e.s e.p r
      firstBad ([
        need ((List.range r.frames).all fun f => vnat e.s e.p (r.roi + 8 * f + 4) 1 ≤ 64 && vnat e.s e.p (r.roi + 8 * f + 5) 3 == 0) bad,
        e.extent false r.roi n inAux 0x48]
        ++ (List.range ((n - 8 * r.frames) / 16)).map fun j =>
          let b := vread e.s e.p (r.roi + 8 * r.frames + 16 * j) 16
          need (signed 8 (fld b 8 1) ≥ -51 && signed 8 (fld b 8 1) ≤ 51 && fld b 9 7 == 0) bad)

/-- VENC (R404, R424). -/
def Env.venc (e : Env) (m : Mop) : Option Check :=
  match firstBad [e.form m { bucket := .no, aux := .must } (· == 0) 0, noNarrow m, need (m.layer == 0) (badDesc inMop 0x38),
      e.ptr m.aux 64 128 inMop 0x48] with
  | some c => some c
  | none =>
    let b := vread e.s e.p m.aux 128
    let r := encRec e.s e.p m.aux
    let bad := badDesc inAux
    let n := if r.depth == 10 then 2 else 1
    firstBad [
      need (r.codec == 1 || r.codec == 2) (bad 0), need (r.depth == 8 || r.depth == 10) (bad 1), need (r.struct_ < 3) (bad 2),
      need (r.rc < 2) (bad 3), need (64 ≤ r.width && r.width ≤ 4096 && r.width % 2 == 0) (bad 4),
      need (64 ≤ r.height && r.height ≤ 2304 && r.height % 2 == 0) (bad 6), need (r.frames != 0) (bad 8), need (r.gop != 0) (bad 0xA),
      need (if r.codec == 1 then r.baseQ ≤ 51 else r.baseQ != 0) (bad 0xC), need (r.set < 3) (bad 0xD), need (fld b 0xE 2 == 0) (bad 0xE),
      need (r.rc == 1 || r.bitrate == 0) (bad 0x10), need (r.width * r.height / 4 ≤ r.cap) (bad 0x14),
      need (fld b 0x18 4 != 0 && fld b 0x1C 4 != 0) (bad 0x18),
      need (r.inBase % 4096 == 0) (bad 0x20), e.extent false r.inBase ((r.frames - 1) * r.inStride + r.inPitch * r.height * 3 / 2) inAux 0x20,
      need (r.inStride % 4096 == 0 && r.inPitch * r.height * 3 / 2 ≤ r.inStride) (bad 0x28),
      need (r.inPitch % 128 == 0 && r.width * n ≤ r.inPitch) (bad 0x2C), need (fld b 0x2E 2 == 0) (bad 0x2E),
      e.extent true r.outBase r.outBytes inAux 0x30, need (r.frames * r.cap ≤ r.outBytes) (bad 0x38),
      e.extent true r.index (16 * r.frames) inAux 0x40, e.roi r,
      need (r.recon % Config.pageLarge == 0) (bad 0x50), e.pinned r.recon r.reconBytes inAux 0x50,
      need (3 * dpbSlot r.width r.height (r.depth == 10) ≤ r.reconBytes) (bad 0x58), need (allZero (b.drop 0x60)) (bad 0x60)]

/-- VENC: the clip joins its set's encoder queue; SET 2 leaves the choice to the module (R424, R431). -/
def execVenc (m : MopRef) (s : State) : Host.Outcome State Fault Refusal :=
  .next (match ready? s m 0x58 (subIs 0) with
    | some x =>
      if x.st.queued then s
      else
        let want := (encRec s x.p x.m.aux).set
        let q : Enc := { req := x.r.id, mop := x.i, set := if want == 2 then takeFree s 0 % 2 else want, part := x.p, prio := x.r.prio }
        modMop (bumpFree { s with video := { s.video with encs := s.video.encs ++ [q] } }) x.r.id x.i fun st => { st with queued := true }
    | none => s)

/-- The words of an input sample, at a frame, row of the frame's luma and chroma planes, and column (R413, R425). -/
def EncRec.words (r : EncRec) (s : State) (p f : Nat) : List Nat :=
  let n := if r.depth == 10 then 2 else 1
  let at0 := r.inBase + f * r.inStride
  ((List.range (r.height + r.height / 2)).map fun y => (List.range r.width).map fun c => vnat s p (at0 + y * r.inPitch + n * c) n).flatten

/-- A word as it enters, and the largest quantiser of a codec. -/
def EncRec.enter (r : EncRec) (v : Nat) : Nat := if r.depth == 10 && v ≥ 1024 then 1023 else v
def EncRec.maxQ (r : EncRec) : Nat := if r.codec == 1 then 51 else 255

/-- What an encoder makes of a frame: its bytes, average quantiser and repeats (R426-R430). -/
structure Coded where
  bytes : Bytes
  q : Nat
  repeats : Nat
  deriving DecidableEq, Repr

/-- A run of `w` by `h` luma samples of a picture with their chroma, edges replicated: plane, column, row (R428). -/
def EncRec.patch (r : EncRec) (px : Nat → Nat → Nat → Nat) (x0 y0 : Int) (w h : Nat) : List Nat :=
  let clamp (i : Int) (n : Nat) : Nat := (Max.max 0 (Min.min i ((n : Int) - 1))).toNat
  let plane (c : Nat) (x y : Int) (w h pw ph : Nat) : List Nat :=
    ((List.range h).map fun j => (List.range w).map fun i => px c (clamp (x + (i : Int)) pw) (clamp (y + (j : Int)) ph)).flatten
  plane 0 x0 y0 w h r.width r.height
    ++ plane 1 (x0.fdiv 2) (y0.fdiv 2) (w / 2) (h / 2) (r.width / 2) (r.height / 2)
    ++ plane 2 (x0.fdiv 2) (y0.fdiv 2) (w / 2) (h / 2) (r.width / 2) (r.height / 2)

/-- A sample of an input frame: luma rows, then rows of chroma pairs (R413). -/
def EncRec.sample (r : EncRec) (l : List Nat) (c x y : Nat) : Nat :=
  if c == 0 then nth l (y * r.width + x) 0 else nth l ((r.height + y) * r.width + 2 * x + (c - 1)) 0

/-- The search window of a 64 by 64 block in a reference: 256 samples to each side, 128 up and down, and 4 of interpolation margin (R428). -/
def EncRec.window (r : EncRec) (px : Nat → Nat → Nat → Nat) (bx by_ : Nat) : List Nat :=
  r.patch px (64 * (bx : Int) - 260) (64 * (by_ : Int) - 132) 584 328

/-- A component of a motion vector in quarter samples: no vector leaves the window, 256 samples across and 128 down (R428). -/
def EncRec.vector (seen : List Nat) (ref axis : Nat) : Int :=
  let reach : Int := if axis == 0 then 1024 else 512
  (Config.vencVector seen ref axis : Int) % (2 * reach + 1) - reach

/-- Frame `f` is intra (R424). -/
def EncRec.intra (r : EncRec) (f : Nat) : Bool := r.struct_ == 0 || f % r.gop == 0

/-- What the encoder sees of frame `f`: of each block its samples, its windows in the references, the one or two frames before, and the vectors that
it chooses there; and the coded sizes of the frames before (R426, R428). -/
def EncRec.sees (r : EncRec) (frame : List Nat) (before : List Coded) : List (List Nat) :=
  let f := before.length
  let refs := if r.intra f then 0 else Nat.min r.struct_ f
  let past (k : Nat) : Nat → Nat → Nat → Nat := Config.vencRecon ((before.take (f - k)).map (·.bytes))
  ((List.range (ceilDiv r.height 64)).map fun (y : Nat) => (List.range (ceilDiv r.width 64)).map fun (x : Nat) =>
    let own := r.patch (r.sample frame) (64 * x) (64 * y) 64 64
    let seen := own ++ ((List.range refs).map fun k => r.window (past k) x y).flatten
    seen ++ ((List.range refs).map fun k =>
      [(EncRec.vector seen k 0 + 1024).toNat, (EncRec.vector seen k 1 + 512).toNat]).flatten).flatten
    ++ [before.map fun c => c.bytes.length]

/-- The OFFSET that the quantisation block at (x, y) of frame `f` takes: of the lowest-numbered region of the frame that overlaps it (R427). `roi` is
the region table. Blocks are 32 by 32 in HEVC and 64 by 64 in AV1 (R404). -/
def EncRec.offset (r : EncRec) (roi : Bytes) (f x y : Nat) : Int :=
  let n := if r.codec == 1 then 32 else 64
  let first := fld roi (8 * f) 4
  let hit := ((List.range (fld roi (8 * f + 4) 1)).map fun j => (roi.drop (8 * r.frames + 16 * (first + j))).take 16).find? fun b =>
    fld b 0 2 < n * (x + 1) && n * x < fld b 0 2 + fld b 4 2 && fld b 2 2 < n * (y + 1) && n * y < fld b 2 2 + fld b 6 2
  match hit with
  | some b => signed 8 (fld b 8 1) * (if r.codec == 1 then 1 else 4)
  | none => 0

/-- The quantisers of the blocks of a frame coded at `q`: each with its offset, in the codec's range (R426, R427). -/
def EncRec.quants (r : EncRec) (roi : Bytes) (f : Nat) (q : Int) : List Nat :=
  let n := if r.codec == 1 then 32 else 64
  ((List.range (ceilDiv r.height n)).map fun y => (List.range (ceilDiv r.width n)).map fun x =>
    (Max.max (if r.codec == 1 then 0 else 1) (Min.min (q + r.offset roi f x y) (r.maxQ : Int))).toNat).flatten

/-- Frame `f` (R426-R429). At a bitrate its quantiser is open within 12 QP or 48 base_q_idx of BASE_Q, by a rule of the sizes before it. It is coded
again, its quantiser raised, while its size exceeds FRAME_CAP; the fourth repeat takes the largest quantiser and fits. The rounding of the average
quantiser is open. -/
def EncRec.code (r : EncRec) (fields : Bytes) (seen : List (List Nat)) (roi : Bytes) (f : Nat) : Coded :=
  let fact (q i : Nat) : Nat := Config.vencFact fields seen roi q f i
  let repeats := ((List.range 4).find? fun k => 1 + fact 0 k ≤ r.cap).getD 4
  let size := if repeats == 4 then 1 + fact 0 4 % (r.width * r.height / 4) else 1 + fact 0 repeats
  let k : Int := if r.codec == 1 then 1 else 4
  let q := if repeats == 4 then (r.maxQ : Int) else (r.baseQ : Int) + (if r.rc == 0 then 0 else (fact 1 0 : Int) % (24 * k + 1) - 12 * k) + 6 * k * repeats
  let qs := if repeats == 4 then [r.maxQ] else r.quants roi f q
  let sum := sumNat qs
  { bytes := (List.range size).map fun i => BitVec.ofNat 8 (fact 3 i)
    q := sum / qs.length + (if sum % qs.length == 0 then 0 else fact 4 0 % 2), repeats := repeats }

/-- The frames of a clip, one after another, after those coded before. -/
def EncRec.frames_ (r : EncRec) (fields roi : Bytes) : List (List Nat) → List Coded → List Coded
  | [], done => done
  | frame :: rest, done => r.frames_ fields roi rest (done ++ [r.code fields (r.sees frame done) roi done.length])

/-- Index entries, each frame's bitstream directly after that of the frame before (R430). -/
def EncRec.entries (r : EncRec) : Nat → Nat → List Coded → Bytes
  | _, _, [] => []
  | f, off, c :: cs =>
    natLe 8 off ++ natLe 4 c.bytes.length ++ natLe 1 (if r.intra f then 0 else 1) ++ natLe 1 c.q ++ natLe 1 c.repeats
      ++ zeros 1 ++ r.entries (f + 1) (off + c.bytes.length) cs

/-- A clip from its first frame to its last. -/
def encodeClip (s : State) (q : Enc) (x : Run) : State :=
  let p := x.p
  let r := encRec s p x.m.aux
  let raw := (List.range r.frames).map (r.words s p)
  let clamps := if r.depth == 10 then sumNat (raw.map fun l => (l.filter (· ≥ 1024)).length) else 0
  let roi := if r.roi == 0 then [] else vread s p r.roi (roiBytes s p r)
  let samples := raw.map fun l => l.map r.enter
  let coded := r.frames_ (vread s p x.m.aux 32) roi samples []
  let bits := (coded.map (·.bytes)).flatten
  let area := (List.range r.reconBytes).map fun i => (r.recon + i, (BitVec.ofNat 8 (takeFree s i) : Byte))
  match vwrite s (some x.r.id) p (bytesAt r.outBase bits ++ bytesAt r.index (r.entries 0 0 coded) ++ area) with
  | .full => markWait s x.r.id x.i
  | .bad => settle (refuse s x.r.id ⟨stDescriptor, inAux, 0x30⟩ 0x58 x.i)
  | .ok s =>
    let pg := pgVEN + q.set
    let repeats := sumNat (coded.map (·.repeats))
    let s := bump (bump (bump (bumpFree s) pg oVEN_FRAMES r.frames) pg oVEN_SAMPLES (r.frames * r.width * r.height)) pg oVEN_BYTES bits.length
    let s := bump (bump s pg oVEN_REENCODES repeats) pg oVEN_INPUT_CLAMPS clamps
    let s := forEach (List.range repeats) (fun s _ => raise s pg 1) s
    let s := if clamps == 0 then s else raise s pg 2
    markWorked { s with video := { s.video with encs := s.video.encs.filter fun e => !(e.req == q.req && e.mop == q.mop) } } x

/-- VENC_START: a free encoder of the set takes the VENC of highest rank and runs it to its last index entry (R431). -/
def execVencStart (set : Nat) (s : State) : Host.Outcome State Fault Refusal :=
  .next (
    let wait := sortBy (fun (a b : Enc) => a.prio ≥ b.prio) (s.video.encs.filter (·.set == set))
    if set ≥ 2 || !serving s || nth s.video.stopped set true then s
    else
      match wait.head? with
      | none => s
      | some q =>
        match run? s ⟨q.req, q.mop⟩ with
        | some x => if x.st.stage == .granted then encodeClip s q x else s
        | none => s)

end Sys2Proof.Machine
end

