-- ==== Sys2Proof/Machine/Input.lean ====
section
/-! DEFINITION. The input pipeline: sample preparation, augmentation, and the batch assembler (R435-R459). -/

namespace Sys2Proof.Machine

/-! ### Preparation records (R437, R438, R444). -/

/-- An augmentation entry. -/
structure Aug where
  op : Nat
  a : W32
  b : W32
  c : W32
  deriving DecidableEq, Repr

/-- A prep record with its augmentations. -/
structure PrepRec where
  cropX : Nat
  cropY : Nat
  inW : Nat
  inH : Nat
  outW : Nat
  outH : Nat
  first : Nat
  count : Nat
  tstep : Nat
  patch : Nat
  matrix : Nat
  range : Nat
  augs : List Aug
  mean : List W32
  rstd : List W32
  seed : Nat
  deriving DecidableEq, Repr

/-- The FP32 code at an address. -/
def w32At (s : State) (p va : Nat) : W32 := BitVec.ofNat 32 (vnat s p va 4)

/-- The record at an address. -/
def prepRec (s : State) (p va : Nat) : PrepRec :=
  let b := vread s p va 64
  { cropX := fld b 0 2, cropY := fld b 2 2, inW := fld b 4 2, inH := fld b 6 2, outW := fld b 8 2, outH := fld b 0xA 2
    first := fld b 0xC 2, count := fld b 0xE 2, tstep := fld b 0x10 1, patch := fld b 0x11 1, matrix := fld b 0x12 1, range := fld b 0x13 1
    augs := (List.range (Nat.min 8 (fld b 0x14 1))).map fun i =>
      let e := va + 0x40 + 16 * i
      ⟨vnat s p e 1, w32At s p (e + 4), w32At s p (e + 8), w32At s p (e + 12)⟩
    mean := (List.range 3).map fun i => w32At s p (va + 0x18 + 4 * i), rstd := (List.range 3).map fun i => w32At s p (va + 0x24 + 4 * i)
    seed := fld b 0x30 8 }

/-- Source frames that a sample needs (R439). -/
def PrepRec.needs (r : PrepRec) : Nat := r.first + (r.count - 1) * r.tstep + 1

/-- A job's descriptor. -/
structure JobDesc where
  sample : Nat
  pos : Nat
  batch : Nat
  nseg : Nat
  wait : Nat
  done : Nat
  recs : Nat
  base : Nat
  stride : Nat
  pitch : Nat
  maxH : Nat
  deriving DecidableEq, Repr

/-- Job `i` of a PREP. -/
def jobDesc (s : State) (p aux i : Nat) : JobDesc :=
  let b := vread s p (aux + 0xC0 + 64 * i) 64
  { sample := fld b 0 4, pos := fld b 4 4, batch := fld b 8 4, nseg := fld b 0xC 1, wait := fld b 0x10 8, done := fld b 0x18 8
    recs := fld b 0x20 8, base := fld b 0x28 8, stride := fld b 0x30 4, pitch := fld b 0x34 2, maxH := fld b 0x36 2 }

/-! ### Checks of admission. -/

/-- The STEP macro-ops of a list with their batch records' addresses and their k (R436). -/
def listSteps (ms : List Mop) : List (Nat × Nat) := ms.filterMap fun m => if m.opcode == 0x64 then some (m.aux, m.p 0 2) else none

/-- The batch records of a list, each once. -/
def listBatches (ms : List Mop) : List Nat := ((listSteps ms).map (·.1)).eraseDups

/-- An entry of 16 bytes at byte `o` of the structure at AUX_PTR (R444). -/
def Env.aug (e : Env) (va o : Nat) : Option Check :=
  let b := vread e.s e.p va 16
  let v (k : Nat) : Num := FFmt.fp32.decode (fld b k 4)
  let a := v 4
  let bb := v 8
  let zero := Num.zero
  let half : Num := .num false 1 (-1)
  let whole : Bool := match a with | .num n m x => (toInt (-1) 300 (.num n m x)).1 ≥ 0 && (Num.ofInt (toInt (-1) 300 (.num n m x)).1).cmp a == some .eq | _ => false
  need (allZero ((b.drop 1).take 3) && (
    match fld b 0 1 with
    | 1 => whole && a.le (Num.ofInt 256)
    | 2 => half.le a && a.le bb && bb.le (Num.ofInt 2)
    | 3 => zero.le a && a.le Num.one
    | 4 => true
    | 5 | 6 => zero.le a && zero.le bb
    | 7 => zero.le a
    | _ => false)) (badDesc inAux o)

/-- The batch of a job in the same list: its record. -/
def Env.jobBatch (e : Env) (ms : List Mop) (id : Nat) : Option BatchRec :=
  ((listBatches ms).map (batchRec e.s e.p)).find? (·.id == id)

/-- One job, which begins at byte `o` (R438). -/
def Env.job (e : Env) (ms : List Mop) (r : PrepRec) (aux i : Nat) : Option Check :=
  let o := 0xC0 + 64 * i
  let b := vread e.s e.p (aux + o) 64
  let d := jobDesc e.s e.p aux i
  let bad (k : Nat) : Option Check := badDesc inAux (o + k)
  let recs := firstBad ([need (1 ≤ d.nseg && d.nseg ≤ 8) (bad 0xC), e.extent false d.recs (8 * d.nseg) inAux (o + 0x20)]
    ++ (List.range (Nat.min d.nseg 8)).map fun k => e.extent false (vnat e.s e.p (d.recs + 8 * k) 8) 64 inAux (o + 0x20))
  firstBad [
    match e.jobBatch ms d.batch with
    | none => bad 8
    | some q => firstBad [need (d.pos < q.count) (bad 4), need (q.sample e.s e.p d.pos == d.sample) (bad 0)],
    need (fld b 0xD 3 == 0) (bad 0xD), need (entryOk d.wait) (bad 0x10), need (e.entryAllotted d.wait) (badPart inAux (o + 0x10)),
    need (entryOk d.done) (bad 0x18), need (e.entryAllotted d.done) (badPart inAux (o + 0x18)), recs,
    need (d.base % 4096 == 0) (bad 0x28),
    e.extent false d.base ((r.needs - 1) * d.stride + d.pitch * d.maxH * 3 / 2) inAux (o + 0x28), need (fld b 0x38 8 == 0) (bad 0x38)]

/-- The staging tensor (R441): one index of dimension 3 for each list position of the jobs' batches. -/
def Env.staging (e : Env) (m : Mop) (ms : List Mop) (r : PrepRec) : Option Check :=
  let t := e.tns m m.tdOut
  let ns := nth t.cap 2 1
  let w := r.outW / r.patch
  let n := m.p 0 2
  firstBad [
    need (t.td.ty == tyBF16 || t.td.ty == tyFP32) (badDesc inOut 0x10), e.plain m m.tdOut inOut,
    need (nth t.cap 0 1 == 3 * r.patch * r.patch) (badDesc inOut 0x14), need (ns != 0 && w % ns == 0) (badDesc inOut 0x1C),
    e.stripForm m m.tdOut inOut (w / ns * r.count * (r.outH / r.patch)) ns,
    need ((List.range n).all fun i => match e.jobBatch ms (jobDesc e.s e.p m.aux i).batch with
      | some q => nth t.cap 3 1 == q.count
      | none => false) (badDesc inOut 0x20)]

/-- PREP (R436-R441). -/
def Env.prep (e : Env) (ms : List Mop) (m : Mop) : Option Check :=
  let n := m.p 0 2
  match firstBad [e.form m { out := .must, bucket := .no, aux := .must } (· == 0) 2, noNarrow m, need (m.layer == 0) (badDesc inMop 0x38),
      need (1 ≤ n && n ≤ 4096) (badDesc inMop 0x70), e.ptr m.aux 64 (0xC0 + 64 * n) inMop 0x48] with
  | some c => some c
  | none =>
    let b := vread e.s e.p m.aux 64
    let r := prepRec e.s e.p m.aux
    let bad := badDesc inAux
    let ratio (x y : Nat) : Bool := x ≤ 4 * y && y ≤ 4 * x
    firstBad ([
      need (r.cropX % 2 == 0) (bad 0), need (r.cropY % 2 == 0) (bad 2),
      need (r.inW % 2 == 0 && 16 ≤ r.inW && r.inW ≤ 8192) (bad 4), need (r.inH % 2 == 0 && 16 ≤ r.inH && r.inH ≤ 8704) (bad 6),
      need (r.patch != 0 && r.outW != 0 && r.outW % r.patch == 0 && ratio r.inW r.outW) (bad 8),
      need (r.patch != 0 && r.outH != 0 && r.outH % r.patch == 0 && ratio r.inH r.outH) (bad 0xA),
      need (1 ≤ r.count && r.count ≤ 256) (bad 0xE), need (1 ≤ r.tstep && r.tstep ≤ 8) (bad 0x10),
      need ([1, 2, 4, 8].contains r.patch) (bad 0x11), need (r.matrix < 3) (bad 0x12), need (r.range < 2) (bad 0x13),
      need (fld b 0x14 1 ≤ 8) (bad 0x14), need (fld b 0x15 3 == 0) (bad 0x15), need (r.rstd.all fun w => (f32 w).finite) (bad 0x24),
      need (fld b 0x38 8 == 0) (bad 0x38)]
      ++ (List.range r.augs.length).map (fun i => e.aug (m.aux + 0x40 + 16 * i) (0x40 + 16 * i))
      ++ (List.range n).map (fun i => e.job ms r m.aux i) ++ [e.staging m ms r])

/-- A batch record (R445). -/
def Env.batch (e : Env) (va : Nat) : Option Check :=
  match e.ptr va 64 128 inMop 0x48 with
  | some c => some c
  | none =>
    let b := vread e.s e.p va 128
    let r := batchRec e.s e.p va
    let bad := badDesc inAux
    let samples := (List.range r.count).map (r.sample e.s e.p)
    firstBad ([
      need (r.id != 0 && !e.s.inp.batches.any fun q => q.part == e.p && q.id == r.id) (bad 0),
      need (1 ≤ r.nslot && r.nslot ≤ 1024) (bad 4), need (1 ≤ r.passes && r.passes ≤ 4096) (bad 6),
      need (r.passes ≤ r.maxSteps && r.maxSteps ≤ 4096) (bad 8), need (r.bflags < 2) (bad 0xA), need (fld b 0xB 1 == 0) (bad 0xB),
      need (r.nqueue ≤ 65535) (bad 0xC), e.extent false r.list (4 * r.count) inAux 0x10, need (distinct samples) (bad 0x10),
      e.extent true r.records (32 * r.count) inAux 0x18, need (r.lt % 16 == 0) (bad 0x20), e.extent true r.lt (16 * r.nslot) inAux 0x20,
      e.extent true r.passIdx (2 * r.nslot) inAux 0x28, e.extent true r.joinCount 4 inAux 0x30,
      e.extent true r.joinMap (8 * r.jmax) inAux 0x38, e.extent true r.leaveCount 4 inAux 0x40,
      e.extent true r.leaveMap (8 * r.nslot) inAux 0x48, need (1 ≤ r.jmax && r.jmax ≤ r.nslot) (bad 0x50), need (r.nrefs ≤ 4096) (bad 0x52),
      need (1 ≤ r.tokens && r.tokens ≤ 2 ^ 24) (bad 0x54), need (r.ctxBase + r.nslot ≤ 65536) (bad 0x58), need (fld b 0x5A 6 == 0) (bad 0x5A),
      if r.nrefs == 0 then none else e.extent false r.refs (8 * r.nrefs) inAux 0x60, need (allZero (b.drop 0x68)) (bad 0x68)]
      ++ (List.range r.nrefs).map fun i => e.extent true (vnat e.s e.p (r.refs + 8 * i) 8) (8 * r.nslot) inAux 0x60)

/-- The STEPs of a list obey R446 at macro-op `i`: each batch has its STEPs from 0 to MAX_STEPS in order, and a pass begins between one and
the next; batches of one list have ids of their own. -/
def Env.stepOrder (e : Env) (ms : List Mop) (i : Nat) (m : Mop) : Option Check :=
  let k := m.p 0 2
  let r := batchRec e.s e.p m.aux
  let mine (x : Mop) : Bool := x.opcode == 0x64 && x.aux == m.aux
  let before := (ms.take i).filter mine
  let since := ((ms.take i).reverse.takeWhile fun x => !mine x).any fun x => x.passStart
  let later := (ms.drop (i + 1)).any fun x => mine x && x.p 0 2 == k + 1
  firstBad [
    need (k ≤ r.maxSteps && before.map (·.p 0 2) == List.range k) (badDesc inMop 0x70),
    need (k == 0 || since) (badDesc inMop 0x70), need (k == r.maxSteps || later) (badDesc inMop 0x70),
    need ((listBatches ms).all fun va => va == m.aux || (batchRec e.s e.p va).id != r.id) (badDesc inAux 0)]

/-- STEP (R436, R445, R446). -/
def Env.step (e : Env) (ms : List Mop) (i : Nat) (m : Mop) : Option Check :=
  firstBad [e.form m { bucket := .no, aux := .must } (· == 0) 2, noNarrow m, need (m.layer == 0) (badDesc inMop 0x38), e.batch m.aux,
    e.stepOrder ms i m]

/-- The outermost dimension of size greater than 1 (R454). -/
def sampleDim (t : TD) : Nat := (((List.range 5).reverse.find? fun d => nth t.size d 1 > 1)).getD 0

/-- Sizes without the sample dimension. -/
def otherSizes (t : TD) : List Nat := (List.range 5).filterMap fun d => if d == sampleDim t then none else some (nth t.size d 1)

/-- PLACE (R436, R445, R454). -/
def Env.place (e : Env) (ms : List Mop) (m : Mop) : Option Check :=
  let a := (e.tns m m.tdA).td
  let o := (e.tns m m.tdOut).td
  let after (t : TD) : Nat := if t.blockDim > sampleDim t then t.blockDim - 1 else t.blockDim
  firstBad [
    e.form m { out := .must, a := .must, bucket := .no, aux := .must } (· < 3) 2, noNarrow m, need (m.layer == 0) (badDesc inMop 0x38),
    e.allPlain m, e.batch m.aux, need ((listSteps ms).any fun (va, k) => va == m.aux && k == m.p 0 2) (badDesc inMop 0x70),
    need (a.ty == o.ty) (badDesc inOut 0x10), need (otherSizes a == otherSizes o) (badDesc inOut 0x14),
    need (!tyBlocked a.ty || (a.blockDim != sampleDim a && o.blockDim != sampleDim o && after a == after o)) (badDesc inOut 0x12)]

/-- Open batches and positions that a list would add keep within the module's (R446). -/
def batchRoom (s : State) (p : Nat) (ms : List Mop) : Bool :=
  let rs := (listBatches ms).map (batchRec s p)
  s.inp.batches.length + rs.length ≤ 64
    && sumNat (s.inp.batches.map (·.poss.length)) + sumNat (rs.map (·.count)) ≤ 65536

/-- The batches of a request open with its admission (R446). -/
def openBatches (s : State) (r : Request) (ms : List Mop) : State :=
  let bs : List Batch := (listBatches ms).map fun va =>
    let q := batchRec s r.part va
    { id := q.id, req := r.id, part := r.part, va := va
      poss := (List.range q.count).map fun i => { pos := i, sample := q.sample s r.part i } }
  { s with inp := { s.inp with batches := s.inp.batches ++ bs } }

/-! ### Augmentation draws (R443). -/

/-- One round of Philox-4×32. -/
def philoxRound (k0 k1 : Nat) (c : Nat × Nat × Nat × Nat) : Nat × Nat × Nat × Nat :=
  let p0 := 0xD2511F53 * c.1
  let p1 := 0xCD9E8D57 * c.2.2.1
  (Nat.xor (Nat.xor (p1 / 2 ^ 32) c.2.1) k0, p1 % 2 ^ 32, Nat.xor (Nat.xor (p0 / 2 ^ 32) c.2.2.2) k1, p0 % 2 ^ 32)

/-- Its rounds, the key growing by the Weyl constants. -/
def philox : Nat → Nat → Nat → Nat × Nat × Nat × Nat → Nat × Nat × Nat × Nat
  | 0, _, _, c => c
  | n + 1, k0, k1, c => philox n ((k0 + 0x9E3779B9) % 2 ^ 32) ((k1 + 0xBB67AE85) % 2 ^ 32) (philoxRound k0 k1 c)

/-- Draw `j` of entry `a` of sample `n`, as an FP32 value in [0, 1). -/
def draw (seed a n j : Nat) : W32 :=
  let (w0, w1, w2, w3) := philox 10 (seed % 2 ^ 32) (seed / 2 ^ 32) (j / 4, a, n, 0)
  let w := match j % 4 with | 0 => w0 | 1 => w1 | 2 => w2 | _ => w3
  toF32 (.num false (w / 256) (-24))

/-! ### The geometry of a sample (R440, R444). -/

/-- A number as FP32. -/
def fNat (n : Nat) : W32 := toF32 (Num.ofInt n)

/-- The integer below a value. -/
def floorOf (w : W32) : Int :=
  match f32 w with
  | .num n m e => let v : Int := if n then -(m : Int) else m; if e ≥ 0 then v * 2 ^ e.toNat else v / (2 ^ (-e).toNat : Nat)
  | _ => 0

/-- An integer as FP32. -/
def fInt (i : Int) : W32 := toF32 (Num.ofInt i)

/-- One half, and a clamp to [lo, hi]. -/
def fHalf : W32 := 0x3F000000
def fClamp (lo hi w : W32) : W32 := fMin (fMax w lo) hi

/-- The crop window after the geometric augmentations, and whether columns are read in reverse. -/
structure Win where
  cx : W32
  cy : W32
  w : W32
  h : W32
  flip : Bool
  deriving DecidableEq, Repr

/-- A window shifted inside a picture of the given size along one axis. -/
def shiftIn (c n size : W32) : W32 := fMin (fMax c 0) (fSub size n)

/-- A + (B − A) × u. -/
def mixOf (g : Aug) (u : W32) : W32 := fAdd g.a (fMul (fSub g.b g.a) u)

/-- One geometric augmentation, entry `i`, of a sample on a picture of `pw` by `ph`. -/
def geomStep (seed n : Nat) (pw ph : W32) (x : Win) (g : Nat × Aug) : Win :=
  let u (j : Nat) : W32 := draw seed g.1 n j
  match g.2.op with
  | 1 =>
    let shift (j : Nat) : W32 := fSub (fInt (floorOf (fMul (u j) (fAdd (fMul 0x40000000 g.2.a) (fNat 1))))) g.2.a
    { x with cx := shiftIn (fAdd x.cx (shift 0)) x.w pw, cy := shiftIn (fAdd x.cy (shift 1)) x.h ph }
  | 2 =>
    let f := mixOf g.2 (u 0)
    let w := fMul x.w f
    let h := fMul x.h f
    let cx := fAdd x.cx (fMul (fSub x.w w) fHalf)
    let cy := fAdd x.cy (fMul (fSub x.h h) fHalf)
    let w := fMin w pw
    let h := fMin h ph
    { x with cx := shiftIn cx w pw, cy := shiftIn cy h ph, w := w, h := h }
  | 3 => if (f32 (u 0)).lt (f32 g.2.a) then { x with flip := !x.flip } else x
  | _ => x

/-- Entries with their indices. -/
def PrepRec.entries (r : PrepRec) : List (Nat × Aug) := (List.range r.augs.length).zip r.augs

/-- The window of sample `n`; `pw` by `ph` is the part of the picture that every segment has (assumption log 115). -/
def PrepRec.window (r : PrepRec) (n : Nat) (pw ph : Nat) : Win :=
  r.entries.foldl (geomStep r.seed n (fNat pw) (fNat ph)) ⟨fNat r.cropX, fNat r.cropY, fNat r.inW, fNat r.inH, false⟩

/-- Bilinear interpolation at a coordinate clamped to a plane of `w` by `h`. Where only one sample has weight the result is that sample; else
it lies between those that have, and its rounding is open. -/
def interp (get : Nat → Nat → Nat) (w h : Nat) (x y : W32) : W32 :=
  let x := fClamp 0 (fNat (w - 1)) x
  let y := fClamp 0 (fNat (h - 1)) y
  let x0 := (floorOf x).toNat
  let y0 := (floorOf y).toNat
  let x1 := Nat.min (x0 + 1) (w - 1)
  let y1 := Nat.min (y0 + 1) (h - 1)
  let fx := fSub x (fNat x0)
  let fy := fSub y (fNat y0)
  let a := get x0 y0
  let b := if (f32 fx).isZero then a else get x1 y0
  let c := if (f32 fy).isZero then a else get x0 y1
  let d := if (f32 fy).isZero then b else if (f32 fx).isZero then c else get x1 y1
  let lo := Nat.min (Nat.min a b) (Nat.min c d)
  let hi := Nat.max (Nat.max a b) (Nat.max c d)
  if lo == hi then fNat lo else fClamp (fNat lo) (fNat hi) (Config.bilinear a b c d fx fy)

/-! ### Colour (R440). -/

/-- A decimal fraction in ten-thousandths, as FP32. -/
def fDec (n : Nat) : W32 := fDiv (fNat n) (fNat 10000)

/-- (Kr, Kb) of a matrix. -/
def kr (m : Nat) : W32 := fDec (match m with | 0 => 2126 | 1 => 2990 | _ => 2627)
def kb (m : Nat) : W32 := fDec (match m with | 0 => 722 | 1 => 1140 | _ => 593)
def kg (m : Nat) : W32 := fSub (fSub (fNat 1) (kr m)) (kb m)

/-- A value clamped to [0, 1]. -/
def unit01 (w : W32) : W32 := fClamp 0 (fNat 1) w

/-- R, G and B from a luma and two chroma samples of depth `b` (steps 2 and 3). -/
def toRgb (m range b : Nat) (y cb cr : W32) : List W32 :=
  let k := 2 ^ (b - 8)
  let one := fNat 1
  let yy := if range == 0 then fDiv (fSub y (fNat (16 * k))) (fNat (219 * k)) else fDiv y (fNat (2 ^ b - 1))
  let ch (c : W32) : W32 :=
    if range == 0 then fDiv (fSub c (fNat (128 * k))) (fNat (224 * k)) else fDiv (fSub c (fNat (2 ^ (b - 1)))) (fNat (2 ^ b - 1))
  let r := fAdd yy (fMul (fMul 0x40000000 (fSub one (kr m))) (ch cr))
  let bl := fAdd yy (fMul (fMul 0x40000000 (fSub one (kb m))) (ch cb))
  let g := fDiv (fSub (fSub yy (fMul (kr m) r)) (fMul (kb m) bl)) (kg m)
  [unit01 r, unit01 g, unit01 bl]

/-- One photometric augmentation of a pixel (step 4). -/
def photoStep (seed n m : Nat) (rgb : List W32) (g : Nat × Aug) : List W32 :=
  let f := mixOf g.2 (draw seed g.1 n 0)
  match g.2.op with
  | 4 => rgb.map fun v => unit01 (fAdd v f)
  | 5 => rgb.map fun v => unit01 (fAdd fHalf (fMul (fSub v fHalf) f))
  | 6 =>
    let y := fAdd (fAdd (fMul (kr m) (nth rgb 0 0)) (fMul (kg m) (nth rgb 1 0))) (fMul (kb m) (nth rgb 2 0))
    rgb.map fun v => unit01 (fAdd y (fMul (fSub v y) f))
  | _ => rgb

/-- One NOISE augmentation of element `e` (step 6). -/
def noiseStep (seed n e : Nat) (v : W32) (g : Nat × Aug) : W32 :=
  if g.2.op == 7 then fAdd v (fMul (fSub (fMul 0x40000000 (draw seed g.1 n e)) (fNat 1)) g.2.a) else v

/-! ### One sample. -/

/-- A sample at work: its record, its job, the frames and picture size of each of its segments, and its depth. -/
structure Prep where
  r : PrepRec
  d : JobDesc
  pics : List (Nat × Nat × Nat)
  depth : Nat
  win : Win
  deriving DecidableEq, Repr

/-- A stored sample of source frame `f`, plane 0 luma, 1 Cb, 2 Cr (R413, R438). -/
def Prep.source (x : Prep) (s : State) (p f plane c row : Nat) : Nat :=
  let n := if x.depth == 10 then 2 else 1
  let at0 := x.d.base + f * x.d.stride
  if plane == 0 then vnat s p (at0 + row * x.d.pitch + n * c) n
  else vnat s p (at0 + x.d.pitch * (x.d.maxH + row) + n * (2 * c + (plane - 1))) n

/-- The size of the decoded picture that source frame `f` is: that of the segment in whose turn the frame lies (R438, R440). -/
def pictureOf : List (Nat × Nat × Nat) → Nat → Nat × Nat
  | [], _ => (1, 1)
  | (n, w, h) :: rest, f => if f < n || rest.isEmpty then (w, h) else pictureOf rest (f - n)

/-- The three values of output pixel (x', y') of prepared frame i, before NOISE (steps 1-5). -/
def Prep.pixel (x : Prep) (s : State) (p i px py : Nat) : List W32 :=
  let f := x.r.first + i * x.r.tstep
  let (w, h) := pictureOf x.pics f
  let px := if x.win.flip then x.r.outW - 1 - px else px
  let coord (c0 n : W32) (o k : Nat) : W32 := fSub (fAdd c0 (fMul (fAdd (fNat k) fHalf) (fDiv n (fNat o)))) fHalf
  let xs := coord x.win.cx x.win.w x.r.outW px
  let ys := coord x.win.cy x.win.h x.r.outH py
  let xc := fMul xs fHalf
  let yc := fMul (fSub ys fHalf) fHalf
  let plane (k w h : Nat) (a b : W32) : W32 := interp (x.source s p f k) w h a b
  let cw := ceilDiv w 2
  let ch := ceilDiv h 2
  let rgb := toRgb x.r.matrix x.r.range x.depth (plane 0 w h xs ys) (plane 1 cw ch xc yc) (plane 2 cw ch xc yc)
  let rgb := x.r.entries.foldl (photoStep x.r.seed x.d.sample x.r.matrix) rgb
  (List.range 3).map fun c => fMul (fSub (nth rgb c 0) (nth x.r.mean c 0)) (nth x.r.rstd c 0)

/-- The value of one output element. -/
def Prep.element (x : Prep) (s : State) (p i px py c : Nat) : W32 :=
  let e := ((i * x.r.outH + py) * x.r.outW + px) * 3 + c
  x.r.entries.foldl (noiseStep x.r.seed x.d.sample e) (nth (x.pixel s p i px py) c 0)

/-- The bytes of a prepared sample in the staging tensor (R441). -/
def Prep.bytes (x : Prep) (s : State) (p : Nat) (t : Tns) : List (Nat × Byte) :=
  let q := x.r.patch
  let ns := nth t.sz 2 1
  let sw := x.r.outW / q / ns
  let one (ch pos strip : Nat) : List (Nat × Byte) :=
    let v : W32 :=
      if ch ≥ 3 * q * q then 0
      else
        let col := strip * sw + pos % sw
        let i := pos / sw % x.r.count
        let row := pos / sw / x.r.count
        x.element s p i (q * col + ch / 3 % q) (q * row + ch / 3 / q) (ch % 3)
    bytesAt (elemVa t.td [ch, pos, strip, x.d.pos, 0]) (natLe (tyBytes t.td.ty) (scalarCode t.td.ty (f32 v)).1)
  (((List.range ns).map fun strip => ((List.range (nth t.sz 1 1)).map fun pos =>
    ((List.range (roundUp (3 * q * q) 32)).map fun ch => one ch pos strip).flatten).flatten).flatten)

/-! ### PREP and its jobs (R439-R442). -/

/-- PREP: its jobs wait for engines; it completes when every job has ended (R439). -/
def execPrep (m : MopRef) (s : State) : Host.Outcome State Fault Refusal :=
  .next (match ready? s m 0x60 (subIs 0) with
    | some x =>
      if x.st.queued then s
      else
        let jobs : List Job := (List.range (x.m.p 0 2)).map fun i =>
          let d := jobDesc s x.p x.m.aux i
          { req := x.r.id, mop := x.i, entry := i, sample := d.sample, pos := d.pos, batch := d.batch, part := x.p, prio := x.r.prio
            wait := tallyEntry d.wait }
        modMop (rankJobs { s with inp := { s.inp with jobs := s.inp.jobs ++ jobs } }) x.r.id x.i fun st => { st with queued := true }
    | none => s)

/-- Update a job. -/
def modJob (s : State) (j : Job) (f : Job → Job) : State :=
  { s with inp := { s.inp with jobs := updFirst (fun k => k.req == j.req && k.mop == j.mop && k.entry == j.entry) f s.inp.jobs } }

/-- The job that a free engine takes. -/
def nextJob (s : State) : Option Job :=
  let rank (j : Job) : Nat := j.reached.getD 0
  (sortBy (fun a b => a.prio > b.prio || (a.prio == b.prio && rank a ≤ rank b))
    (s.inp.jobs.filter fun j => j.engine.isNone && !j.ended && j.reached.isSome)).head?

/-- A decode record that a job reads. -/
structure DecRec where
  result : Nat
  frames : Nat
  width : Nat
  height : Nat
  depth : Nat
  us : Nat
  deriving DecidableEq, Repr

/-- The record at an address (R423). -/
def decRec (s : State) (p va : Nat) : DecRec :=
  let b := vread s p va 64
  ⟨fld b 0 1, fld b 2 2, fld b 8 2, fld b 0xA 2, fld b 0xC 1, fld b 0x30 8 / 850⟩

/-- The causes that make a sample corrupt, as bits of REASON: 2 a RESULT, 3 another check (R439, R455). -/
def corruptBits (r : PrepRec) (ds : List DecRec) : Nat :=
  let check := sumNat (ds.map (·.frames)) < r.needs || ds.any (fun d => d.width < r.cropX + r.inW || d.height < r.cropY + r.inH)
    || ds.any fun d => some d.depth != ds.head?.map (·.depth)
  flag (ds.any (·.result != 0)) 2 + flag check 3

/-- An engine takes a job: reads its decode records, and prepares the sample unless it is corrupt. -/
def startJob (s : State) (engine : Nat) (j : Job) (x : Run) : State :=
  let d := jobDesc s x.p x.m.aux j.entry
  let r := prepRec s x.p x.m.aux
  let fail (s : State) : State := settle (refuse s x.r.id ⟨stDescriptor, inAux, 0xC0 + 64 * j.entry⟩ 0x60 x.i)
  let vas := (List.range d.nseg).map fun k => vnat s x.p (d.recs + 8 * k) 8
  if !rangeMapped s x.p d.recs (8 * d.nseg) || !vas.all fun va => rangeMapped s x.p va 64 then fail s
  else
    let ds := vas.map (decRec s x.p)
    let bad := corruptBits r ds
    let found (s : State) : State := modJob s j fun j => { j with
      engine := some engine, reason := bad, frames := sumNat (ds.map (·.frames)), parseUs := maxNat (ds.map (·.us))
      decResult := ((ds.map (·.result)).find? (· != 0)).getD 0 }
    if bad != 0 then found s
    else
      let w := (ds.map (·.width)).foldl Nat.min 65535
      let h := (ds.map (·.height)).foldl Nat.min 65535
      let depth := match ds.head? with | some q => q.depth | none => 8
      let p : Prep := ⟨r, d, ds.map fun q => (q.frames, q.width, q.height), depth, r.window d.sample w h⟩
      let frames := (List.range r.count).map fun i => d.base + (r.first + i * r.tstep) * d.stride
      if !frames.all fun va => rangeMapped s x.p va (d.pitch * d.maxH * 3 / 2) then fail s
      else
        match vwrite s (some x.r.id) x.p (p.bytes s x.p (x.tns s x.m.tdOut)) with
        | .ok s => bumpOpen trafficCounters (bump (found s) pgINP oINP_PIXELS (r.outW * r.outH * r.count))
        | .full => markWait s x.r.id x.i
        | .bad => settle (refuse s x.r.id ⟨stDescriptor, inOut, 0⟩ 0x60 x.i)

/-- The edge die of a preparation engine: 0-3 on E0, 4-7 on E1; a trip stops its engines (R460, R531). -/
def prepStopped (s : State) (engine : Nat) : Bool := dieTripped s (12 + engine / 4)

/-- PREP_JOB_START: a free engine takes the waiting job of highest rank (R439). -/
def execPrepJobStart (engine : Nat) (s : State) : Host.Outcome State Fault Refusal :=
  .next (if engine ≥ 8 || !serving s || prepStopped s engine || s.inp.jobs.any (fun j => j.engine == some engine && !j.ended) then s
    else
      match nextJob s with
      | none => s
      | some j =>
        match run? s ⟨j.req, j.mop⟩ with
        | some x => if x.st.stage == .granted then startJob s engine j x else s
        | none => s)

/-- A PREP whose jobs have all ended has done its work. -/
def prepDone (s : State) (req mop : Nat) : State :=
  let mine (j : Job) : Bool := j.req == req && j.mop == mop
  if s.inp.jobs.any fun j => mine j && !j.ended then s
  else
    match run? s ⟨req, mop⟩ with
    | some x =>
      if x.m.opcode == 0x60 && x.st.stage == .granted && x.st.queued then
        markWorked { s with inp := { s.inp with jobs := s.inp.jobs.filter fun j => !mine j } } x
      else s
    | none => s

/-- Update position `pos` of a request's open batch. -/
def modPos (s : State) (req batch pos : Nat) (f : Pos → Pos) : State :=
  { s with inp := { s.inp with batches := s.inp.batches.map fun b =>
      if b.req == req && b.id == batch then { b with poss := updFirst (·.pos == pos) f b.poss } else b } }

/-- A job ends: its sample is ready or corrupt, and DONE is signalled (R439). -/
def endJob (s : State) (j : Job) : State :=
  let open_ := s.inp.batches.any fun b => b.req == j.req && b.id == j.batch
  let s := modPos s j.req j.batch j.pos fun q =>
    if q.final != 0 then q
    else { q with
      ready := j.reason == 0, corrupt := j.reason != 0, reason := Nat.lor q.reason j.reason, decResult := j.decResult, frames := j.frames
      parseUs := j.parseUs, tReady := now s, stale := true }
  let s := if j.reason == 0 then bump s pgINP oINP_PREPARED 1 else if open_ then raise s pgINP 2 else s
  let s := modJob s j fun j => { j with ended := true }
  let s := match req? s j.req with
    | some r => signalEntry s (jobDesc s r.part (mopOf s r j.mop).aux j.entry).done
    | none => s
  prepDone s j.req j.mop

/-- PREP_JOB_END: the engine's job ends (R439). -/
def execPrepJobEnd (engine : Nat) (s : State) : Host.Outcome State Fault Refusal :=
  .next (match s.inp.jobs.find? (fun j => j.engine == some engine && !j.ended && serving s && !prepStopped s engine) with
    | some j => endJob s j
    | none => s)

/-! ### Late samples (R448, R449). -/

/-- Raise INP_LATE for each sample that has become late. -/
def raiseLate (n : Nat) (s : State) : State := forEach (List.range n) (fun s _ => raise s pgINP 1) s

/-- Positions of a partition's open batches that an update makes late. -/
def newlyLate (s s' : State) : Nat :=
  let n (s : State) : Nat := sumNat (s.inp.batches.map fun b => (b.poss.filter (·.late)).length)
  n s' - n s

/-- BUDGET_EXPIRY: a segment has parsed for longer than the budget (R448). -/
def execBudgetExpiry (seg : Nat) (s : State) : Host.Outcome State Fault Refusal :=
  .next (match seg? s seg with
    | some x =>
      let s' := modSample s x.g.part x.d.sample (Pos.makeLate 0)
      raiseLate (newlyLate s s') s'
    | none => s)

/-- STEP 0 reaches step 4 of its life: its hold begins with the HOLD that stands (R449, R460). -/
def beginHold (s : State) (x : Run) : State :=
  if x.m.opcode == 0x64 && x.m.p 0 2 == 0 then
    { s with inp := { s.inp with batches := s.inp.batches.map fun b =>
        if b.req == x.r.id && b.va == x.m.aux then { b with hold := some (fldGet s pgINP oINP_CTRL 31 0) } else b } }
  else s

/-- HOLD_EXPIRY: own-slot samples that are still pending become late (R449). -/
def execHoldExpiry (m : MopRef) (s : State) : Host.Outcome State Fault Refusal :=
  .next (match run? s m with
    | some x =>
      if x.st.stage == .granted && x.m.opcode == 0x64 then
        let n := (batchRec s x.p x.m.aux).nslot
        let s' := { s with inp := { s.inp with batches := s.inp.batches.map fun b =>
          if b.req == x.r.id && b.va == x.m.aux && b.step == 0 && b.hold.isSome && b.hold != some 0xFFFFFFFF then
            { b with poss := b.poss.map fun q => if q.pos < n then q.makeLate 1 else q }
          else b } }
        raiseLate (newlyLate s s') s'
      else s
    | none => s)

/-! ### STEP (R450-R452, R455, R456). -/

/-- The leavers of STEP k. -/
def leavers (r : BatchRec) (k : Nat) (qs : List Pos) : List Pos :=
  sortBy (fun a b => a.slot.getD 0 ≤ b.slot.getD 0) (qs.filter fun q => q.running && (match q.join with | some j => j + r.passes == k | none => false))

/-- The positions once the leavers of STEP k have left. -/
def afterLeave (r : BatchRec) (k : Nat) (qs : List Pos) : List Pos :=
  let l := leavers r k qs
  qs.map fun q => if l.any (·.pos == q.pos) then { q with leave := some k, stale := true } else q

/-- The joiners by own slots: (position, slot), ascending. -/
def ownJoins (r : BatchRec) (qs : List Pos) : List (Nat × Nat) :=
  (List.range r.nslot).filterMap fun i =>
    match qs.find? (·.pos == i) with
    | some q => if q.ready && q.join.isNone then some (i, i) else none
    | none => none

/-- The joiners by refill, after those by own slots. -/
def refillJoins (r : BatchRec) (qs : List Pos) (own : List (Nat × Nat)) : List (Nat × Nat) :=
  let slots := (List.range r.nslot).filter fun i =>
    !qs.any (fun q => q.running && q.slot == some i) && !own.any (·.2 == i)
      && (match qs.find? (·.pos == i) with | some q => q.corrupt || q.leave.isSome | none => false)
  let ready := (qs.filter fun q => r.nslot ≤ q.pos && q.ready && q.join.isNone).map (·.pos)
  ready.zip slots

/-- Every join of STEP k, at most JMAX. -/
def joinsAt (r : BatchRec) (k : Nat) (qs : List Pos) : List (Nat × Nat) :=
  if k + r.passes > r.maxSteps then []
  else
    let own := ownJoins r qs
    (own ++ if bit r.bflags 0 then refillJoins r qs own else []).take r.jmax

/-- The positions with the joins of STEP k. -/
def afterJoin (r : BatchRec) (k : Nat) (js : List (Nat × Nat)) (qs : List Pos) : List Pos :=
  qs.map fun q =>
    match js.find? (·.1 == q.pos) with
    | some (_, sl) => { q with
        slot := some sl, join := some k, stale := true
        reason := if r.nslot ≤ q.pos then Nat.lor q.reason 16 else q.reason }
    | none => q

/-- The position that stands in a slot. -/
def inSlot (qs : List Pos) (i : Nat) : Option Pos := qs.find? fun q => q.running && q.slot == some i

/-- The outputs of a boundary (R451). -/
def stepOutputs (r : BatchRec) (k : Nat) (js lv : List (Nat × Nat)) (qs : List Pos) : List (Nat × Byte) :=
  let map (l : List (Nat × Nat)) : Bytes := (l.map fun (p, sl) => natLe 4 p ++ natLe 4 sl).flatten
  let slots := List.range r.nslot
  let lt := (slots.map fun i => match inSlot qs i with
    | some _ => natLe 2 (r.ctxBase + i) ++ zeros 2 ++ zeros 4 ++ natLe 4 r.tokens ++ natLe 4 r.tokens
    | none => zeros 16).flatten
  let idx := (slots.map fun i => natLe 2 (match inSlot qs i with | some q => k - q.join.getD 0 | none => 0xFFFF)).flatten
  bytesAt r.joinMap (map js) ++ bytesAt r.joinCount (natLe 4 js.length) ++ bytesAt r.leaveMap (map lv)
    ++ bytesAt r.leaveCount (natLe 4 lv.length) ++ bytesAt r.lt lt ++ bytesAt r.passIdx idx

/-- The reference entries of joining slots, REF and PEND at +0 (R91, R451). -/
def refZeros (s : State) (p : Nat) (r : BatchRec) (js : List (Nat × Nat)) : List (Nat × Byte) :=
  ((List.range r.nrefs).map fun i => (js.map fun j => bytesAt (vnat s p (r.refs + 8 * i) 8 + 8 * j.2) (zeros 8)).flatten).flatten

/-- The first joining slot whose context cannot take FILL (R604). -/
def joinCtxFail (s : State) (p : Nat) (r : BatchRec) (js : List (Nat × Nat)) : Option Check :=
  js.findSome? fun j =>
    match ctx? s (r.ctxBase + j.2) with
    | none => badDesc inAux 0x58
    | some c => need (c.owner == p) (badPart inAux 0x58)

/-- Preparation jobs of samples that STEP MAX_STEPS has dropped and that no engine has taken are cancelled (R456). -/
def cancelJobs (s : State) (req batch : Nat) (qs : List Pos) : State :=
  let gone (j : Job) : Bool := j.req == req && j.batch == batch && j.engine.isNone && qs.any fun q => q.pos == j.pos && q.final == 4
  let mops := ((s.inp.jobs.filter gone).map (·.mop)).eraseDups
  let s := { s with inp := { s.inp with jobs := s.inp.jobs.filter fun j => !gone j } }
  forEach mops (fun s m => prepDone s req m) s

/-- Update the batch of a STEP. -/
def modBatch (s : State) (req va : Nat) (f : Batch → Batch) : State :=
  { s with inp := { s.inp with batches := updFirst (fun b => b.req == req && b.va == va) f s.inp.batches } }

/-- The boundary of STEP k once its writes are made. -/
def settleStep (s : State) (x : Run) (r : BatchRec) (b : Batch) (k : Nat) (js : List (Nat × Nat)) (qs : List Pos) : State :=
  let last := k == r.maxSteps
  let vacant := (List.range r.nslot).filter fun i => (inSlot qs i).isNone
  let s := forEach js (fun s j => modCtx s (r.ctxBase + j.2) fun c => { c with filled := 0 }) s
  let cont := k ≥ 1 && !js.isEmpty && !b.continuous
  let s := modBatch s x.r.id x.m.aux fun b => { b with
    step := k + 1, poss := qs.map fun q => { q with stale := false }
    continuous := b.continuous || cont, vacant := b.vacant || (!last && !vacant.isEmpty) }
  let s := bump (bump s pgINP oINP_JOINS js.length) pgINP oINP_REFILLS (js.filter fun j => r.nslot ≤ j.1).length
  let s := if last then s else bump s pgINP oINP_VACANT vacant.length
  let s := if cont then raise s pgINP 3 else s
  if last then
    let s := countFinal (cancelJobs s x.r.id b.id qs) qs
    if b.vacant || qs.any (·.final != 1) then earn s x.r.id stDoneShort else s
  else s

/-- The work of STEP k. -/
def stepWork (s : State) (x : Run) : Work :=
  let k := x.m.p 0 2
  let r := batchRec s x.p x.m.aux
  match s.inp.batches.find? (fun b => b.req == x.r.id && b.va == x.m.aux) with
  | none => .hold
  | some b =>
    let wait := k == 0 && b.poss.any fun q => q.pos < r.nslot && q.pending
    if b.step != k || wait then .hold
    else
      let lv := (leavers r k b.poss).map fun q => (q.pos, q.slot.getD 0)
      let qs := afterLeave r k b.poss
      let js := sortBy (fun (a b : Nat × Nat) => a.2 ≤ b.2) (joinsAt r k qs)
      let qs := afterJoin r k js qs
      let qs := if k == r.maxSteps then qs.map (Pos.finish 5) else qs
      match joinCtxFail s x.p r js with
      | some c => .fail c
      | none =>
        if js.any fun j => ctxBusy s x.p (r.ctxBase + j.2) then .hold
        else
          match vwrite s (some x.r.id) x.p (refZeros s x.p r js ++ stepOutputs r k js lv qs ++ recordBytes r.records qs) with
          | .full => .full
          | .bad => .fail ⟨stDescriptor, inAux, 0⟩
          | .ok s => .state (settleStep s x r b k js qs)

/-- STEP: the assembler settles a boundary (R450). -/
def execStep (m : MopRef) (s : State) : Host.Outcome State Fault Refusal := work m 0x64 (subIs 0) stepWork s

/-- A STEP completes; STEP MAX_STEPS closes its batch (R446, R451). -/
def completeStep (s : State) (x : Run) : State :=
  if x.m.opcode == 0x64 then
    let s := bump s pgINP oINP_STEPS 1
    if x.m.p 0 2 == (batchRec s x.p x.m.aux).maxSteps then
      { s with inp := { s.inp with batches := s.inp.batches.filter fun b => !(b.req == x.r.id && b.va == x.m.aux) } }
    else s
  else s

/-! ### PLACE (R454). -/

/-- STEP k of the same record has completed. -/
def stepDone (s : State) (x : Run) : Bool :=
  (List.range x.r.nops).any fun i =>
    let m := mopOf s x.r i
    m.opcode == 0x64 && m.aux == x.m.aux && m.p 0 2 == x.m.p 0 2
      && (match mopSt? x.r i with | some st => st.stage == .done | none => false)

/-- An index with the sample dimension put in. -/
def withDim (rest : List Nat) (d v : Nat) : List Nat := rest.take d ++ [v] ++ rest.drop d

/-- The bytes that move sample `i` of A to sample `j` of OUT. -/
def moveSample (rd : Reader) (a o : Tns) (i j : Nat) : List (Nat × Byte) :=
  let da := sampleDim a.td
  let dd := sampleDim o.td
  let rest := indices (otherSizes a.td)
  if tyBlocked a.td.ty then
    let bd := if a.td.blockDim > da then a.td.blockDim - 1 else a.td.blockDim
    ((rest.filter fun ix => nth ix bd 0 % 32 == 0).map fun ix => copyBlock rd a o (withDim ix da i) (withDim ix dd j)).flatten
  else (rest.map fun ix => copyScalar rd a o (withDim ix da i) (withDim ix dd j)).flatten

/-- The work of PLACE: `from_` and `to_` give the sample indices of a map entry, by its number, POS and slot. -/
def placeWork (leave : Bool) (from_ to_ : Nat → Nat → Nat → Nat) (s : State) (x : Run) : Work :=
  let r := batchRec s x.p x.m.aux
  let a := x.tns s x.m.tdA
  let o := x.tns s x.m.tdOut
  if !stepDone s x then .fail ⟨stDescriptor, inMop, 0x70⟩
  else
    match (unmappedInput s x.p [(inA, a)]).or (unmappedRange s x.p [(inAux, if leave then r.leaveCount else r.joinCount, 4),
        (inAux, if leave then r.leaveMap else r.joinMap, 8 * if leave then r.nslot else r.jmax)]) with
    | some c => .fail c
    | none =>
      let n := Nat.min (vnat s x.p (if leave then r.leaveCount else r.joinCount) 4) (if leave then r.nslot else r.jmax)
      let map := if leave then r.leaveMap else r.joinMap
      let moves := (List.range n).map fun e =>
        let q := vnat s x.p (map + 8 * e) 4
        let sl := vnat s x.p (map + 8 * e + 4) 4
        (from_ e q sl, to_ e q sl)
      if moves.any fun (i, j) => i ≥ a.dim (sampleDim a.td) || j ≥ o.dim (sampleDim o.td) then .fail ⟨stDescriptor, inOut, 0x14⟩
      else .eff { bytes := (moves.map fun (i, j) => moveSample (rdr s x.p) a o i j).flatten }

/-- PLACE, SUBOP 0: staging to the join buffer. -/
def execPlaceJoinGather (m : MopRef) (s : State) : Host.Outcome State Fault Refusal :=
  work m 0x66 (subIs 0) (placeWork false (fun _ q _ => q) fun e _ _ => e) s

/-- PLACE, SUBOP 1: the join buffer to the running tensor. -/
def execPlaceJoinSlot (m : MopRef) (s : State) : Host.Outcome State Fault Refusal :=
  work m 0x66 (subIs 1) (placeWork false (fun e _ _ => e) fun _ _ sl => sl) s

/-- PLACE, SUBOP 2: the running tensor to the leave buffer. -/
def execPlaceLeave (m : MopRef) (s : State) : Host.Outcome State Fault Refusal :=
  work m 0x66 (subIs 2) (placeWork true (fun _ _ sl => sl) fun e _ _ => e) s

end Sys2Proof.Machine
end

