-- ==== Sys2Proof/Machine/Watch.lean ====
section
/-! DEFINITION. The precision watch: layers and passes as they begin and end, the canary's norms and verdicts, fallback, repaint and
persistence, the gradient check, and the watch log (R73-R113, R342, R545). -/

namespace Sys2Proof.Machine

/-! ### Re-execution (R100, R105). -/

/-- A macro-op that a re-execution runs again: every one of the layer or the pass (R100, R105). One that is empty does no work in any
execution (R157, R295), and stays completed. -/
def reruns (st : MopSt) : Bool := !st.empty

/-- A begun macro-op is to run again as execution `exec`: what its earlier execution has under way is dropped, and a grant that it holds
stays until its step 6 (R522). -/
def runAgain (s : State) (x : Run) (exec : Nat) : State :=
  let s := drainGroups s x
  let mine (r m : Nat) : Bool := r == x.r.id && m == x.i
  let s := { s with
    links := { s.links with
      colls := s.links.colls.filter fun c => !mine c.req c.mop, claims := s.links.claims.filter fun c => !mine c.req c.mop }
    video := { s.video with
      segs := s.video.segs.filter fun g => !mine g.req g.mop, encs := s.video.encs.filter fun e => !mine e.req e.mop }
    inp := { s.inp with jobs := s.inp.jobs.filter fun j => !mine j.req j.mop } }
  modMop s x.r.id x.i fun st => { st with
    stage := .again, exec := exec, begun := false, queued := false, memWait := none, verdict := none, gradDone := false, redo := true, tiles := false }

/-- Run again, of a list of macro-ops, those that have begun and are run again. -/
def runAllAgain (s : State) (r : Request) (is : List Nat) (exec : Nat) : State :=
  forEach is (fun s i =>
    match run? s ⟨r.id, i⟩ with
    | some x => if reruns x.st then runAgain s x exec else s
    | none => s) s

/-! ### Pass inputs (R104, R105). -/

/-- The places of the tensors of a save area: elements and scales. -/
def savePlaces : Nat → List Tns → List (Tns × Nat × Nat)
  | _, [] => []
  | va, t :: ts => (t, va, va + roundUp (denseElems t) 4096) :: savePlaces (va + saveParts t) ts

/-- The copy of the pass inputs to the save area of a pass record. -/
def saveBytesOf (s : State) (p ptr : Nat) : List (Nat × Byte) :=
  ((savePlaces (vnat s p (ptr + 0x30) 8) (passInputs s p ptr)).map fun (t, ea, sa) =>
    bytesAt ea (packElems (rdr s p) t) ++ if tyBlocked t.td.ty then bytesAt sa (packScales (rdr s p) t) else []).flatten

/-- The pass inputs as the save area holds them. -/
def restoreBytes (s : State) (p ptr : Nat) : List (Nat × Byte) :=
  ((savePlaces (vnat s p (ptr + 0x30) 8) (passInputs s p ptr)).map fun (t, ea, sa) => unpackTns (rdr s p) t ea sa).flatten

/-! ### Layers and passes begin (R104, R113, R342, R545). -/

/-- What beginning a layer or a pass comes to. -/
inductive WatchRes where
  | ok (s : State)
  | bad (c : Check)
  | full

/-- The pass of a macro-op begins, under the controls that its first layer latches: with ACTION 3 its inputs are saved (R104). -/
def startPass (s : State) (r : Request) (i : Nat) (ctrl : Latch) : WatchRes :=
  let p0 := passOf s r i
  match passW? r p0 with
  | some _ => .ok s
  | none =>
    let add (s : State) : State :=
      modReq s r.id fun r => { r with watch := { r.watch with passes := r.watch.passes ++ [{ start := p0 }] } }
    match passPtr s r.part (mopOf s r p0) with
    | none => .ok (add s)
    | some ptr =>
      if ctrl.action != 3 then .ok (add s)
      else if vnat s r.part (ptr + 0x30) 8 == 0 then .bad ⟨stDescriptor, inPass, 0x30⟩
      else
        match vwrite s (some r.id) r.part (saveBytesOf s r.part ptr) with
        | .ok s => .ok (add s)
        | .bad => .bad ⟨stDescriptor, inPass, 0x30⟩
        | .full => .full

/-- The layer of a macro-op begins: each region of the partition latches its controls, and those of the lead region rule the layer (R113). A
layer with haulage under a watch that may run it again needs SCOPE 1, whichever of its macro-ops begins first (R342). -/
def startLayer (s : State) (r : Request) (i : Nat) : WatchRes :=
  let l0 := layerOf s r i
  match layerW? r l0 with
  | some _ => .ok s
  | none =>
    let ctrl := match leadRgn s r.part with | some l => regLatch s l | none => {}
    let acts := ctrl.action ≥ 2 && (layerMops s r l0).any fun j => watched s r.part (mopOf s r j)
    let hauls := (layerMops s r l0).any fun j => isHaul (mopOf s r j).opcode
    if acts && (s.boot.service != 2 || (hauls && !ctrl.scope)) then .bad ⟨stDescriptor, inMop, 0x38⟩
    else
      let w : LayerW := { start := l0, ctrl := ctrl, ctrls := (partRgns s r.part).map fun g => (g, regLatch s g) }
      let s := modReq s r.id fun r => { r with watch := { r.watch with layers := r.watch.layers ++ [w] } }
      match req? s r.id with
      | some r => startPass s r i ctrl
      | none => .ok s

/-! ### Norms (R88). -/

/-- The indices of a tensor in the order of R88: tile by tile, dimension 4 slowest, and within a tile by dimension 1 and then 0. -/
def normTiles (sz : List Nat) : List (List (List Nat)) :=
  let n (d : Nat) : Nat := nth sz d 1
  ((indices (sz.drop 2)).map fun bt => ((List.range (ceilDiv (n 1) 128)).map fun mt => (List.range (ceilDiv (n 0) 128)).map fun nt =>
    ((tileRun (n 1) (128 * mt) 128).map fun m => (tileRun (n 0) (128 * nt) 128).map fun k => [k, m] ++ bt).flatten).flatten).flatten

/-- The norm of the elements that `keep` admits. -/
def normOf (sz : List Nat) (keep : List Nat → Bool) (val : List Nat → W32) : W32 :=
  let tile (ixs : List (List Nat)) : W32 := (ixs.filter keep).foldl (fun (a : W32) ix => fFma (val ix) (val ix) a) 0
  fSqrt ((normTiles sz).foldl (fun (a : W32) t => fAdd a (tile t)) 0)

/-- The macro-op writes the element of an index: attention opcodes write the queries of slots that are not vacant. -/
def writesIx (x : Run) (ix : List Nat) : Bool :=
  if x.m.lengths == 0 then true
  else
    match x.st.slots[nth ix 3 0]? with
    | some sl => !sl.vacant && nth ix 1 0 < sl.q1 - sl.q0
    | none => true

/-- The norm of sample `k` along dimension `dim` of the output of a macro-op, its elements taken as they were written: a zero block is
zeros, whatever ZB_READ would make of its scale (R44, R88); `none` takes the whole output. -/
def Run.norm (s : State) (x : Run) (dim : Nat) (k : Option Nat) : W32 :=
  let o := x.tns s x.m.tdOut
  normOf o.sz (fun ix => writesIx x ix && (match k with | some k => nth ix dim 0 == k | none => true))
    fun ix => in32 (valAt { x.fmt s with zbRead := false } (rdr s x.p) o ix).1

/-! ### Checks of a layer (R89-R93). -/

/-- A reference that stands for none (R90). -/
def noRef (ref : W32) : Bool := !posFinite ref.toNat

/-- A norm is finite. -/
def normFinite (n : W32) : Bool := (f32 n).finite

/-- Reason bits of a ratio against a band (R92, R93). -/
def bandBits (band : Nat) (ratio : W32) : Nat :=
  let hi := f32 (BitVec.ofNat 32 (bits band 63 32))
  let lo := f32 (BitVec.ofNat 32 (bits band 31 0))
  if hi.lt (f32 ratio) then 1 else if (f32 ratio).lt lo then 2 else 0

/-- A value's distance from 1 in binades, as the larger of it and its inverse: `a` lies further than `b` (R110).
Of two as far, neither does, so that the earlier stands (DESIGN CHOICE, log 103). -/
def further (a b : W32) : Bool :=
  let up (v : Num) : Bool := Num.one.le v
  let x := f32 a
  let y := f32 b
  match up x, up y with
  | true, true => y.lt x
  | false, false => x.lt y
  | true, false => Num.one.lt (x.mul y)
  | false, true => (x.mul y).lt Num.one

/-- A sample as the canary checks it. -/
structure Checked where
  sample : Nat
  norm : W32
  ratio : Option W32
  bits : Nat
  deriving DecidableEq, Repr

/-- SAMPLE_DIM of a layer-end macro-op, the address of entry `k` of its reference array, and SAMPLES. -/
def Run.sampleDim (s : State) (x : Run) : Nat := if x.m.lengths != 0 then 3 else vnat s x.p (x.m.layer + 3) 1
def Run.refVa (s : State) (x : Run) (k : Nat) : Nat := vnat s x.p (x.m.layer + 8) 8 + 8 * k
def Run.samples (s : State) (x : Run) : Nat := vnat s x.p (x.m.layer + 4) 4

/-- The samples of a layer-end macro-op that are checked (R88). -/
def Run.checkedSamples (s : State) (x : Run) : List Nat :=
  if x.m.tdOut == 0 || x.st.empty then []
  else if x.m.lengths != 0 then
    ((List.range x.st.slots.length).zip x.st.slots).filterMap fun (i, sl) => if sl.vacant then none else some i
  else List.range ((x.tns s x.m.tdOut).dim (x.sampleDim s))

/-- The ratio of a norm to its reference; a norm that is NaN forms none (R90; DEDUCED, log 95). -/
def ratioOf (norm ref : W32) : Option W32 := if noRef ref || f32 norm == .nan then none else some (fDiv norm ref)

/-- Check one sample against its reference and the layer's counts (R90, R92, R93). -/
def checkSample (s : State) (x : Run) (l : LayerW) (k : Nat) : Checked :=
  let norm := x.norm s (x.sampleDim s) (some k)
  let ref : W32 := BitVec.ofNat 32 (vnat s x.p (x.refVa s k) 4)
  let ratio := ratioOf norm ref
  let c := (l.cnts.find? (·.sample == k)).getD ⟨k, 0, 0, 0, 0⟩
  let bits := (if normFinite norm then 0 else 4) + (match ratio with | some q => bandBits l.ctrl.band q | none => 0)
    + (if c.sat * 65536 > l.ctrl.satLimit * c.groups then 8 else 0) + (if c.spills * 65536 > l.ctrl.spillLimit * c.elems then 16 else 0)
  ⟨k, norm, ratio, bits⟩

/-- The value that PEND takes (R90). -/
def pendOf (shift : Nat) (ref norm : W32) : W32 :=
  if noRef ref || shift == 0 then norm
  else
    let r := f32 ref
    toF32 (r.add (((f32 norm).add r.neg).mul (.num false 1 (-(shift : Int)))))

/-- Write the PEND of an entry. -/
def pendBytes (s : State) (p va shift : Nat) (norm : W32) : List (Nat × Byte) :=
  bytesAt (va + 4) (natLe 4 (pendOf shift (BitVec.ofNat 32 (vnat s p va 4)) norm).toNat)

/-- The OR of reason bits. -/
def orBits (l : List Nat) : Nat := l.foldl Nat.lor 0

/-! ### The end of a pass (R90, R105, R110). -/

/-- The watch-log entry of a pass (R110). -/
def logEntry (s : State) (p ptr : Nat) (w : PassW) (outcome : Nat) : Bytes :=
  natLe 2 (vnat s p ptr 2) ++ natLe 1 outcome ++ natLe 1 (Nat.min w.fallbacks 255) ++ natLe 2 w.firstTrip ++ natLe 2 w.lastTrip
    ++ natLe 4 w.reasons ++ natLe 4 (Nat.min w.satBlocks (2 ^ 32 - 1)) ++ natLe 8 (Nat.min w.spills (2 ^ 64 - 1))
    ++ natLe 4 ((w.worst.getD 0).toNat) ++ zeros 4

/-- What the end of a pass writes: its committed references, and its log entry. -/
def passEndBytes (s : State) (r : Request) (w : PassW) (outcome : Nat) (commit : Bool) : List (Nat × Byte) :=
  (if commit then (w.commits.map fun va => bytesAt va (vread s r.part (va + 4) 4)).flatten else [])
    ++ match passPtr s r.part (mopOf s r w.start) with
      | some ptr => bytesAt (vnat s r.part (ptr + 8) 8) (logEntry s r.part ptr w outcome)
      | none => []

/-- OUTCOME of a pass that ends by completing. -/
def PassW.outcome (w : PassW) : Nat := if w.repainted then 2 else if w.fallbacks > 0 then 1 else if w.recordOnly then 4 else 0

/-! ### Verdicts (R92-R95, R100, R103-R108). -/

/-- A layer end that the canary judges before it signals (R94, R108). -/
def needsVerdict (s : State) (x : Run) : Bool :=
  x.m.layerEnd && watched s x.p x.m && (match layerW? x.r (layerOf s x.r x.i) with | some l => l.ctrl.action != 0 | none => false)

/-- A macro-op whose gradient norm the canary forms: one flagged GRAD_NORM that names a layer record, which holds the reference (R97). -/
def needsGrad (s : State) (x : Run) : Bool :=
  x.m.gradNorm && x.m.layer != 0 && x.m.tdOut != 0 && !x.st.empty
    && (match layerW? x.r (layerOf s x.r x.i) with | some l => l.ctrl.action != 0 | none => false)

/-- The trip of a layer is recorded (R93, R110). -/
def recordTrip (s : State) (x : Run) (bits : Nat) : State :=
  let n := vnat s x.p x.m.layer 2
  let s := raiseLead (bumpLead s x.p oRGN_CANARY_TRIPS 1) x.p 16
  modPass s x.r.id (passOf s x.r x.i) fun w => { w with
    reasons := Nat.lor w.reasons bits, firstTrip := if w.firstTrip == 0xFFFF then n else w.firstTrip, lastTrip := n }

/-- The layer is accepted: PEND is set for each checked sample (R90, R103). -/
def acceptLayer (s0 s : State) (x : Run) (l : LayerW) (cs : List Checked) (record : Bool) : State :=
  match vwrite s (some x.r.id) x.p ((cs.map fun c => pendBytes s x.p (x.refVa s c.sample) l.ctrl.refShift c.norm).flatten) with
  | .full => markWait s0 x.r.id x.i
  | .bad => settle (refuse s x.r.id ⟨stDescriptor, inLayer, 8⟩ x.m.opcode x.i)
  | .ok s =>
    let s := modPass s x.r.id (passOf s x.r x.i) fun w => { w with
      commits := (w.commits ++ cs.map fun c => x.refVa s c.sample).eraseDups, recordOnly := w.recordOnly || record }
    modMop s x.r.id x.i fun st => { st with stage := .judged, verdict := none, memWait := none }

/-- The request ends with ST_CANARY_PERSIST once its pass's watch-log entry is written (R106, R107): while that page has no frame the
layer end waits in `s0`, and a page that is not writable ends the request as R267 says of any store. -/
def persist (s0 s : State) (x : Run) : State :=
  let bs := ((req? s x.r.id).bind fun r => (passW? r (passOf s r x.i)).map fun w => passEndBytes s r w 3 false).getD []
  match vwrite s (some x.r.id) x.p bs with
  | .full => markWait s0 x.r.id x.i
  | .bad => settle (refuse s x.r.id ⟨stDescriptor, inPass, 8⟩ x.m.opcode x.i)
  | .ok s => settle (failRequest (raiseLead s x.p 19) x.r.id stCanaryPersist 0xFFFFFFFF)

/-- The layer runs again in the wide form (R100). -/
def fallback (s : State) (x : Run) (l : LayerW) : State :=
  let s := raiseLead (bumpLead s x.p oRGN_FALLBACKS 1) x.p 17
  let s := earn (modPass s x.r.id (passOf s x.r x.i) fun w => { w with fallbacks := w.fallbacks + 1 }) x.r.id stDoneFallback
  let s := modLayer s x.r.id l.start fun l => { l with wide := true, cnts := [], staged := none }
  let s := modMop s x.r.id x.i fun st => { st with verdict := none, memWait := none }
  runAllAgain s x.r ((layerMops s x.r l.start).filter (· ≤ x.i)) 1

/-- The pass is abandoned and runs again in the wide form (R105). -/
def repaint (s0 s : State) (x : Run) : State :=
  let p0 := passOf s x.r x.i
  let bs := match passPtr s x.p (mopOf s x.r p0) with
    | some ptr => if vnat s x.p (ptr + 0x30) 8 == 0 then [] else restoreBytes s x.p ptr
    | none => []
  match vwrite s (some x.r.id) x.p bs with
  | .full => markWait s0 x.r.id x.i
  | .bad => settle (refuse s x.r.id ⟨stDescriptor, inPass, 0x10⟩ x.m.opcode x.i)
  | .ok s =>
    let s := raiseLead (bumpLead s x.p oRGN_REPAINTS 1) x.p 18
    let s := earn (modPass s x.r.id p0 fun w => { w with repainted := true, commits := [] }) x.r.id stDoneRepaint
    let s := modMop s x.r.id x.i fun st => { st with verdict := none, memWait := none }
    let ls := passMops s x.r p0
    let s := modReq s x.r.id fun r => { r with watch := { r.watch with
      layers := r.watch.layers.map fun l => if ls.contains l.start then { l with cnts := [], staged := none } else l } }
    runAllAgain s x.r ls 2

/-- Act on the verdict: the reason bits that every module's verdict comes to (R95, R105-R108). While a page of memory has no frame the
macro-op waits in `s0`. -/
def decideLayer (s0 s : State) (x : Run) (cs : List Checked) (bits : Nat) : State :=
  match layerW? x.r (layerOf s x.r x.i), passW? x.r (passOf s x.r x.i) with
  | some l, some w =>
    let s := bumpLead s x.p oRGN_LAYERS_CHECKED 1
    let worst := (cs.filterMap (·.ratio)).foldl (fun (b : Option W32) q =>
      match b with | some b => if further q b then some q else some b | none => some q) w.worst
    let s := modPass s x.r.id w.start fun w => { w with worst := worst }
    if bits == 0 then acceptLayer s0 s x l cs false
    else
      let s := recordTrip s x bits
      if l.ctrl.action == 1 then acceptLayer s0 s x l cs true
      else if w.repainted || (l.wide && l.ctrl.action == 2) then persist s0 s x
      else if l.wide then repaint s0 s x
      else
        let s := modPass s x.r.id w.start fun w => { w with narrowTrips := w.narrowTrips + 1 }
        if l.ctrl.action == 2 || w.narrowTrips + 1 ≤ l.ctrl.repaintLimit then fallback s x l else repaint s0 s x
  | _, _ => s0

/-- The samples of a layer end, checked. -/
def judgeLayer (s : State) (x : Run) : List Checked :=
  match layerW? x.r (layerOf s x.r x.i) with
  | some l => (x.checkedSamples s).map (checkSample s x l)
  | none => []

/-- Take the slice's verdict once every module's bit has come (R95). -/
def sliceVerdict (s : State) (x : Run) : State :=
  match x.st.verdict with
  | none => s
  | some own =>
    let others := otherRanks s x.p
    let get (r : Nat) : Option (Nat × Nat × Bool) := s.links.verdicts.find? fun v => v.1 == x.p && v.2.1 == r
    if others.any fun r => (get r).isNone then s
    else
      let hit := others.any fun r => (get r).any fun v => v.2.2
      let left := others.foldl (fun vs r => vs.eraseP fun (v : Nat × Nat × Bool) => v.1 == x.p && v.2.1 == r) s.links.verdicts
      decideLayer s { s with links := { s.links with verdicts := left } } x (judgeLayer s x)
        (if own == 0 && hit then 32 else own)

/-- The verdict of a layer end goes to the slice, or stands alone. -/
def giveVerdict (s : State) (x : Run) (l : LayerW) : State :=
  let cs := judgeLayer s x
  let bits := orBits (cs.map fun c => c.bits)
  if l.ctrl.scope && (otherRanks s x.p).length > 0 && (sliceBox s x.p).valid then
    let s := match x.st.verdict with
      | some _ => s
      | none => bellTree (modMop s x.r.id x.i fun st => { st with verdict := some bits }) x.p (myRank s x.p) none bellVERDICT (myRank s x.p)
          (if bits == 0 then 0 else 1) []
    match run? s ⟨x.r.id, x.i⟩ with
    | some x => sliceVerdict s x
    | none => s
  else decideLayer s s x cs bits

/-- CANARY_VERDICT: after the last write-back of a layer end, and once what has begun of its layer before it has done its work, the canary
gives its verdict (R94, R95). -/
def execCanaryVerdict (m : MopRef) (s : State) : Host.Outcome State Fault Refusal :=
  .next (match run? s m with
    | some x =>
      let before := (layerMops s x.r (layerOf s x.r x.i)).filter (· < x.i)
      let ready := before.all fun j => match mopSt? x.r j with
        | some st => st.stage == .worked || st.stage == .judged || st.stage == .done
        | none => true
      (match layerW? x.r (layerOf s x.r x.i) with
        | some l =>
          if serving s && x.st.stage == .worked && x.st.memWait.isNone && needsVerdict s x && ready && !(runRgns s x.p).isEmpty then giveVerdict s x l
          else s
        | none => s)
    | none => s)

/-- BELL_VERDICT: a module's bit arrives and goes on through the slice (R95). -/
def execBellVerdict (port tag rank : Nat) (bit : Bool) (s : State) : Host.Outcome State Fault Refusal :=
  .next (onBell s port tag fun s =>
    if !(otherRanks s tag).contains rank then s
    else
      let s := bellTree s tag rank (some port) bellVERDICT rank (if bit then 1 else 0) []
      let s := { s with links := { s.links with verdicts := s.links.verdicts ++ [(tag, rank, bit)] } }
      let waits := ((reqsOf s tag .admitted).map fun r => (r.mops.filter fun st => st.verdict.isSome && st.stage == .worked && st.memWait.isNone).map fun st =>
        ((r.id, st.idx) : Nat × Nat)).flatten
      match waits.head? with
      | some (id, i) => (match run? s ⟨id, i⟩ with | some x => sliceVerdict s x | none => s)
      | none => s)

/-! ### Haul aborts of the slice (R107, R339). -/

/-- The watch-log entries of the passes that a request has begun, which ends with ST_CANARY_PERSIST (R107, R110): a page that cannot be written
is left as it is. -/
def logPersist (s : State) (r : Request) : State :=
  match vwrite s (some r.id) r.part ((r.watch.passes.map fun w => passEndBytes s r w 3 false).flatten) with
  | .ok s => s
  | _ => s

/-- End a request as a haul abort says: the slice knows of it. -/
def abortRequest (s : State) (r : Request) (status : Nat) : State :=
  let s := if status == stCanaryPersist then raiseLead (logPersist s r) r.part 19 else s
  modReq (failRequest s r.id status 0xFFFFFFFF) r.id fun r => { r with told := true }

/-- BELL_ABORT: admitted requests that list one of the HAUL_IDs end with the abort's status (R339). A status that R7 does not list among the
failures comes from no module, and the message is dropped (DESIGN CHOICE, log 118). -/
def execBellAbort (port tag rank status : Nat) (hauls : List Nat) (s : State) : Host.Outcome State Fault Refusal :=
  .next (onBell s port tag fun s =>
    if !failCodes.contains status || hauls.all fun h => s.links.aborted.contains (tag, rank, h) then s
    else
      let s := bellFlood (noteAborts s tag rank hauls) tag (some port) bellABORT rank status (hauls.map (BitVec.ofNat 32))
      let hit := (reqsOf s tag .admitted).filter fun r => (reqHauls s r).any hauls.contains
      if hit.isEmpty then s
      else settle (raise (forEach hit (fun s r => abortRequest s r status) s) pgRTR 0x11))

/-! ### Gradients (R97, R98). -/

/-- CANARY_GRAD: the norm of a gradient is formed and checked. -/
def execCanaryGrad (m : MopRef) (s : State) : Host.Outcome State Fault Refusal :=
  .next (match run? s m with
    | some x =>
      (match layerW? x.r (layerOf s x.r x.i) with
        | some l =>
          if !(serving s && (x.st.stage == .worked || x.st.stage == .judged) && needsGrad s x && !x.st.gradDone
              && x.st.memWait.isNone && !(runRgns s x.p).isEmpty) then s
          else
            let norm := x.norm s 0 none
            let va := x.refVa s (x.samples s)
            let ref : W32 := BitVec.ofNat 32 (vnat s x.p va 4)
            let trip := !normFinite norm || (ratioOf norm ref).any fun q => bandBits l.ctrl.grad q != 0
            let keep := !trip || !l.ctrl.gradAction
            match vwrite s (some x.r.id) x.p (if keep then pendBytes s x.p va l.ctrl.refShift norm else []) with
            | .full => markWait s x.r.id x.i
            | .bad => settle (refuse s x.r.id ⟨stDescriptor, inLayer, 8⟩ x.m.opcode x.i)
            | .ok s =>
              let s := if trip then raiseLead (bumpLead s x.p oRGN_GRAD_TRIPS 1) x.p 20 else s
              let s := modPass s x.r.id (passOf s x.r x.i) fun w => { w with
                reasons := if trip then Nat.lor w.reasons 64 else w.reasons
                gradAt := if keep then w.gradAt else some (Nat.min x.i (w.gradAt.getD x.i))
                commits := if keep then (w.commits ++ [va]).eraseDups else w.commits.filter (· != va) }
              modMop s x.r.id x.i fun st => { st with gradDone := true }
        | none => s)
    | none => s)

end Sys2Proof.Machine
end

