-- ==== Sys2Proof/Machine/Life.lean ====
section
/-! DEFINITION. The life of a macro-op: its waits, its run-time sizes and lengths, leave, the start of its walk, and its completion
(R116-R123, R135-R137, R155-R159, R273, R294, R320, R519-R522). -/

namespace Sys2Proof.Machine

/-! ### Step 1: order, tallies, AFTER (R116-R120, R331). -/

/-- A WAIT entry is met. -/
def entryMet (s : State) (e : Nat) : Bool := match tallyEntry e with | some (t, v) => reached (tally s t) v | none => true

/-- Every earlier macro-op of the same queue has started (R116). -/
def inTurn (s : State) (r : Request) (i : Nat) (m : Mop) : Bool :=
  (List.range i).all fun j => queueOf (mopOf s r j).opcode != queueOf m.opcode || (mopSt? r j).isSome

/-- Every earlier macro-op has completed and signalled (R118). -/
def earlierDone (r : Request) (i : Nat) : Bool := (List.range i).all fun j => (mopSt? r j).any fun st => st.stage == .done

/-- An earlier macro-op of the same queue is being run again, and has not started again (R100, R116). -/
def earlierRedone (s : State) (r : Request) (i : Nat) (m : Mop) : Bool :=
  r.mops.any fun st => st.idx < i && st.stage == .again && queueOf (mopOf s r st.idx).opcode == queueOf m.opcode

/-- Step 1 of a macro-op is over. -/
def waitsMet (s : State) (r : Request) (i : Nat) (m : Mop) : Bool :=
  inTurn s r i m && entryMet s m.wait0 && entryMet s m.wait1 && (!m.after || earlierDone r i) && !earlierRedone s r i m
    && (m.opcode != 0x38 || tubAreaFree s r i m)

/-! ### Step 2: sizes, lengths, contexts (R155-R157, R273, R294-R296, R314, R320, R416). -/

/-- What step 2 finds wrong. -/
inductive StepTwo where
  | slot (f : LenFail)
  | check (c : Check)

/-- The run-time sizes of a macro-op obey its plan (R155, R156). A size that no bucket takes is recorded at its SIZE_PTR in the plan (DESIGN
CHOICE, log 105). -/
def sizesFail (s : State) (p : Nat) (plan : Bytes) (sizes : List Nat) : Option Check :=
  let js := List.range sizes.length
  firstBad (js.map (fun j => need (rangeMapped s p (fld plan (8 + 40 * j) 8) 4) (badDesc inPlan (8 + 40 * j)))
    ++ js.map fun j => need ((chooseBucket plan j (nth sizes j 0)).isSome) (some ⟨stShapeOver, inPlan, 8 + 40 * j⟩))

/-- KMAX of a gradient opcode is at least every LENGTH (R314): the table of lengths is first read at step 2, so it is checked here (DESIGN
CHOICE, log 108). -/
def kmaxFail (s : State) (p : Nat) (m : Mop) (slots : List SlotLen) : Option Check :=
  if m.opcode == 0x32 || m.opcode == 0x3A then
    need (slots.all fun k => k.vacant || k.k1 - k.k0 ≤ (tensor s p (attnRec s p m.aux).dk [] []).dim 1) (badDesc inAux 0x40)
  else none

/-- The first failure of step 2. -/
def stepTwoFail (s : State) (p : Nat) (m : Mop) (sizes : List Nat) : Option StepTwo :=
  match sizesFail s p (planOf s p m) sizes with
  | some c => some (.check c)
  | none =>
    if m.lengths == 0 then (vdecFail s p m).map .check
    else if !rangeMapped s p m.lengths (16 * slotCount s p m) then some (.check ⟨stDescriptor, inLengths, 0⟩)
    else
      match lenTableFail s p m with
      | some f => some (.slot f)
      | none =>
        if !haulSlotOk s p m then some (.check ⟨stDescriptor, inLengths, 0⟩)
        else (kmaxFail s p m (takeSlots s p m)).map .check
where
  /-- the contexts of a VDEC's segments (R416) -/
  vdecFail (s : State) (p : Nat) (m : Mop) : Option Check := if m.opcode == 0x51 then vdecCtxFail s p m else none

/-- The statistics area of a macro-op fits what is left of its request's allowance (R273). -/
def statsFit (s : State) (r : Request) (i : Nat) (m : Mop) : Bool :=
  let mine := statsArea s r.part m
  let most := maxNat ((List.range r.nops).map fun j => statsArea s r.part (mopOf s r j))
  let held := sumNat ((r.mops.filter fun st => st.idx != i && !st.empty && (st.stage == .granted || st.stage == .leave)).map fun st =>
    statsArea s r.part (mopOf s r st.idx))
  mine == 0 || held + mine ≤ 2 * most

/-! ### Steps 3 and 4 (R135, R136, R141, R200, R331, R519). -/

/-- The pages of a tensor are resident in HBM. -/
def residentTns (s : State) (p : Nat) (t : Tns) : Bool :=
  (pageSteps t.td.base (extentBytes t) ++ pageSteps t.td.scale (scaleBytes t)).all fun a => !(translate s p a).any (·.flash)

/-- The second coats that the wide form of a layer needs and that are not resident in HBM are read from flash into the staging area, ahead of
the layer's matrix products (R102). -/
def stageCoats (s : State) (x : Run) : State :=
  let l0 := layerOf s x.r x.i
  if x.st.exec == 0 || !(layerW? x.r l0).any (·.staged.isNone) then s
  else
    let away (i : Nat) : Bool :=
      let m := mopOf s x.r i
      m.coat != 0 && (coat2Tns (tensor s x.p m.tdB [] (largestBuckets (planOf s x.p m))) (coatAt (rdr s x.p) m.coat)).any fun t =>
        !residentTns s x.p t
    let is := (layerMops s x.r l0).filter away
    let s := modLayer s x.r.id l0 fun l => { l with staged := some is }
    if is.isEmpty then s else bumpOpen ((List.range 4).map fun n => (pgFLS + n, oFLS_RD_BYTES)) s

/-- A macro-op passes to step 4: a haul begins, tiles are enumerated, controls are latched, the hold of STEP 0 begins. -/
def enterStep4 (s : State) (x : Run) : State :=
  let unit := queueOf x.m.opcode == 0
  let tiles := unit && !tileless x.m.opcode
  if x.st.begun then modMop s x.r.id x.i fun st => { st with stage := .granted }
  else
    match (if x.m.opcode == 0x38 then beginHaul s x else some s) with
    | none => settle (refuse s x.r.id ⟨stDescriptor, inAux, 0x50⟩ x.m.opcode x.i)
    | some s =>
      let s := if tiles && !walking s x.p then latchRgns s x.p else s
      let s := stageCoats s x
      let s := modMop s x.r.id x.i fun st => { st with stage := .granted, begun := true }
      let s := if unit then swapAt s x.p x.r.id x.i else s
      let s := if tiles then enterGroups s x (leaveRgns s x.r.id x.i x.p) else s
      let s := beginHold s x
      traceRec s 2 x.p ((leadRgn s x.p).elim 0 rgnPage) x.r.tag x.i x.m.opcode 0 0 0

/-- A macro-op holds a grant, whole or in part (R521, R522). -/
def holdsGrant (s : State) (req i : Nat) : Bool :=
  s.power.leaves.any fun l => l.req == req && l.mop == i && l.holds

/-- A macro-op that has passed step 2: a class of 1 to 15 asks for leave, unless it holds a grant from an execution before; class 0 goes to
step 4. -/
def afterStepTwo (s : State) (req i : Nat) : State :=
  match run? s ⟨req, i⟩ with
  | none => s
  | some x => if x.m.cls == 0 || holdsGrant s req i then enterStep4 s x else modMop s req i fun st => { st with stage := .leave }

/-- The form that a macro-op runs in when it begins (R100, R105). -/
def execNow (s : State) (r : Request) (i : Nat) : Nat :=
  if (passW? r (passOf s r i)).any (·.repainted) then 2 else if (layerW? r (layerOf s r i)).any (·.wide) then 1 else 0

/-- A macro-op flagged UPDATE comes after one of its pass whose gradient has tripped under GRAD_ACTION 1 (R98). -/
def updateSkipped (s : State) (r : Request) (i : Nat) (m : Mop) : Bool :=
  m.update && ((req? s r.id).bind fun r => passW? r (passOf s r i)).any fun w => w.gradAt.any (· < i)

/-- A macro-op completes without work: it stands at step 5, or before its layer's verdict (R98, R157). -/
def passEmpty (s : State) (req i : Nat) : State :=
  match run? s ⟨req, i⟩ with
  | some x => modMop s req i fun st => { st with stage := if needsVerdict s x then .worked else .judged, empty := true }
  | none => s

/-- A macro-op passes step 1 for the first time: step 2. A row operation waits for its statistics area even where a size of 0 leaves it without
work, since its sizes are read after the wait (DESIGN CHOICE, log 106). -/
def beginMop (s : State) (r : Request) (i : Nat) : State :=
  let m := mopOf s r i
  let sizes := runtimeSizes s r.part (planOf s r.part m)
  if !waitsMet s r i m || !statsFit s r i m then s
  else
    match stepTwoFail s r.part m sizes with
    | some (.slot f) => settle (refuseSlot s r.id i m.opcode f)
    | some (.check c) => settle (refuse s r.id c m.opcode i)
    | none =>
      match startLayer s r i with
      | .full => s
      | .bad c => settle (refuse s r.id c m.opcode i)
      | .ok s =>
        let slots := if m.lengths == 0 then [] else takeSlots s r.part m
        let skip := updateSkipped s r i m
        let empty := sizes.contains 0 || (m.lengths != 0 && slots.all (·.vacant)) || skip
        let exec := match req? s r.id with | some r => execNow s r i | none => 0
        let st : MopSt := { idx := i, stage := .leave, sizes := sizes, slots := slots, exec := exec, empty := empty }
        let s := modReq s r.id fun r => { r with mops := r.mops ++ [st] }
        let s := if 0x30 ≤ m.opcode && m.opcode ≤ 0x32 then bumpLead s r.part oRGN_ATTN_VACANT (slots.filter (·.vacant)).length else s
        if empty then passEmpty s r.id i else afterStepTwo s r.id i

/-- A macro-op that is run again waits for those before it in its layer or pass that are run again (R100, R105). -/
def againTurn (s : State) (r : Request) (st : MopSt) : Bool :=
  let start := if st.exec == 2 then passOf s r st.idx else layerOf s r st.idx
  r.mops.all fun o => o.idx ≥ st.idx || o.idx < start || o.stage == .done || !reruns o

/-- MOP_WAIT_MET: a macro-op finds its tallies and AFTER met and passes step 2; one that is run again starts again in list order. -/
def execMopWaitMet (m : MopRef) (s : State) : Host.Outcome State Fault Refusal :=
  .next (match req? s m.req with
    | some r =>
      if !serving s || r.st != .admitted || m.idx ≥ r.nops || (partRgns s r.part).isEmpty then s
      else
        (match mopSt? r m.idx with
          | none => beginMop s r m.idx
          | some st =>
            let d := mopOf s r m.idx
            if st.stage == .again && againTurn s r st && statsFit s r m.idx d && (d.opcode != 0x38 || tubAreaFree s r m.idx d) then
              if updateSkipped s r m.idx d then passEmpty s r.id m.idx else afterStepTwo s r.id m.idx
            else s)
    | none => s)

/-- LEAVE_REQUEST: a macro-op of class 1 to 15 asks the deputy for leave (R136, R519). -/
def execLeaveRequest (m : MopRef) (s : State) : Host.Outcome State Fault Refusal :=
  .next (match run? s m with
    | some x =>
      if serving s && x.st.stage == .leave && !s.power.leaves.any fun l => l.req == m.req && l.mop == m.idx then askLeave s x.r m.idx else s
    | none => s)

/-- LEAVE_GRANT: the request of highest rank is granted, whole or in part, when it fits (R520, R521). -/
def execLeaveGrant (s : State) : Host.Outcome State Fault Refusal :=
  .next (match (waitingLeaves s).head? with
    | some l =>
      (match (if serving s then grantable s l else none) with
        | some rs =>
          let s := grantLeave s l rs
          (match run? s ⟨l.req, l.mop⟩ with
            | some x => if x.st.stage == .leave then enterStep4 s x else s
            | none => s)
        | none => s)
    | none => s)

/-! ### Steps 5 and 6 (R121, R135, R313, R331, R446, R466). -/

/-- A macro-op's work and verdicts are over. -/
def mayCompleteMop (s : State) (x : Run) : Bool :=
  (x.st.stage == .judged || (x.st.stage == .worked && !needsVerdict s x)) && (!needsGrad s x || x.st.gradDone) && x.st.memWait.isNone

/-- A haul is over once both of its macro-ops have completed (R331). -/
def endHaulOf (s : State) (x : Run) : State :=
  if !isHaul x.m.opcode then s
  else
    let id := haulIdOf s x.p x.m
    let others := (List.range x.r.nops).filter fun j => j != x.i && isHaul (mopOf s x.r j).opcode && haulIdOf s x.p (mopOf s x.r j) == id
    if (others.all fun j => (mopSt? x.r j).any fun st => st.stage == .done) && (haul? s x.p id).isSome then endHaul s x.p id else s

/-- Every macro-op of a list has completed. -/
def allDone (r : Request) (is : List Nat) : Bool := is.all fun j => (mopSt? r j).any fun st => st.stage == .done

/-- A pass whose macro-ops have all completed ends: references are committed and its log entry is written (R90, R110). `none` while a page
has no frame; the flag says that a page is not writable. -/
def endPass (s : State) (id i : Nat) : Option (State × Bool) :=
  match req? s id with
  | none => some (s, false)
  | some r =>
    let p0 := passOf s r i
    match passW? r p0 with
    | none => some (s, false)
    | some w =>
      if !allDone r (passMops s r p0) then some (s, false)
      else
        match vwrite s (some id) r.part (passEndBytes s r w w.outcome true) with
        | .full => none
        | .bad => some (s, true)
        | .ok s => some (modReq s id fun r => { r with watch := { r.watch with passes := r.watch.passes.filter (·.start != p0) } }, false)

/-- A request whose macro-ops have all completed and signalled ends with the code it has earned (R109, R466). -/
def endIfDone (s : State) (id : Nat) : State :=
  match req? s id with
  | some r => if allDone r (List.range r.nops) then settle (announceHeld (endRequest s id r.status 0xFFFFFFFF)) else s
  | none => s

/-- Step 6 of a macro-op: it signals, its grant is released, and its pass and its request may end. -/
def completeMop (s0 : State) (x : Run) : State :=
  let s := if x.m.opcode == 0x31 && !x.st.empty then raiseFilled s0 x else s0
  let s := if x.st.signalled then s else completeStep s x
  let s := endHaulOf (dropKept s x.r.id x.i) x
  let s := if x.st.signalled then s else signalEntry (signalEntry s x.m.signal0) x.m.signal1
  let s := modMop s x.r.id x.i fun st => { st with stage := .done, signalled := true }
  let s := releaseLeave s x.r.id x.i
  let code := if x.st.empty then stDoneEmpty else stDone
  let s := if x.st.signalled then s
    else if x.st.empty then earn (bumpLead (bumpLead s x.p oRGN_MACROOPS 1) x.p oRGN_EMPTY_OPS 1) x.r.id stDoneEmpty
    else bumpLead (if x.m.opcode == 0x18 then bumpLead s x.p oRGN_CHAINS 1 else s) x.p oRGN_MACROOPS 1
  let s := traceRec s 3 x.p ((leadRgn s x.p).elim 0 rgnPage) x.r.tag x.i x.m.opcode code 0 0
  match endPass s x.r.id x.i with
  | none => markWait s0 x.r.id x.i
  | some (s, true) => settle (refuse s x.r.id ⟨stDescriptor, inPass, 8⟩ x.m.opcode x.i)
  | some (s, false) => endIfDone s x.r.id

/-- MOP_COMPLETE: a macro-op's writes are visible; it signals SIGNAL0 and then SIGNAL1 and releases its grant. -/
def execMopComplete (m : MopRef) (s : State) : Host.Outcome State Fault Refusal :=
  .next (match run? s m with
    | some x => if serving s && mayCompleteMop s x then completeMop s x else s
    | none => s)

end Sys2Proof.Machine
end

