-- ==== Sys2Proof/Machine/Admit.lean ====
section
/-! DEFINITION. Admission of requests, and the scheduler's own commands: pre-emption, restoring a region, the end of a slice's job
(R111, R122, R129, R204, R267, R272, R291, R351, R357, R446, R464-R466, R475-R479, R509, R545). -/

namespace Sys2Proof.Machine

/-! ### Step 1: the list and what it names (R122). -/

/-- The request's macro-ops. -/
def listOf (s : State) (r : Request) : List Mop := (List.range r.nops).map (mopOf s r)

/-- What a list is checked against: its OPEN and RESIZE macro-ops declare the extents of contexts, its VCTX OPENs the limits of stream
contexts (R267, R291, R412). -/
def envOf (s : State) (p : Nat) (ms : List Mop) : Env :=
  { s := s, p := p
    ctxs := ms.filterMap fun m =>
      if m.opcode == 0x34 && m.subop < 2 then some ((ctxParam m).ctx, ((ctxParam m).open p).extent) else none
    vctxs := ms.filterMap fun m =>
      if m.opcode == 0x50 && m.subop == 0 then
        let c := vctxRec s p m.aux
        some (c.index, c.maxW, c.maxH, c.tenBit)
      else none }

/-- The haul of a HAUL_SEND is a gradient's: its consumer in the list is HAUL_GRAD (R333). -/
def isGradHaul (e : Env) (ms : List Mop) (m : Mop) : Bool :=
  ms.any fun k => k.opcode == 0x3A && haulIdOf e.s e.p k == haulIdOf e.s e.p m

/-- The rules of each opcode (R130, R206, R278, R301, R328, R364, R379, R400, R436, R470); every other opcode is reserved. -/
def Env.opcode (e : Env) (ms : List Mop) (i : Nat) (m : Mop) : Option Check :=
  match m.opcode with
  | 0x00 | 0x01 => e.matmul m
  | 0x10 | 0x11 | 0x12 | 0x13 | 0x14 | 0x15 | 0x16 => e.elementwise m
  | 0x17 => e.reduce m
  | 0x18 => e.chain m
  | 0x20 => e.sfn m
  | 0x21 | 0x22 | 0x23 | 0x24 | 0x25 | 0x26 | 0x27 => e.rowOp m
  | 0x30 => e.attn m
  | 0x31 => e.kvAppend m
  | 0x32 => e.attnGrad m
  | 0x34 => e.ctxOp m
  | 0x38 => e.haulSend m (isGradHaul e ms m)
  | 0x39 => e.haulAttn m
  | 0x3A => e.haulGrad m
  | 0x40 => e.conv m
  | 0x41 => e.pool m
  | 0x48 => e.boxDecode m
  | 0x49 => e.nms m
  | 0x50 => e.vctxOp m
  | 0x51 => e.vdec m
  | 0x58 => e.venc m
  | 0x60 => e.prep ms m
  | 0x64 => e.step ms i m
  | 0x66 => e.place ms m
  | 0x70 | 0x71 | 0x74 | 0x75 | 0x76 => e.collective m
  | 0x80 => e.copy m
  | 0x81 | 0x82 | 0x83 => e.tier m
  | 0x84 => e.image m true
  | 0x85 => e.image m false
  | 0xF0 | 0xF1 | 0xF2 => e.control m
  | 0xF4 | 0xF5 => e.ckpt m
  | 0xF8 => e.shootdown m
  | _ => badDesc inMop 0

/-- What early service refuses of a macro-op: matrix operands of other than the early types, NARROW_A, coats, outlier lists (R545). -/
def Env.early (e : Env) (m : Mop) : Option Check :=
  let ok (t : Nat) : Bool := t == tyE4M3 || t == tyE5M2 || t == tyBF16
  let product := m.opcode == 0x00 || m.opcode == 0x01 || m.opcode == 0x40
  if e.s.boot.service == 2 then none
  else
    firstBad [
      need (!m.narrowA) (badDesc inMop 1), need (m.coat == 0) (badDesc inMop 0x40), need (actList e.s e.p m == 0) (badDesc inLayer 0x10),
      if product || m.opcode == 0x30 || m.opcode == 0x32 then e.tyIn m m.tdA inA ok else none,
      if product then e.tyIn m m.tdB inB ok else none]

/-- One macro-op at admission. -/
def Env.macroOp (e : Env) (ms : List Mop) (i : Nat) (m : Mop) : Option Check :=
  firstBad [e.opcode ms i m, e.layerRec m, e.tallies m, e.early m]

/-- A request that a check ends: the check, and the macro-op's index and opcode; an index of 0xFFFFFFFF names none. -/
structure Reject where
  check : Check
  idx : Nat
  opcode : Nat
  deriving DecidableEq, Repr

/-- A rejection for macro-op `i` of a list. -/
def rejectAt (ms : List Mop) (i : Nat) (c : Check) : Reject := ⟨c, i, match ms[i]? with | some m => m.opcode | none => 0⟩

/-- A rejection for no macro-op: OPCODE, STRUCT and BYTE are recorded as 0 (DESIGN CHOICE, logs 19 and 107). -/
def rejectAll (status : Nat) : Reject := ⟨⟨status, inMop, 0⟩, 0xFFFFFFFF, 0⟩

/-- The first macro-op of a list that a check finds fault with. -/
def firstReject (ms : List Mop) (f : Nat → Mop → Option Check) : Option Reject :=
  ((List.range ms.length).zip ms).findSome? fun (i, m) => (f i m).map (rejectAt ms i)

/-- A watched layer in early service while a region's ACTION is 2 or 3 (R545). -/
def earlyWatch (e : Env) (ms : List Mop) : Option Reject :=
  if e.s.boot.service == 2 || !(partRgns e.s e.p).any (fun r => (regLatch e.s r).action ≥ 2) then none
  else firstReject ms fun _ m => need (!watched e.s e.p m) (badDesc inMop 0x38)

/-- The return ranges of a request at their full length (R129, R267, R509). -/
def returnsOk (e : Env) (r : Request) : Bool := r.rets.all fun t => (e.extent false t.addr t.len inMop 0).isNone

/-- Step 1 of admission (R465). -/
def stepOneFail (s : State) (r : Request) : Option Reject :=
  let ms := listOf s r
  let e := envOf s r.part ms
  if !rangeMapped s r.part r.list (128 * r.nops) then some (rejectAll stDescriptor)
  else
    (firstReject ms (e.macroOp ms))
      |>.or ((e.haulList ms).map fun (i, c) => rejectAt ms i c)
      |>.or (earlyWatch e ms)
      |>.or (if returnsOk e r then none else some (rejectAll stDescriptor))

/-! ### Step 2: slice, reservation, batches (R111, R272, R291, R357, R446). -/

/-- Opcodes that R328 or R364 lists. -/
def needsSlice (m : Mop) : Bool := isHaul m.opcode || (0x70 ≤ m.opcode && m.opcode ≤ 0x7F)

/-- ACTION of the lead region, or of the region that stands for it while the partition holds none. -/
def admitAction (s : State) (p : Nat) : Nat := match recordRgn s p with | some l => (regLatch s l).action | none => 3

/-- Every page of a range lies in HBM and is pinned. -/
def hbmPinned (s : State) (p va n : Nat) : Bool :=
  (pageSteps va n).all fun a => match translate s p a with | some t => !t.flash && t.pin | none => false

/-- Bytes of a macro-op's second coat, if it is not pinned in HBM (R111). -/
def coatBytes (e : Env) (m : Mop) : Nat :=
  if m.coat == 0 then 0
  else
    match coat2Tns (e.tns m m.tdB) (coatAt (vget e.s e.p) m.coat) with
    | none => 0
    | some t =>
      if hbmPinned e.s e.p t.td.base (extentBytes t) && hbmPinned e.s e.p t.td.scale (scaleBytes t) then 0
      else extentBytes t + scaleBytes t

/-- R_H: the second-coat allowance, the save area and the statistics allowance (R111, R272). -/
def reserveH (e : Env) (ms : List Mop) : Nat :=
  let action := admitAction e.s e.p
  let coats := if action ≥ 2 then 2 * maxNat ((ms.filter (watched e.s e.p)).map (coatBytes e)) else 0
  let save := if action == 3 then maxNat (ms.map fun m => match passPtr e.s e.p m with | some a => saveArea e.s e.p a | none => 0) else 0
  coats + save + 2 * maxNat (ms.map (statsArea e.s e.p))

/-- R_P: for each context that the list opens or resizes, its largest extent less the pages mapped within it (R272, R291). -/
def reserveP (e : Env) : Nat :=
  sumNat ((e.ctxs.map (·.1)).eraseDups.map fun i =>
    let top := maxNat ((e.ctxs.filter (·.1 == i)).map (·.2))
    top - sumNat ((e.s.pool.ptes.filter fun t => t.space == .ctx i && t.va < top).map Pte.size))

/-- The HBM test of R272. -/
def hbmFits (s : State) (p rH : Nat) : Bool := hbmUse s p + rH ≤ quotaH s p

/-- The total test of R272. -/
def totalFits (s : State) (p rH rP : Nat) : Bool := hbmUse s p + flashUse s p + reservedP s p + rH + rP ≤ quotaH s p + quotaF s p

/-- What step 2 of admission checks beside the HBM test of R272 (R465). In early service no slice serves (R545). -/
def stepTwoRest (s : State) (r : Request) : Option Reject :=
  let ms := listOf s r
  let e := envOf s r.part ms
  (firstReject ms fun _ m => need (!needsSlice m || ((sliceBox s r.part).valid && s.boot.service == 2)) (badPart inMop 0))
    |>.or (if totalFits s r.part (reserveH e ms) (reserveP e) && batchRoom s r.part ms then none else some (rejectAll stNoReservation))

/-- R_H of a request (R272). -/
def reqH (s : State) (r : Request) : Nat := reserveH (envOf s r.part (listOf s r)) (listOf s r)

/-- Step 2 of admission (R465). -/
def stepTwoReject (s : State) (r : Request) : Option Reject :=
  (stepTwoRest s r).or (if hbmFits s r.part (reqH s r) then none else some (rejectAll stNoReservation))

/-- Some stack is still training. -/
def stackTraining (s : State) : Bool := (List.range 12).any fun d => !inPool s d && !fenced s d

/-- An R_H has room in the stacks that are trained by now beside what every partition uses. -/
def trainedRoom (s : State) (rH : Nat) : Bool :=
  rH == 0 || sumNat ((List.range 16).map (hbmUse s)) + rH ≤ 62 * 2 ^ 30 * ((List.range 12).filter (inPool s)).length

/-- While a stack is training, a request that fails only the HBM test stays at step 2 (R547), and so does one whose R_H the stacks trained by now
have no room for, as the chapter's example has it (DEDUCED, log 120). -/
def awaitsTraining (s : State) (r : Request) : Bool :=
  stackTraining s && ((stepOneFail s r).or (stepTwoRest s r)).isNone && !(hbmFits s r.part (reqH s r) && trainedRoom s (reqH s r))

/-! ### Step 3 (R461, R465). -/

/-- The request is admitted. -/
def admitReq (s : State) (r : Request) : State :=
  let ms := listOf s r
  let e := envOf s r.part ms
  let prio := fldGet s pgSCH (oSCH_SESS + 8 * partSess s r.part) 2 0
  let s := modReq s r.id fun q => { q with st := .admitted, prio := prio, rH := reserveH e ms, rP := reserveP e }
  let s := newJob s r.part (reqHauls s r)
  let s := forEach (ms.filter (·.opcode == 0x38)) (fun s m => noteHaul s r.part m (isGradHaul e ms m)) s
  settle (takeEffect (bump (openBatches s r ms) pgSCH oSCH_ADMITS 1))

/-- The request at the head of a partition's queue, while fewer than 8 are admitted (R465). -/
def nextRequest (s : State) (p : Nat) : Option Request :=
  if (reqsOf s p .admitted).length < 8 then (reqsOf s p .queued).head? else none

/-- ADMISSION: the head of the partition's queue is admitted, or ends with the status of the first failed check (R466), or waits for the training
of the stacks (R547). -/
def execAdmission (part : Nat) (s : State) : Host.Outcome State Fault Refusal :=
  .next (match (if serving s && partValid s part then nextRequest s part else none) with
    | some r =>
      if awaitsTraining s r then s
      else
        (match (stepOneFail s r).or (stepTwoReject s r) with
          | some j => settle (refuse s r.id j.check j.opcode j.idx)
          | none => admitReq s r)
    | none => s)

/-! ### The scheduler's other commands. -/

/-- PREEMPTION: the regions taken for a partition are halted, saved, cleared and passed (R475). -/
def execPreemption (part : Nat) (s : State) : Host.Outcome State Fault Refusal := .next (if serving s then preempt s part else s)

/-- REGION_RESTORE: a region's most recent saved state comes back (R477). -/
def execRegionRestore (region : Nat) (s : State) : Host.Outcome State Fault Refusal :=
  .next (if serving s then restoreRegion s region else s)

/-- JOB_FAULT: the job of a partition's slice ends with ST_FAULT, and FAULT goes over the bell path (R351, R479). -/
def execJobFault (part : Nat) (s : State) : Host.Outcome State Fault Refusal :=
  .next (if serving s && part < 16 then settle (jobFault s part) else s)

end Sys2Proof.Machine
end

