-- ==== Sys2Proof/Machine/Ivt.lean ====
section
/-! DEFINITION. The Ivposon Transport: sessions, sequence and acknowledgement, register, memory, work, event and attestation frames
(R491-R512, R564, R565). -/

namespace Sys2Proof.Machine

/-- A bad frame (R491, R492). -/
def badFrame (s : State) : State := bump s pgIVT oIVT_BAD_FRAMES 1

/-- The IVT runs: firmware serves, and the port is UP. -/
def ivtUp (s : State) : Bool := serving s && s.host.state == 2

/-! ### Acknowledgement (R494-R497). -/

/-- Send an ACK frame. -/
def sendAck (s : State) (i : Nat) : State :=
  let x := sess s i
  if canSend s then emit (bump (modSess s i fun x => { x with unacked := 0 }) pgHPT oHPT_TX_FRAMES 1) (.ack (envelope s i) i x.rx) else s

/-- A frame has been received: acknowledge at once after every 32 (R496). -/
def countRx (s : State) (i : Nat) : State :=
  let s := modSess s i fun x => { x with unacked := x.unacked + 1 }
  if (sess s i).unacked ≥ 32 then sendAck s i else s

/-- Send a frame again, or lose the session when it has been sent again 12 times without ACK moving (R497). -/
def resend (s : State) (i : Nat) (f : Sent) : State :=
  if f.resends ≥ 12 then loseSess s i
  else
    let s := modSess s i fun x => { x with sent := updFirst (·.seq == f.seq) (fun g => { g with resends := g.resends + 1 }) x.sent }
    let s := bump s pgIVT oIVT_RETX 1
    if canSend s then emit (bump (bump s pgHPT oHPT_TX_FRAMES 1) pgIVT oIVT_TX_BYTES f.payload.length) (frameOut s i f) else s

/-- Frames received by a SACK after position `a`. -/
def sacked (ack bits_ : Nat) (q : Nat) : Bool :=
  let d := seqDiff (seqAdd ack 1) q
  d < 32 && bit bits_ d

/-- The host's ACK, window and SACK of a valid frame (R494-R497). -/
def takeAck (s : State) (i : Nat) (h : Hdr) : State :=
  let x := sess s i
  let s :=
    if seqDiff x.hostAck h.ack ≤ seqDiff x.hostAck x.tx then
      let moved := h.ack != x.hostAck
      let acked (q : Nat) : Bool := seqDiff x.hostAck q < seqDiff x.hostAck h.ack
      let sent := x.sent.map fun f => { f with acked := f.acked || acked f.seq, resends := if moved then 0 else f.resends }
      modSess s i fun y => { y with
        hostAck := h.ack, hostWindow := h.window, sent := dropAcked sent
        events := y.events.filter fun e => match e.sent with | some q => !acked q | none => true }
    else s
  let s :=
    match h.sack with
    | none => s
    | some b =>
      let late := (sess s i).sent.filter fun f =>
        !f.acked && f.onWire && !sacked h.ack b f.seq
          && ((sess s i).sent.filter fun g => sacked h.ack b g.seq && seqDiff h.ack f.seq < seqDiff h.ack g.seq).length ≥ 2
      forEach late (fun s f => if (sess s i).isOpen then resend s i f else s) s
  pump s i

/-! ### What frames do. -/

/-- Zeros up to a multiple of 8. -/
def pad8 (bs : Bytes) : Bytes := bs ++ zeros (roundUp bs.length 8 - bs.length)

/-- Read registers in entry order (R504). -/
def readRegs (i : Nat) : List Nat → State → State × Bytes × Bytes
  | [], s => (s, [], [])
  | a :: as, s =>
    let (s, v, st) := readReg s i a
    let (s, vs, sts) := readRegs i as s
    (s, natLe 8 v ++ vs, natLe 1 st ++ sts)

/-- Write registers in entry order (R504). -/
def writeRegs (i : Nat) : List (Nat × Word) → State → State × Bytes
  | [], s => (s, [])
  | (a, v) :: es, s =>
    let (s, st) := writeReg s i a v.toNat
    let (s, sts) := writeRegs i es s
    (s, natLe 1 st ++ sts)

/-- The firmware header's first 128 bytes (R552). -/
def fwHeader (f : FwSlot) : Bytes :=
  natLe 8 0x4B4C594600000001 ++ natLe 1 f.svn ++ natLe 1 f.keyId ++ natLe 1 f.revoke ++ zeros 5 ++ natLe 8 f.build ++ natLe 8 f.len
    ++ (f.bodyHash ++ zeros (64 - f.bodyHash.length)).take 64 ++ zeros 32

/-- 64 bytes of a stored hash. -/
def hash64 (b : Bytes) : Bytes := (b ++ zeros (64 - b.length)).take 64

/-- CHAIN (R565). -/
def bootChain (s : State) : Bytes :=
  let life := s.nv.life
  [Config.romDigest, sha3 (fwHeader s.boot.fw), hash64 s.boot.fw.bodyHash, sha3 ((List.range 0xA40).map (fixedImage s.boot.fw.bodyHash)),
    sha3 (calBytes s), (List.range 64).map (Config.lifeDigest life.counter life.state life.tampers life.ownerKey)].foldl
      (fun c d => sha3 (c ++ d)) (zeros 64)

/-- Roles and public keys of the 16 slots; an empty slot counts as role 0 and a key of zeros. -/
def keysBytes (s : State) : Bytes :=
  ((List.range 16).map fun k =>
    let x := keySlot s k
    natLe 1 x.role ++ (x.key ++ zeros (2592 - x.key.length)).take 2592).flatten

/-- Bytes 0x000-0x19F of the attestation report (R564). -/
def reportBody (s : State) (nonce : Bytes) : Bytes :=
  natLe 2 1 ++ natLe 1 s.nv.life.state ++ natLe 1 s.boot.service ++ natLe 1 s.nv.svnFuse ++ natLe 1 s.boot.fw.svn ++ natLe 1 s.boot.fwSlot
    ++ natLe 1 (flag (defaultGains s) 0 + flag (defaultOffsets s) 1 + flag ((if s.nv.cal.ok then s.nv.cal.source else 2) != 0) 2)
    ++ natLe 8 s.nv.serial ++ natLe 4 s.nv.transitions ++ natLe 4 s.nv.life.tampers ++ natLe 8 (now s)
    ++ hash64 nonce ++ bootChain s ++ hash64 s.boot.fw.bodyHash ++ sha3 (calBytes s) ++ sha3 (keysBytes s) ++ sha3 Config.identityKey

/-- The report, 5,048 bytes. -/
def report (s : State) (nonce : Bytes) : Bytes :=
  let b := reportBody s nonce
  b ++ (Config.identitySign b ++ zeros (Config.sigBytes - (Config.identitySign b).length)).take Config.sigBytes ++ zeros 5

/-- A MEM_WRITE's answer when it fails (R506). -/
def memWriteReply (addr part st : Nat) : Bytes := natLe 8 addr ++ natLe 1 part ++ natLe 1 st ++ zeros 6

/-- A delivered frame takes effect (R498, R502-R512). -/
def deliver (s : State) (i : Nat) (h : Hdr) (b : FrameBody) : State :=
  match b with
  | .regRead addrs =>
    let (s, vs, sts) := readRegs i addrs s
    sendMsg s i tRegRead true h.msg (vs ++ pad8 sts)
  | .regWrite es =>
    let (s, sts) := writeRegs i es s
    runResets (sendMsg s i tRegWrite true h.msg (pad8 sts))
  | .memWrite part reserved addr data =>
    let (s, st) := memWriteReq s i part reserved addr data
    if st == 0 then s else sendMsg s i tMemWrite true h.msg (memWriteReply addr part st)
  | .memRead part reserved addr len =>
    let st := memStatus s i part reserved
    let st := if len == 0 || len > 2 ^ 32 then 4 else st
    let st := if st == 0 && !mayTouch s part addr then 2 else st
    if st != 0 then sendMemData s i h.msg part addr [] st
    else
      let (s, tier) := takeReadFail s i part addr len
      let good := if tier then readableHbm s part addr len else readable s part addr len
      sendMemData (bumpOpen trafficCounters s) i h.msg part addr (vread s part addr good)
        (if good == len then 0 else if tier && good < readable s part addr len then 3 else 1)
  | .submit payload => submitFrame s i h.msg h.offset h.last payload
  | .attest nonce => sendMsg s i tAttest true h.msg (report s nonce)
  | .close => closeSess (sendMsg s i tSessionOpen true h.msg []) i

/-- Deliver frames that stand in order, each once (R495). -/
def deliverReady (i : Nat) : Nat → State → State
  | 0, s => s
  | n + 1, s =>
    let x := sess s i
    match x.isOpen, x.early.find? (fun e => e.1 == x.rx) with
    | true, some (q, h, b) =>
      let s := modSess s i fun x => { x with rx := seqAdd x.rx 1, early := x.early.filter (·.1 != q) }
      deliverReady i n (deliver s i h b)
    | _, _ => s

/-- A frame's header is right for an open session (R491, R492). -/
def headerOk (s : State) (h : Hdr) (limit : Nat) : Bool :=
  let x := sess s h.session
  h.version == 1 && !h.flagsReserved && h.session < 16 && x.isOpen && h.tag == x.tag && h.length ≤ limit
    && h.srcIp == x.ip && h.srcPort == x.port

/-- Payload bytes of a body; a message of one frame has OFFSET 0 and LAST (R493). -/
def bodyOk (h : Hdr) : FrameBody → Bool
  | .regRead as => 1 ≤ as.length && as.length ≤ 1024 && h.length == 8 * as.length && h.offset == 0 && h.last
  | .regWrite es => 1 ≤ es.length && es.length ≤ 512 && h.length == 16 * es.length && h.offset == 0 && h.last
  | .memWrite _ _ _ d => h.length == 16 + d.length && h.offset == 0 && h.last
  | .memRead _ _ _ _ => h.length == 24 && h.offset == 0 && h.last
  | .submit p => h.length == p.length
  | .attest n => n.length == 64 && h.length == 64 && h.offset == 0 && h.last
  | .close => h.length ≤ 8192 && h.offset == 0 && h.last

/-- A sequenced frame arrives (R491-R498). -/
def frameIn (s : State) (h : Hdr) (b : FrameBody) : State :=
  if !ivtUp s then s
  else
    let s := takeBuf s
    if !headerOk s h (if b == .close then 8192 else (sess s h.session).maxPayload) || !bodyOk h b then badFrame s
    else
      let i := h.session
      let s := bump (modSess s i fun x => { x with mac := h.srcMac }) pgIVT oIVT_RX_BYTES h.length
      let s := takeAck s i h
      let x := sess s i
      if !x.isOpen then s
      else if seqDiff x.rx h.seq ≥ 256 then (if seqDiff h.seq x.rx ≤ 2 ^ 31 then countRx s i else s)
      else if x.early.any (·.1 == h.seq) then countRx s i
      else
        let s := modSess s i fun x => { x with early := x.early ++ [(h.seq, h, b)] }
        let s := deliverReady i 257 s
        if (sess s i).isOpen then countRx s i else s

/-- CLOSE (R502). -/
def execClose (h : Hdr) (s : State) : Host.Outcome State Fault Refusal := .next (frameIn s h .close)
/-- REG_READ (R504, R505). -/
def execRegRead (h : Hdr) (addrs : List Nat) (s : State) : Host.Outcome State Fault Refusal := .next (frameIn s h (.regRead addrs))
/-- REG_WRITE (R504, R505). -/
def execRegWrite (h : Hdr) (entries : List (Nat × Word)) (s : State) : Host.Outcome State Fault Refusal := .next (frameIn s h (.regWrite entries))
/-- MEM_WRITE (R506). -/
def execMemWrite (h : Hdr) (part : Nat) (reserved : Bool) (addr : Nat) (data : Bytes) (s : State) : Host.Outcome State Fault Refusal :=
  .next (frameIn s h (.memWrite part reserved addr data))
/-- MEM_READ (R507). -/
def execMemRead (h : Hdr) (part : Nat) (reserved : Bool) (addr : Nat) (len : Nat) (s : State) : Host.Outcome State Fault Refusal :=
  .next (frameIn s h (.memRead part reserved addr len))
/-- SUBMIT (R508, R509). -/
def execSubmit (h : Hdr) (payload : Bytes) (s : State) : Host.Outcome State Fault Refusal := .next (frameIn s h (.submit payload))
/-- ATTEST (R512, R564). -/
def execAttest (h : Hdr) (nonce : Bytes) (s : State) : Host.Outcome State Fault Refusal := .next (frameIn s h (.attest nonce))

/-- ACK: an unsequenced frame (R495). -/
def execAck (h : Hdr) (s : State) : Host.Outcome State Fault Refusal :=
  .next (if !ivtUp s then s
    else
      let s := takeBuf s
      if !headerOk s h (sess s h.session).maxPayload || h.length != 0 || h.seq != 0 then badFrame s
      else takeAck (modSess s h.session fun x => { x with mac := h.srcMac }) h.session h)

/-- ACK_TIMER: 20 µs after receipt (R496). -/
def execAckTimer (sess : Nat) (s : State) : Host.Outcome State Fault Refusal :=
  .next (let x := Sys2Proof.Machine.sess s sess
    if sess < 16 && ivtUp s && x.isOpen && x.unacked > 0 then sendAck s sess else s)

/-- RETRANSMIT_TIMEOUT (R497). -/
def execRetransmitTimeout (sess seq : Nat) (s : State) : Host.Outcome State Fault Refusal :=
  .next (if sess < 16 && serving s && (Sys2Proof.Machine.sess s sess).isOpen then
      match (Sys2Proof.Machine.sess s sess).sent.find? (fun f => f.seq == seq && f.onWire && !f.acked) with
      | some f => resend s sess f
      | none => s
    else s)

/-- SESSION_IDLE_TIMEOUT: no valid frame for IDLE; 0 is none (R502). -/
def execSessionIdleTimeout (sess : Nat) (s : State) : Host.Outcome State Fault Refusal :=
  .next (if sess < 16 && serving s && fldGet s pgIVT oIVT_CTRL 63 48 != 0 then loseSess s sess else s)

/-! ### Events (R511). -/

/-- One event entry. -/
def eventBytes (e : EvEntry) : Bytes := natLe 2 e.code ++ natLe 2 e.page ++ natLe 4 e.count ++ natLe 8 e.first

/-- EVENT_FRAME_SEND: entries that have not gone out go in one frame, as many as fit. -/
def execEventFrameSend (sess : Nat) (s : State) : Host.Outcome State Fault Refusal :=
  .next (let x := Sys2Proof.Machine.sess s sess
    let new := (x.events.filter fun e => e.sent.isNone).take (Nat.min 512 (x.maxPayload / 16))
    if sess ≥ 16 || !ivtUp s || !x.isOpen || new.isEmpty then s
    else
      let (s, m) := takeMsg s sess
      let s := modSess s sess fun y => { y with events := y.events.map fun e => if new.contains e then { e with sent := some x.tx } else e }
      sendMsg s sess tEvent false m (new.map eventBytes).flatten)

/-! ### Opening (R499-R503). -/

/-- REFUSE with a reason (R499). -/
def refuseOpen (s : State) (e : Envelope) (i reason : Nat) : State :=
  raise (bump (emit s (.openFrame e i 3 (natLe 1 reason))) pgIVT oIVT_AUTH_FAILS 1) pgIVT 3

/-- The envelope of what answers an opening. -/
def Opening.envelope (o : Opening) (s : State) : Envelope := openEnvelope s o.mac o.ip o.port o.udp o.tag

/-- CHALLENGE: SESSION, TAG, the module's nonce and LAST_RESET. -/
def sendChallenge (s : State) (i : Nat) (o : Opening) : State :=
  emit s (.openFrame (o.envelope s) i 1 (natLe 1 i ++ natLe 4 o.tag ++ o.modNonce ++ natLe 1 (sess s i).lastReset))

/-- Fields of a HELLO in range. -/
def helloOk (f : HelloFacts) : Bool :=
  (f.wanted < 16 || f.wanted == 0xFF) && f.keySlot < 16 && f.maxPayload % 1024 == 0 && 1024 ≤ f.maxPayload && f.maxPayload ≤ 8192
    && f.nonce.length == 32

/-- An opening that a HELLO repeats. -/
def sameHello (f : HelloFacts) (o : Opening) : Bool :=
  o.keySlot == f.keySlot && o.maxPayload == f.maxPayload && o.hostNonce == f.nonce && o.ip == f.srcIp && o.port == f.srcPort && o.dstIp == f.dstIp

/-- The session that a HELLO gets: the one wanted, the one whose opening it repeats, or the lowest that is free. -/
def helloSess (s : State) (f : HelloFacts) : Option Nat :=
  if f.wanted < 16 then some f.wanted
  else
    let again := (List.range 16).find? fun i => match (sess s i).opening with | some o => sameHello f o | none => false
    again.or ((List.range 16).find? fun i => !(sess s i).isOpen && (sess s i).opening.isNone)

/-- HELLO: answered with CHALLENGE; TAG and nonce are drawn by the module (R499). With no session free, CHALLENGE names 0xFF. -/
def execHello (f : HelloFacts) (s : State) : Host.Outcome State Fault Refusal :=
  .next (if !ivtUp s then s
    else
      let s := takeBuf s
      if !helloOk f then badFrame s
      else
        let nonce (s : State) : Bytes := (List.range 32).map fun k => BitVec.ofNat 8 (takeFree s (3 + k))
        let tag (s : State) : Nat := takeFree s 2 % 2 ^ 32
        match helloSess s f with
        | none => emit (bumpFree s) (.openFrame (openEnvelope s f.srcMac f.srcIp f.srcPort (fldGet s pgIVT oIVT_CTRL 15 0) (tag s)) 0xFF 1 (natLe 1 0xFF ++ natLe 4 (tag s) ++ nonce s ++ natLe 1 0))
        | some i =>
          match (sess s i).opening with
          | some o => if sameHello f o then sendChallenge s i o else open_ s i (nonce s) (tag s)
          | none => open_ s i (nonce s) (tag s))
where
  /-- a new opening -/
  open_ (s : State) (i : Nat) (nonce : Bytes) (tag : Nat) : State :=
    let o : Opening := { keySlot := f.keySlot, maxPayload := f.maxPayload, hostNonce := f.nonce, modNonce := nonce, tag := tag,
                         ip := f.srcIp, port := f.srcPort, mac := f.srcMac, dstIp := f.dstIp
                         udp := fldGet s pgIVT oIVT_CTRL 15 0 }
    let s := modSess (bumpFree s) i fun x => { x with opening := some o }
    sendChallenge s i o

/-- The digest that PROOF signs (R499). -/
def proofDigest (s : State) (i : Nat) (o : Opening) : Bytes :=
  sha3 (o.hostNonce ++ o.modNonce ++ natLe 1 i ++ natLe 4 o.tag ++ natLe 1 o.keySlot ++ natLe 6 s.nv.mac ++ natLe 16 o.ip ++ natLe 2 o.port
    ++ natLe 16 o.dstIp ++ natLe 2 o.udp)

/-- ACCEPT with PRIO and SECURE. -/
def sendAccept (s : State) (i : Nat) : State :=
  emit s (.openFrame (envelope s i) i 2 (natLe 1 (fldGet s pgSCH (oSCH_SESS + 8 * i) 2 0) ++ natLe 1 (if (sess s i).secure then 1 else 0)))

/-- A session opens (R499-R503): an open instance under the same slot is lost; kept messages and ST_RESET reports go first. -/
def acceptSess (s : State) (i : Nat) (o : Opening) : State :=
  let s := loseSess s i
  let s := modSess s i fun x => { x with
    isOpen := true, secure := (keySlot s o.keySlot).role == 2, keySlot := o.keySlot, tag := o.tag, maxPayload := o.maxPayload
    ip := o.ip, port := o.port, mac := o.mac, udp := o.udp, readFail := false, tx := 1, rx := 1, early := [], sent := [], hostAck := 1, hostWindow := 256, unacked := 0
    opening := none, asm := none, events := [], lastReset := 0 }
  let s := raise (sendAccept s i) pgIVT 1
  let x := sess s i
  let mine := x.kept.filter (·.slot == o.keySlot)
  let tags := x.resetTags.filter (·.1 == o.keySlot)
  let s := modSess s i fun x => { x with
    kept := x.kept.filter (·.slot != o.keySlot), resetTags := x.resetTags.filter (·.1 != o.keySlot) }
  let s := forEach mine (fun s m => deliverMsg s i m) s
  forEach tags (fun s (k, tag, part) => sendComplete s i k (completePayload tag part stReset 0 0xFFFFFFFF 0 (now s))) s

/-- PROOF: verified, and the session accepted or refused (R499). -/
def execProof (sess tag : Nat) (sig : Bytes) (srcIp srcPort : Nat) (s : State) : Host.Outcome State Fault Refusal :=
  .next (if !ivtUp s then s
    else
      let s := takeBuf s
      let env := openEnvelope s 0 srcIp srcPort (fldGet s pgIVT oIVT_CTRL 15 0) tag
      if sess == 0xFF then refuseOpen s env 0xFF 4
      else if sess ≥ 16 then badFrame s
      else
        let x := Sys2Proof.Machine.sess s sess
        match x.opening with
        | some o =>
          if o.tag != tag || o.ip != srcIp || o.port != srcPort then badFrame s
          else
            let shut (reason : Nat) : State := refuseOpen (modSess s sess fun x => { x with opening := none }) (o.envelope s) sess reason
            if (keySlot s o.keySlot).role == 0 then shut 1
            else if !Config.verify (keySlot s o.keySlot).key (proofDigest s sess o) sig then shut 2
            else if x.isOpen && x.keySlot != o.keySlot then shut 3
            else acceptSess s sess o
        | none =>
          if x.isOpen && x.tag == tag && x.ip == srcIp && x.port == srcPort then sendAccept s sess
          else if x.isOpen then badFrame s
          else refuseOpen s env sess 2)

/-- PROOF_TIMEOUT: 1 s since CHALLENGE (R499). -/
def execProofTimeout (sess : Nat) (s : State) : Host.Outcome State Fault Refusal :=
  .next (if sess < 16 then modSess s sess fun x => { x with opening := none } else s)

end Sys2Proof.Machine
end

