-- ==== Sys2Proof/Machine/Dispatch.lean ====
section
/-! DEFINITION. The dispatch: one arm for each command. -/

namespace Sys2Proof.Machine

def exec (i : Instr) (s : State) : Host.Outcome State Fault Refusal :=
  match i with
  | .powerOn => Sys2Proof.Machine.execPowerOn s
  | .bladeUndervoltage => Sys2Proof.Machine.execBladeUndervoltage s
  | .resetHoldExpiry loopOpen => Sys2Proof.Machine.execResetHoldExpiry loopOpen s
  | .coldReset => Sys2Proof.Machine.execColdReset s
  | .refclkValidWaitEnd => Sys2Proof.Machine.execRefclkValidWaitEnd s
  | .earlyService => Sys2Proof.Machine.execEarlyService s
  | .fullService => Sys2Proof.Machine.execFullService s
  | .regionCalibration region ok trim => Sys2Proof.Machine.execRegionCalibration region ok trim s
  | .hbmTrainingDone stack lanesOk repairs spares => Sys2Proof.Machine.execHbmTrainingDone stack lanesOk repairs spares s
  | .hbmTempRead stack temp => Sys2Proof.Machine.execHbmTempRead stack temp s
  | .hbmUncorrectable pa => Sys2Proof.Machine.execHbmUncorrectable pa s
  | .sramUncorrectable site => Sys2Proof.Machine.execSramUncorrectable site s
  | .catchEccDiscard site => Sys2Proof.Machine.execCatchEccDiscard site s
  | .sftEcc region => Sys2Proof.Machine.execSftEcc region s
  | .csTestRegion cluster facts => Sys2Proof.Machine.execCsTestRegion cluster facts s
  | .regionWake region failing => Sys2Proof.Machine.execRegionWake region failing s
  | .regionPowerOff region => Sys2Proof.Machine.execRegionPowerOff region s
  | .flashWear stack life => Sys2Proof.Machine.execFlashWear stack life s
  | .flashReadFail who stack => Sys2Proof.Machine.execFlashReadFail who stack s
  | .tierDeadlineExpiry who stack => Sys2Proof.Machine.execTierDeadlineExpiry who stack s
  | .poolEviction part => Sys2Proof.Machine.execPoolEviction part s
  | .allocationWaitEnd req => Sys2Proof.Machine.execAllocationWaitEnd req s
  | .frameZeroing pa => Sys2Proof.Machine.execFrameZeroing pa s
  | .powerSample draw supply avg => Sys2Proof.Machine.execPowerSample draw supply avg s
  | .clampPaceRise => Sys2Proof.Machine.execClampPaceRise s
  | .leaveRequest m => Sys2Proof.Machine.execLeaveRequest m s
  | .leaveGrant => Sys2Proof.Machine.execLeaveGrant s
  | .grantRelease m o heldUs => Sys2Proof.Machine.execGrantRelease m o heldUs s
  | .depWaitLong m => Sys2Proof.Machine.execDepWaitLong m s
  | .depEnvelopeWrite sess value => Sys2Proof.Machine.execDepEnvelopeWrite sess value s
  | .dieTempRead die temp => Sys2Proof.Machine.execDieTempRead die temp s
  | .tripResume die => Sys2Proof.Machine.execTripResume die s
  | .coolantRead inlet outlet => Sys2Proof.Machine.execCoolantRead inlet outlet s
  | .sscUpdate => Sys2Proof.Machine.execSscUpdate s
  | .refclkLost => Sys2Proof.Machine.execRefclkLost s
  | .clkRefBack => Sys2Proof.Machine.execClkRefBack s
  | .tamper => Sys2Proof.Machine.execTamper s
  | .warmReset => Sys2Proof.Machine.execWarmReset s
  | .partitionReset part => Sys2Proof.Machine.execPartitionReset part s
  | .blockSoftReset page => Sys2Proof.Machine.execBlockSoftReset page s
  | .modResetDone => Sys2Proof.Machine.execModResetDone s
  | .keyWrite sess arg => Sys2Proof.Machine.execKeyWrite sess arg s
  | .keyErase sess arg => Sys2Proof.Machine.execKeyErase sess arg s
  | .cakWrite sess => Sys2Proof.Machine.execCakWrite sess s
  | .fwCommit sess => Sys2Proof.Machine.execFwCommit sess s
  | .svnBurn sess => Sys2Proof.Machine.execSvnBurn sess s
  | .transition sess arg => Sys2Proof.Machine.execTransition sess arg s
  | .exportRecord sess => Sys2Proof.Machine.execExportRecord sess s
  | .importRecord sess => Sys2Proof.Machine.execImportRecord sess s
  | .selfCal sess => Sys2Proof.Machine.execSelfCal sess s
  | .linkBringup port f => Sys2Proof.Machine.execLinkBringup port f s
  | .lnkRetrain sess port => Sys2Proof.Machine.execLnkRetrain sess port s
  | .laneSpared lane => Sys2Proof.Machine.execLaneSpared lane s
  | .linkDegraded port bellLane => Sys2Proof.Machine.execLinkDegraded port bellLane s
  | .flitReceive port f => Sys2Proof.Machine.execFlitReceive port f s
  | .linkUncorrectable port => Sys2Proof.Machine.execLinkUncorrectable port s
  | .bellFault port tag rank => Sys2Proof.Machine.execBellFault port tag rank s
  | .bellAbort port tag rank status hauls => Sys2Proof.Machine.execBellAbort port tag rank status hauls s
  | .bellHeld port tag rank set => Sys2Proof.Machine.execBellHeld port tag rank set s
  | .bellVerdict port tag rank bit => Sys2Proof.Machine.execBellVerdict port tag rank bit s
  | .bellColl port tag collId axis offset payload => Sys2Proof.Machine.execBellColl port tag collId axis offset payload s
  | .rtrCoordWrite sess plane value => Sys2Proof.Machine.execRtrCoordWrite sess plane value s
  | .rtrSliceWrite sess part value => Sys2Proof.Machine.execRtrSliceWrite sess part value s
  | .ethFrameReceive f => Sys2Proof.Machine.execEthFrameReceive f s
  | .pfcFrameReceive pauses => Sys2Proof.Machine.execPfcFrameReceive pauses s
  | .mkaFrameReceive ok => Sys2Proof.Machine.execMkaFrameReceive ok s
  | .arpRequest ip mac => Sys2Proof.Machine.execArpRequest ip mac s
  | .neighbourSolicitation ip mac => Sys2Proof.Machine.execNeighbourSolicitation ip mac s
  | .echoRequest ipv6 ip token => Sys2Proof.Machine.execEchoRequest ipv6 ip token s
  | .hostPortStateChange linkUp training lanes => Sys2Proof.Machine.execHostPortStateChange linkUp training lanes s
  | .hello f => Sys2Proof.Machine.execHello f s
  | .proof sess tag sig srcIp srcPort => Sys2Proof.Machine.execProof sess tag sig srcIp srcPort s
  | .proofTimeout sess => Sys2Proof.Machine.execProofTimeout sess s
  | .close h => Sys2Proof.Machine.execClose h s
  | .regRead h addrs => Sys2Proof.Machine.execRegRead h addrs s
  | .regWrite h entries => Sys2Proof.Machine.execRegWrite h entries s
  | .memWrite h part reserved addr data => Sys2Proof.Machine.execMemWrite h part reserved addr data s
  | .memRead h part reserved addr len => Sys2Proof.Machine.execMemRead h part reserved addr len s
  | .submit h payload => Sys2Proof.Machine.execSubmit h payload s
  | .attest h nonce => Sys2Proof.Machine.execAttest h nonce s
  | .ack h => Sys2Proof.Machine.execAck h s
  | .ackTimer sess => Sys2Proof.Machine.execAckTimer sess s
  | .retransmitTimeout sess seq => Sys2Proof.Machine.execRetransmitTimeout sess seq s
  | .sessionIdleTimeout sess => Sys2Proof.Machine.execSessionIdleTimeout sess s
  | .eventFrameSend sess => Sys2Proof.Machine.execEventFrameSend sess s
  | .requestComplete req => Sys2Proof.Machine.execRequestComplete req s
  | .admission part => Sys2Proof.Machine.execAdmission part s
  | .preemption part => Sys2Proof.Machine.execPreemption part s
  | .regionRestore region => Sys2Proof.Machine.execRegionRestore region s
  | .jobFault part => Sys2Proof.Machine.execJobFault part s
  | .schSessWrite sess index value => Sys2Proof.Machine.execSchSessWrite sess index value s
  | .schPartWrite sess part value => Sys2Proof.Machine.execSchPartWrite sess part value s
  | .schTallyWrite sess part value => Sys2Proof.Machine.execSchTallyWrite sess part value s
  | .talAdd sess page value => Sys2Proof.Machine.execTalAdd sess page value s
  | .mopWaitMet m => Sys2Proof.Machine.execMopWaitMet m s
  | .mopComplete m => Sys2Proof.Machine.execMopComplete m s
  | .groupTake cluster => Sys2Proof.Machine.execGroupTake cluster s
  | .chunkCredit unit => Sys2Proof.Machine.execChunkCredit unit s
  | .canaryVerdict m => Sys2Proof.Machine.execCanaryVerdict m s
  | .canaryGrad m => Sys2Proof.Machine.execCanaryGrad m s
  | .matmul m => Sys2Proof.Machine.execMatmul m s
  | .matmulAdd m => Sys2Proof.Machine.execMatmulAdd m s
  | .convert m => Sys2Proof.Machine.execConvert m s
  | .add m => Sys2Proof.Machine.execAdd m s
  | .mul m => Sys2Proof.Machine.execMul m s
  | .fma m => Sys2Proof.Machine.execFma m s
  | .max m => Sys2Proof.Machine.execMax m s
  | .min m => Sys2Proof.Machine.execMin m s
  | .fill m => Sys2Proof.Machine.execFill m s
  | .reduceSum m => Sys2Proof.Machine.execReduceSum m s
  | .reduceMax m => Sys2Proof.Machine.execReduceMax m s
  | .reduceMin m => Sys2Proof.Machine.execReduceMin m s
  | .reduceSumSquares m => Sys2Proof.Machine.execReduceSumSquares m s
  | .chain m => Sys2Proof.Machine.execChain m s
  | .sfnExp2 m => Sys2Proof.Machine.execSfnExp2 m s
  | .sfnLog2 m => Sys2Proof.Machine.execSfnLog2 m s
  | .sfnRcp m => Sys2Proof.Machine.execSfnRcp m s
  | .sfnRsqrt m => Sys2Proof.Machine.execSfnRsqrt m s
  | .sfnUser m => Sys2Proof.Machine.execSfnUser m s
  | .softmax m => Sys2Proof.Machine.execSoftmax m s
  | .softmaxStats m => Sys2Proof.Machine.execSoftmaxStats m s
  | .statsMerge m => Sys2Proof.Machine.execStatsMerge m s
  | .softmaxApply m => Sys2Proof.Machine.execSoftmaxApply m s
  | .layernorm m => Sys2Proof.Machine.execLayernorm m s
  | .rmsnorm m => Sys2Proof.Machine.execRmsnorm m s
  | .normStatsLayer m => Sys2Proof.Machine.execNormStatsLayer m s
  | .normStatsRms m => Sys2Proof.Machine.execNormStatsRms m s
  | .attn m => Sys2Proof.Machine.execAttn m s
  | .kvAppend m => Sys2Proof.Machine.execKvAppend m s
  | .attnGrad m => Sys2Proof.Machine.execAttnGrad m s
  | .ctxOpen m => Sys2Proof.Machine.execCtxOpen m s
  | .ctxResize m => Sys2Proof.Machine.execCtxResize m s
  | .ctxClose m => Sys2Proof.Machine.execCtxClose m s
  | .ctxFill m => Sys2Proof.Machine.execCtxFill m s
  | .haulSend m => Sys2Proof.Machine.execHaulSend m s
  | .haulAttn m => Sys2Proof.Machine.execHaulAttn m s
  | .haulGrad m => Sys2Proof.Machine.execHaulGrad m s
  | .tubChunkReceive h data => Sys2Proof.Machine.execTubChunkReceive h data s
  | .haulTimeout part haulId => Sys2Proof.Machine.execHaulTimeout part haulId s
  | .haulAbort req => Sys2Proof.Machine.execHaulAbort req s
  | .conv m => Sys2Proof.Machine.execConv m s
  | .poolMax m => Sys2Proof.Machine.execPoolMax m s
  | .poolMin m => Sys2Proof.Machine.execPoolMin m s
  | .poolAverage m => Sys2Proof.Machine.execPoolAverage m s
  | .boxDecodeDistances m => Sys2Proof.Machine.execBoxDecodeDistances m s
  | .boxDecodeCentre m => Sys2Proof.Machine.execBoxDecodeCentre m s
  | .nms m => Sys2Proof.Machine.execNms m s
  | .vctxOpen m => Sys2Proof.Machine.execVctxOpen m s
  | .vctxClose m => Sys2Proof.Machine.execVctxClose m s
  | .vctxReset m => Sys2Proof.Machine.execVctxReset m s
  | .vdec m => Sys2Proof.Machine.execVdec m s
  | .segmentStart set => Sys2Proof.Machine.execSegmentStart set s
  | .parseResume seg => Sys2Proof.Machine.execParseResume seg s
  | .pictureReconstruct set => Sys2Proof.Machine.execPictureReconstruct set s
  | .segmentEnd seg => Sys2Proof.Machine.execSegmentEnd seg s
  | .ringWaitExpiry seg => Sys2Proof.Machine.execRingWaitExpiry seg s
  | .segLimitExpiry seg => Sys2Proof.Machine.execSegLimitExpiry seg s
  | .venc m => Sys2Proof.Machine.execVenc m s
  | .vencStart set => Sys2Proof.Machine.execVencStart set s
  | .prep m => Sys2Proof.Machine.execPrep m s
  | .prepJobStart engine => Sys2Proof.Machine.execPrepJobStart engine s
  | .prepJobEnd engine => Sys2Proof.Machine.execPrepJobEnd engine s
  | .budgetExpiry seg => Sys2Proof.Machine.execBudgetExpiry seg s
  | .holdExpiry m => Sys2Proof.Machine.execHoldExpiry m s
  | .step m => Sys2Proof.Machine.execStep m s
  | .placeJoinGather m => Sys2Proof.Machine.execPlaceJoinGather m s
  | .placeJoinSlot m => Sys2Proof.Machine.execPlaceJoinSlot m s
  | .placeLeave m => Sys2Proof.Machine.execPlaceLeave m s
  | .reduceScatter m => Sys2Proof.Machine.execReduceScatter m s
  | .allGather m => Sys2Proof.Machine.execAllGather m s
  | .bellReduce m => Sys2Proof.Machine.execBellReduce m s
  | .bellBarrier m => Sys2Proof.Machine.execBellBarrier m s
  | .bellBcast m => Sys2Proof.Machine.execBellBcast m s
  | .reductionClaimGrant edge => Sys2Proof.Machine.execReductionClaimGrant edge s
  | .redFallback m edge => Sys2Proof.Machine.execRedFallback m edge s
  | .collPieceReceive tag collId phase step offset data => Sys2Proof.Machine.execCollPieceReceive tag collId phase step offset data s
  | .collTimeout m => Sys2Proof.Machine.execCollTimeout m s
  | .copy m => Sys2Proof.Machine.execCopy m s
  | .prefetch m => Sys2Proof.Machine.execPrefetch m s
  | .pin m => Sys2Proof.Machine.execPin m s
  | .unpin m => Sys2Proof.Machine.execUnpin m s
  | .imageWrite m => Sys2Proof.Machine.execImageWrite m s
  | .imageSeal m => Sys2Proof.Machine.execImageSeal m s
  | .tallySet m => Sys2Proof.Machine.execTallySet m s
  | .tallyAdd m => Sys2Proof.Machine.execTallyAdd m s
  | .barrier m => Sys2Proof.Machine.execBarrier m s
  | .ckptSave m => Sys2Proof.Machine.execCkptSave m s
  | .ckptRestore m => Sys2Proof.Machine.execCkptRestore m s
  | .mapHbm m => Sys2Proof.Machine.execMapHbm m s
  | .mapFlash m => Sys2Proof.Machine.execMapFlash m s
  | .unmap m => Sys2Proof.Machine.execUnmap m s
  | .mapImage m => Sys2Proof.Machine.execMapImage m s
  | .changeProtection m => Sys2Proof.Machine.execChangeProtection m s
  | .polQuotaWrite sess part value => Sys2Proof.Machine.execPolQuotaWrite sess part value s
  | .sftArm sess region value => Sys2Proof.Machine.execSftArm sess region value s
  | .sftSwapped part => Sys2Proof.Machine.execSftSwapped part s
  | .pageLock sess page value => Sys2Proof.Machine.execPageLock sess page value s
  | .evtClr sess page value => Sys2Proof.Machine.execEvtClr sess page value s
  | .traceEnable sess value => Sys2Proof.Machine.execTraceEnable sess value s
  | .traceRecord => Sys2Proof.Machine.execTraceRecord s
  | .debugHalt sess value => Sys2Proof.Machine.execDebugHalt sess value s
  | .debugHalted => Sys2Proof.Machine.execDebugHalted s
  | .windowRead ask => Sys2Proof.Machine.execWindowRead ask s
  | .windowWrite sess value cycle => Sys2Proof.Machine.execWindowWrite sess value cycle s
  | .resetNRelease slot => Sys2Proof.Machine.execResetNRelease slot s
  | .secCmdDone flashOk => Sys2Proof.Machine.execSecCmdDone flashOk s
  | .calDone sections => Sys2Proof.Machine.execCalDone sections s
  | .hptMkaFail => Sys2Proof.Machine.execHptMkaFail s
  | .pfcPauseExpiry priority => Sys2Proof.Machine.execPfcPauseExpiry priority s

end Sys2Proof.Machine
end

