-- ==== Sys2Proof/Machine/Idle.lean ====
section
/-! DEFINITION. What passes while no command waits: the SCLK count goes on (R537; DESIGN CHOICE, log 1). -/

namespace Sys2Proof.Machine

/-- The SCLK count runs from the release of RESET_N while the module is powered (R537, R543). -/
def clockRuns (s : State) : Bool :=
  s.boot.blade && s.boot.pwrGood && s.boot.resetN && s.boot.phase != .off && s.boot.phase != .held && s.boot.phase != .refWait

/-- One idle step: one SCLK cycle. -/
def idle (s : State) : State := if clockRuns s then { s with sclk := s.sclk + 1 } else s

end Sys2Proof.Machine
end

