-- ==== Sys2Proof/Safety.lean ====
section
/-! DEFINITION. What a well-kept state is, and the terms in which claims speak: the sparse memories in canonical form, the lists of
instances at their length, and what it means that a command runs. -/

namespace Sys2Proof.Machine

/-- Memory in canonical form: addresses strictly rising, no byte equal to 0, which an unlisted address reads as. -/
abbrev Memory.wf (m : List Host.Cell) : Prop := cellWf (fun _ => (0 : Byte)) m = true

/-- The invariant of the machine: memory, registers and tallies are in canonical form, and there are 48 regions (R8), 16 sessions (R461),
12 HBM stacks (R29) and the user tables of 16 partitions (R199). -/
structure Inv (s : State) : Prop where
  mem : Memory.wf s.mem
  regs : cellWf coldAt s.regs = true
  tallies : cellWf (fun _ => (0 : W32)) s.fab.tallies = true
  rgns : s.fab.rgns.length = 48
  sess : s.host.sess.length = 16
  hbms : s.pool.hbms.length = 12
  users : s.fab.users.length = 16

/-- The command answers a next state, and `P` holds of it. -/
def Runs (c : Instr) (s : State) (P : State → Prop) : Prop := ∃ t, exec c s = .next t ∧ P t

/-- Bit `n` of EVT_RAW of a page is set: its event `n` has been raised (R573). -/
def Raised (t : State) (page n : Nat) : Prop := bit (regRaw t page oEVT_RAW) n = true

/-- A register of a page has a place of its own: its offset lies within the page's 4,096 bytes (R568). -/
abbrev OnPage (off : Nat) : Prop := off < 4096

/-- The stage at which macro-op `i` of request `id` stands, if it has begun. -/
def stageOf (s : State) (id i : Nat) : Option Stage := ((req? s id).bind (mopSt? · i)).map (·.stage)

/-- Request `id` has ended, and it has ended with a status (R7, R123). -/
def Over (t : State) (id : Nat) : Prop := ∃ r, req? t id = some r ∧ r.st = .ended
def EndedWith (t : State) (id status : Nat) : Prop := ∃ r, req? t id = some r ∧ r.st = .ended ∧ r.status = status

/-- Every request of partition `p` in `s` is over in `t`. -/
def JobOver (s t : State) (p : Nat) : Prop := ∀ id r, req? s id = some r → r.part = p → Over t id

/-- A counter one higher, which stops at 2^64 - 1 (R72). -/
def CountedOnce (s t : State) (page off : Nat) : Prop := regRaw t page off = Nat.min (regRaw s page off + 1) (2 ^ 64 - 1)

/-- The module serves, and session `i` is open and secure (R499, R514). -/
structure SecureSession (s : State) (i : Nat) : Prop where
  serves : serving s = true
  index : i < 16
  isOpen : (sess s i).isOpen = true
  secure : (sess s i).secure = true

/-- Every register but one of a page is as before. -/
def OtherRegs (s t : State) (page off : Nat) : Prop :=
  ∀ page' off', off' < 4096 → (page', off') ≠ (page, off) → regRaw t page' off' = regRaw s page' off'

/-- What the receipt of a frame may change before its body takes effect: registers of the IVT and HPT pages, the sessions' sequence state
and what leaves the module (R490-R498). -/
structure Taken (s s1 : State) : Prop where
  same : s1 = { s with regs := s1.regs, host := s1.host, out := s1.out }
  regs : ∀ page off, off < 4096 → page ≠ pgIVT → page ≠ pgHPT → regRaw s1 page off = regRaw s page off
  sess : ∀ i, (sess s1 i).isOpen = (sess s i).isOpen ∧ (sess s1 i).secure = (sess s i).secure
    ∧ (sess s1 i).keySlot = (sess s i).keySlot ∧ (sess s1 i).maxPayload = (sess s i).maxPayload ∧ (sess s1 i).asm = (sess s i).asm

/-- A sequenced frame of an open session that is the next in order and whose header and body are well formed; it acknowledges nothing new
(R491-R498). -/
structure InOrder (s : State) (h : Hdr) (b : FrameBody) : Prop where
  inv : Inv s
  up : ivtUp s = true
  header : headerOk s h (if b = .close then 8192 else (sess s h.session).maxPayload) = true
  body : bodyOk h b = true
  seq : h.seq = (sess s h.session).rx
  early : (sess s h.session).early = []
  ack : h.ack = (sess s h.session).hostAck
  sack : h.sack = none
  payload : 1024 ≤ (sess s h.session).maxPayload

/-- Session `i` has a frame to send or to be acknowledged of a type, with a message number and a payload. -/
def Sends (t : State) (i type : Nat) (payload : Bytes) : Prop :=
  ∃ f ∈ (sess t i).sent, f.type = type ∧ f.last = true ∧ f.payload = payload

/-- The same for the answer to message `msg` of the host. -/
def Answers (t : State) (i type msg : Nat) (payload : Bytes) : Prop :=
  ∃ f ∈ (sess t i).sent, f.type = type ∧ f.reply = true ∧ f.msg = msg ∧ f.last = true ∧ f.payload = payload

/-- Making pages ready and storing the bytes succeeds (R267, R275). -/
def WriteRes.isOk : WriteRes → Bool
  | .ok _ => true
  | .bad | .full => false

/-! ### Macro-ops at work. -/

/-- The macro-op that `ref` names can do its work as OPCODE `op` and SUBOP `sub` (R135): its request is admitted, its leave stands, and `x` is it. -/
abbrev Ready (s : State) (ref : MopRef) (op sub : Nat) (x : Run) : Prop := ready? s ref op (subIs sub) = some x

/-- Every byte that its operands A, B and C read is mapped (R267). -/
abbrev InputsMapped (s : State) (x : Run) : Prop := unmappedInput s x.p (x.inputs s) = none

/-- Macro-op `x` has done its work in `t`. -/
abbrev Worked (t : State) (x : Run) : Prop := stageOf t x.r.id x.i = some .worked

/-- Macro-op `x` has done its work in `t`, and memory is that of `s` with the bytes written by its partition. -/
def Stored (s t : State) (x : Run) (bytes : List (Nat × Byte)) : Prop :=
  ∃ s1, vwrite s (some x.r.id) x.p bytes = .ok s1 ∧ t.mem = s1.mem ∧ t.pool = s1.pool ∧ Worked t x

/-- The command does the macro-op's work, which stores these bytes, wherever they can be written (R267, R275); one of the units needs the same
format controls in every region that runs it, which host software sees to (R71, R219). -/
def Writes (c : Instr) (s : State) (x : Run) (bytes : List (Nat × Byte)) : Prop :=
  (queueOf x.m.opcode = 0 → oneLatch s x = true) → (vwrite s (some x.r.id) x.p bytes).isOk = true → Runs c s fun t => Stored s t x bytes

/-- An element of the tensor at a descriptor address as the macro-op reads it; zero where no tensor is named. -/
def Run.el (s : State) (x : Run) (va : Nat) (ix : List Nat) : Num :=
  if va = 0 then Num.zero else (valAt (x.fmt s) (rdr s x.p) (x.tns s va) ix).1

/-- A line of the tensor along dimension 0, in FP32; none where no tensor is named. -/
def Run.line (s : State) (x : Run) (va : Nat) (rest : List Nat) : Option (List W32) :=
  if va = 0 then none else some (lineOf (x.fmt s) (rdr s x.p) (x.tns s va) rest)

/-- The bytes of OUT when each element takes a value (R41-R58, R124-R127). -/
def Run.outBytes (s : State) (x : Run) (f : List Nat → Num) : List (Nat × Byte) := (writeTensor (x.fmt s) (x.tns s x.m.tdOut) f).bytes

/-- OUT and every input are of integer types (R133). -/
def Run.ints (s : State) (x : Run) : Bool := tyInt (x.tns s x.m.tdOut).td.ty && (x.inputs s).all fun i => tyInt i.2.td.ty

/-- A word as the value of an element: its bits as an INT32, or its FP32 value (R174). -/
def wordNum (ty : Nat) (w : W32) : Num := if ty == tyINT32 then Num.ofInt (signed 32 w.toNat) else f32 w

/-- A layer end has been checked: it is counted, and the pass keeps the ratio that lies furthest from 1 (R90, R110). -/
def Run.counted (s : State) (x : Run) (w : PassW) (cs : List Checked) : State :=
  let worst := (cs.filterMap (·.ratio)).foldl (fun (b : Option W32) q =>
    match b with | some b => if further q b then some q else some b | none => some q) w.worst
  modPass (bumpLead s x.p oRGN_LAYERS_CHECKED 1) x.r.id w.start fun w => { w with worst := worst }

/-! ### What a command may change. -/

/-- The parts of the state: what has left the module, the SCLK count, pins and start-up, fuses and records, the secure store, the register file,
memory, the pool, sequence contexts, the video engines, regions and tallies, requests, power, the host port, links, input, running commands. -/
inductive StatePart where
  | sent | clock | boot | records | keys | registers | memory | pool | contexts | video | regions | requests | power | host | links | input | control
  deriving DecidableEq, Repr

/-- A part is as before. -/
def StatePart.same (q : StatePart) (s t : State) : Prop :=
  match q with
  | .sent => t.out = s.out
  | .clock => t.sclk = s.sclk
  | .boot => t.boot = s.boot
  | .records => t.nv = s.nv
  | .keys => t.sec = s.sec
  | .registers => t.regs = s.regs
  | .memory => t.mem = s.mem
  | .pool => t.pool = s.pool
  | .contexts => t.ctxs = s.ctxs
  | .video => t.video = s.video
  | .regions => t.fab = s.fab
  | .requests => t.sched = s.sched
  | .power => t.power = s.power
  | .host => t.host = s.host
  | .links => t.links = s.links
  | .input => t.inp = s.inp
  | .control => t.ctl = s.ctl

/-- What a command may change that may end a request, after which regions move (R123, R464). -/
def endParts : List StatePart :=
  [.sent, .registers, .memory, .pool, .video, .regions, .requests, .power, .host, .links, .input, .control]

/-- What each command may change. -/
def touches : Instr → List StatePart
  | .hbmTempRead .. | .hbmUncorrectable .. | .flitReceive .. | .windowRead .. | .windowWrite .. | .sftEcc .. | .flashReadFail .. | .tierDeadlineExpiry ..
  | .leaveGrant | .dieTempRead .. | .partitionReset .. | .linkDegraded .. | .linkUncorrectable .. | .bellFault .. | .bellAbort ..
  | .bellVerdict .. | .bellColl .. | .admission .. | .jobFault .. | .mopWaitMet .. | .canaryVerdict .. | .canaryGrad .. | .matmul ..
  | .matmulAdd .. | .convert .. | .add .. | .mul .. | .fma .. | .max .. | .min .. | .fill .. | .reduceSum .. | .reduceMax ..
  | .reduceMin .. | .reduceSumSquares .. | .chain .. | .sfnExp2 .. | .sfnLog2 .. | .sfnRcp .. | .sfnRsqrt .. | .sfnUser .. | .softmax ..
  | .softmaxStats .. | .statsMerge .. | .softmaxApply .. | .layernorm .. | .rmsnorm .. | .normStatsLayer .. | .normStatsRms .. | .attn ..
  | .kvAppend .. | .attnGrad .. | .haulSend .. | .haulAttn .. | .haulGrad .. | .tubChunkReceive .. | .haulTimeout .. | .conv ..
  | .poolMax .. | .poolMin .. | .poolAverage .. | .boxDecodeDistances .. | .boxDecodeCentre .. | .nms .. | .vctxOpen .. | .vctxClose ..
  | .vctxReset .. | .pictureReconstruct .. | .segmentEnd .. | .ringWaitExpiry .. | .segLimitExpiry .. | .vencStart .. | .prepJobStart ..
  | .placeJoinGather .. | .placeJoinSlot .. | .placeLeave .. | .reduceScatter .. | .allGather .. | .bellReduce .. | .bellBarrier ..
  | .bellBcast .. | .reductionClaimGrant .. | .redFallback .. | .collPieceReceive .. | .collTimeout .. | .copy .. | .prefetch ..
  | .pin .. | .unpin .. | .imageWrite .. | .imageSeal .. | .tallySet .. | .tallyAdd .. | .barrier .. | .ckptSave .. | .ckptRestore ..
  | .mapHbm .. | .mapFlash .. | .unmap .. | .mapImage .. | .changeProtection .. => endParts
  | .depEnvelopeWrite .. | .lnkRetrain .. | .rtrCoordWrite .. | .rtrSliceWrite .. | .close .. | .regRead .. | .regWrite .. | .memWrite ..
  | .memRead .. | .submit .. | .attest .. | .schSessWrite .. | .schPartWrite .. | .schTallyWrite .. | .talAdd .. | .polQuotaWrite ..
  | .sftArm .. | .pageLock .. | .evtClr .. | .traceEnable .. | .debugHalt .. => endParts ++ [.boot, .records, .contexts]
  | .modResetDone | .keyWrite .. | .keyErase .. | .cakWrite .. | .fwCommit .. | .svnBurn .. | .transition .. | .laneSpared ..
  | .sessionIdleTimeout .. => [.registers, .host, .control]
  | .exportRecord .. | .importRecord .. | .selfCal .. => [.sent, .boot, .registers, .pool, .host, .control]
  | .ethFrameReceive .. | .pfcFrameReceive .. | .hello .. | .ackTimer .. | .eventFrameSend .. | .pfcPauseExpiry .. => [.sent, .registers, .host]
  | .sramUncorrectable .. => endParts ++ [.keys]
  | .mopComplete .. | .ctxOpen .. | .ctxResize .. | .ctxClose .. | .ctxFill .. | .step .. => endParts ++ [.contexts]
  | .proof .. | .ack .. | .retransmitTimeout .. => [.sent, .registers, .host, .control]
  | .arpRequest .. | .neighbourSolicitation .. | .echoRequest .. => [.sent]
  | .mkaFrameReceive .. | .hostPortStateChange .. | .hptMkaFail => [.sent, .boot, .registers, .host, .control]
  | .regionWake .. | .preemption .. | .regionRestore .. => [.sent, .registers, .memory, .regions, .requests, .power, .host, .links, .control]
  | .clampPaceRise | .grantRelease .. | .sscUpdate => [.registers, .power]
  | .powerSample .. | .depWaitLong .. | .coolantRead .. => [.registers, .power, .host, .control]
  | .tripResume .. => [.sent, .registers, .video, .host, .links, .control]
  | .segmentStart .. | .parseResume .. => [.registers, .video]
  | .powerOn | .bladeUndervoltage | .coldReset =>
    [.clock, .boot, .keys, .registers, .memory, .pool, .contexts, .video, .regions, .requests, .power, .host, .links, .input, .control]
  | .earlyService | .clkRefBack => [.boot, .registers, .host, .control]
  | .resetHoldExpiry .. | .resetNRelease .. => endParts ++ [.clock, .boot, .records, .keys]
  | .csTestRegion .. | .sftSwapped .. => [.registers, .regions, .host, .control]
  | .budgetExpiry .. | .holdExpiry .. => [.registers, .host, .input, .control]
  | .vdec .. | .venc .. => [.video, .requests]
  | .chunkCredit .. | .catchEccDiscard .. => [.registers, .regions]
  | .proofTimeout .. => [.host]
  | .regionPowerOff .. => [.memory, .regions]
  | .frameZeroing .. => [.memory, .pool]
  | .flashWear .. => [.records, .registers, .host, .control]
  | .calDone .. => [.records, .registers, .memory, .pool, .requests, .host, .control]
  | .fullService => [.sent, .boot, .records, .registers, .memory, .regions, .requests, .power, .host, .links, .control]
  | .secCmdDone .. => endParts ++ [.boot, .records, .keys, .contexts]
  | .tamper => endParts ++ [.boot, .records, .keys]
  | .regionCalibration .. => [.sent, .boot, .registers, .memory, .regions, .requests, .power, .host, .links, .control]
  | .warmReset => endParts ++ [.boot, .contexts]
  | .blockSoftReset .. => endParts ++ [.boot]
  | .refclkLost => [.sent, .boot, .registers, .pool, .video, .regions, .host, .control]
  | .debugHalted => [.sent, .registers, .regions, .host, .links, .control]
  | .bellHeld .. => [.sent, .registers, .host, .links, .control]
  | .haulAbort .. => [.sent, .registers, .requests, .links]
  | .requestComplete .. => [.sent, .registers, .video, .requests, .host, .links]
  | .refclkValidWaitEnd => endParts ++ [.clock, .boot, .records, .keys, .contexts]
  | .leaveRequest .. => [.power]
  | .groupTake .. => [.registers, .regions, .requests]
  | .prepJobEnd .. => [.registers, .regions, .requests, .host, .input, .control]
  | .linkBringup .. => [.sent, .registers, .host, .links, .control]
  | .traceRecord => [.registers, .memory, .host, .control]
  | .poolEviction .. => [.registers, .memory, .pool]
  | .hbmTrainingDone .. => [.registers, .memory, .pool, .host, .control]
  | .allocationWaitEnd .. => [.registers, .memory, .pool, .requests]
  | .prep .. => [.requests, .input]

end Sys2Proof.Machine
end

