-- ==== Sys2Proof/Certificates/Slice0/Obligations.lean ====
section
/-! DEFINITION. The statements for the provers. `Runs c s P` says that command `c` answers a next state at `s`, of which `P` holds. -/

open Sys2Proof Sys2Proof.Machine

/-! ### The queue, the idle step, reset and the invariant. -/

/-- A step runs the command at the front of the queue on the state with the queue's rest. -/
def Obligations.StepRunsFrontCommand : Prop :=
  ∀ (s : State) (c : Instr) (rest : List Instr), s.pending = c :: rest → step s = exec c { s with pending := rest }

/-- An empty queue idles: while REFCLK runs after the release of RESET_N, the SCLK count goes on by one, and nothing else changes. The
step that stands for one cycle is the model's choice (log 1). -/
def Obligations.IdleStepCountsOneCycle : Prop :=
  ∀ s : State, s.pending = [] →
    step s = .next { s with sclk := if s.boot.blade && s.boot.pwrGood && s.boot.resetN
      && s.boot.phase ≠ .off && s.boot.phase ≠ .held && s.boot.phase ≠ .refWait then s.sclk + 1 else s.sclk }

/-- At reset every register holds its cold value, no request, session, partition, context or link is in use, no command waits, and the
canonical forms hold. What fuses, records and pins hold is the model's choice (logs 3, 4 and 5). -/
def Obligations.ResetStateIsCold : Prop :=
  State.reset.pending = []
    ∧ (∀ page off, off < 4096 → regRaw State.reset page off = coldReg page off % 2 ^ 64)
    ∧ (∀ a, memGet State.reset a = 0)
    ∧ (∀ p, p < 16 → partValid State.reset p = false)
    ∧ (∀ r, r < 48 → (rgn State.reset r).owner = none ∧ (rgn State.reset r).powered = false)
    ∧ (∀ i, i < 16 → (sess State.reset i).isOpen = false)
    ∧ (∀ t, tally State.reset t = 0)
    ∧ State.reset.sched.reqs = [] ∧ State.reset.ctxs = [] ∧ State.reset.pool.ptes = [] ∧ State.reset.boot.service = 0

/-- The canonical forms and the lengths hold at reset. -/
def Obligations.InvariantHoldsAtReset : Prop := Inv State.reset

/-- Every step from every state that meets the invariant keeps it: memory, registers and tallies stay in canonical form, and there stay 48
regions, 16 sessions, 12 stacks and 16 user tables. -/
def Obligations.EveryStepKeepsInvariant : Prop :=
  ∀ s s' : State, Inv s → step s = .next s' → Inv s'

/-! ### Start-up: power, cold reset and cold start (R543, R549, R552, R590, R596). -/

/-- What a cold reset leaves of a state (R549): fuses, records, images and firmware slots stay, HBM contents are lost, registers are cold,
and sessions, requests, partitions, contexts and tallies are gone. -/
structure ColdLoss (s t : State) : Prop where
  nv : t.nv = s.nv
  regs : t.regs = []
  hbm : ∀ a, a < flashBase 0 → memGet t a = 0
  flash : ∀ a, flashBase 0 ≤ a → memGet t a = memGet s a
  pool : t.pool = {}
  ctxs : t.ctxs = []
  sec : t.sec = {}
  video : t.video = {}
  fab : t.fab = {}
  sched : t.sched = {}
  power : t.power = {}
  host : t.host = {}
  links : t.links = {}
  inp : t.inp = {}
  ctl : t.ctl = {}

/-- POWER_ON, BLADE_UNDERVOLTAGE and COLD_RESET enter cold reset. -/
def Obligations.PowerAndColdResetCommandsRun : Prop :=
  (∀ s : State, Inv s → (s.boot.blade && s.boot.pwrGood) = false →
    Runs .powerOn s fun t => ColdLoss s t ∧ t.boot.blade = true ∧ t.boot.pwrGood = true ∧ t.boot.holdDone = false ∧ t.boot.phase = .held)
  ∧ (∀ s : State, Inv s →
    Runs .bladeUndervoltage s fun t => ColdLoss s t ∧ t.boot.blade = false ∧ t.boot.pwrGood = false ∧ t.boot.phase = .off)
  ∧ (∀ s : State, Inv s → s.boot.pwrGood = true →
    Runs .coldReset s fun t => ColdLoss s t ∧ t.boot.resetN = false ∧ t.boot.phase = .held)

/-- The cold start has reached step 5 (R543, R552): the SCLK count starts, the accepted slot of highest GENERATION runs, slots refused
before it are counted, the secure store is loaded from the key store, and region 0 of each die is awake. -/
structure ColdStarted (s t : State) (k : Nat) : Prop where
  running : t.boot.phase = .running
  slot : t.boot.fwSlot = k ∧ t.boot.fw = nth s.nv.fw k {}
  sclk : t.sclk = 0
  refused : regRaw t pgSEC oSEC_BOOT_FAILS = ((slotOrder s).takeWhile (· ≠ k)).length
  sec : t.sec = (loadKeys t).sec
  region0 : ∀ d, d < 12 → (rgn t (4 * d)).powered = true
  others : ∀ r, r < 48 → r % 4 ≠ 0 → rgn t r = rgn s r

/-- The module is ready to start: the tamper loop is closed or not armed, the module is not scrapped, and slot `k` is the first that the
boot ROM accepts. -/
structure ReadyToStart (s : State) (k : Nat) : Prop where
  inv : Inv s
  loop : s.boot.loopOpen = false ∨ loopArmed s = false
  live : s.nv.scrapFuse = false ∧ s.nv.life.state ≠ 4
  slot : (slotOrder s).find? (fun k => slotAccepted s (nth s.nv.fw k {})) = some k

/-- RESET_HOLD_EXPIRY, RESET_N_RELEASE and REFCLK_VALID_WAIT_END run the cold start, whichever of them comes last. A cold start without REFCLK
waits for it (R596), and one in which the boot ROM accepts neither slot runs no firmware and counts both (R552). -/
def Obligations.ColdStartCommandsRun : Prop :=
  (∀ (s : State) (k slot : Nat), ReadyToStart s k → s.boot.resetN = false → s.boot.phase = .held → s.boot.pwrGood = true →
      s.boot.holdDone = true → s.boot.refclk = true →
    Runs (.resetNRelease slot) s fun t => ColdStarted s t k ∧ t.boot.resetN = true ∧ t.boot.slotId = slot % 16)
  ∧ (∀ (s : State) (k : Nat), ReadyToStart s k → s.boot.phase = .held → s.boot.pwrGood = true → s.boot.holdDone = false →
      s.boot.resetN = true → s.boot.refclk = true →
    Runs (.resetHoldExpiry false) s fun t => ColdStarted s t k ∧ t.boot.holdDone = true)
  ∧ (∀ (s : State) (k : Nat), ReadyToStart s k → s.boot.phase = .refWait →
    Runs .refclkValidWaitEnd s fun t => ColdStarted s t k ∧ t.boot.refclk = true)
  ∧ (∀ (s : State) (slot : Nat), s.boot.resetN = false → s.boot.phase = .held → s.boot.pwrGood = true → s.boot.holdDone = true →
      s.boot.refclk = false →
    Runs (.resetNRelease slot) s fun t => t.boot.phase = .refWait ∧ t.regs = s.regs ∧ t.mem = s.mem ∧ t.nv = s.nv)
  ∧ (∀ (s : State) (slot : Nat), Inv s → s.boot.loopOpen = false → s.boot.resetN = false → s.boot.phase = .held → s.boot.pwrGood = true →
      s.boot.holdDone = true → s.boot.refclk = true →
      (∀ k, k < 2 → slotAccepted s (nth s.nv.fw k {}) = false) →
    Runs (.resetNRelease slot) s fun t => t.boot.phase = .noFirmware ∧ regRaw t pgSEC oSEC_BOOT_FAILS = 2 ∧ alertLine t = true)

/-- EARLY_SERVICE and FULL_SERVICE raise the level of service and its event; full service waits until every region is calibrated and its
cluster stores tested, or is fenced, every stack trained or fenced, and no port in training (R238, R544, R566). A region calibrated is powered and
settles at its trim; one that fails is fenced, counted, and belongs to no partition (R546). Which stores full service does not wait for, and that fuses burnt already raise nothing, are
the model's readings (logs 119 and 121). -/
def Obligations.ServiceAndCalibrationRun : Prop :=
  (∀ s : State, Inv s → serving s = true → s.boot.service = 0 →
    Runs .earlyService s fun t => t.boot = { s.boot with service := 1 } ∧ Raised t pgCAL 1 ∧ t.mem = s.mem ∧ t.fab = s.fab ∧ t.nv = s.nv)
  ∧ (∀ s : State, Inv s → serving s = true → s.boot.service = 1 → fullReady s = true → s.nv.cal.ok = true → fldGet s pgSEC oSEC_CTRL 0 0 = 0 →
    Runs .fullService s fun t => t.boot = { s.boot with service := 2 } ∧ Raised t pgCAL 2 ∧ t.nv = s.nv)
  ∧ (∀ s : State, Inv s → serving s = true → s.boot.service = 1 → fullReady s = true → s.nv.cal.ok = true → fldGet s pgSEC oSEC_CTRL 0 0 = 1 →
    Runs .fullService s fun t => t.boot.service = 2 ∧ (t.nv ≠ s.nv → Raised t pgSEC 3)
      ∧ t.nv.svnFuse = Nat.max s.nv.svnFuse s.boot.fw.svn ∧ t.nv.revoked = Nat.lor s.nv.revoked s.boot.fw.revoke)
  ∧ (∀ (s : State) (r : Nat) (trim : Int), r < 48 →
    Runs (.regionCalibration r true trim) s fun t =>
      r ∈ t.boot.calibrated ∧ (r, trim) ∈ t.boot.trims
        ∧ t = { modRgn s r fun x => { x with powered := true } with boot := t.boot })
  ∧ (∀ (s : State) (r : Nat) (trim : Int), Inv s → r < 48 →
    Runs (.regionCalibration r false trim) s fun t =>
      bit (regRaw t pgCAL oCAL_FENCED) r = true ∧ Raised t pgCAL 3
        ∧ regRaw t pgCAL oCAL_KAT_FAILS = Nat.min (regRaw s pgCAL oCAL_KAT_FAILS + 1) (2 ^ 64 - 1)
        ∧ (rgn t r).owner = none ∧ (rgn t r).powered = false ∧ ∀ p, p < 16 → partClaim t p r = false)

/-! ### Memories, their tests and repairs, flash and the pool (R205, R235-R261, R269, R275-R277). -/

/-- A stack whose lanes pass joins the pool zeroed, with its repairs and spare lanes shown; one that fails its third attempt is fenced (R250-R252).
A reading of a stack is shown; above THRESH the throttle goes one step further, to six of eight at most; at the critical temperature the stack
refreshes itself and the jobs of the partitions in it end (R255-R257). -/
def Obligations.HbmStackCommandsRun : Prop :=
  (∀ (s : State) (d repairs spares : Nat), Inv s → d < 12 → fenced s d = false → inPool s d = false →
    Runs (.hbmTrainingDone d true repairs spares) s fun t =>
      inPool t d = true ∧ fldGet t (pgHBM + d) oHBM_STAT 31 24 = repairs % 256 ∧ fldGet t (pgHBM + d) oHBM_STAT 23 16 = Nat.min spares 64
        ∧ (∀ a, hbmBase d ≤ a → a < hbmBase (d + 1) → memGet t a = 0)
        ∧ (∀ a, a < hbmBase d ∨ hbmBase (d + 1) ≤ a → memGet t a = memGet s a)
        ∧ t = { s with regs := t.regs, mem := t.mem })
  ∧ (∀ (s : State) (d repairs spares : Nat), Inv s → d < 12 → fenced s d = false → inPool s d = false →
      2 ≤ (nth s.pool.hbms d {}).attempts →
    Runs (.hbmTrainingDone d false repairs spares) s fun t =>
      fenced t d = true ∧ inPool t d = false ∧ Raised t (pgHBM + d) 5 ∧ t.mem = s.mem)
  ∧ (∀ (s : State) (d repairs spares : Nat), d < 12 → fenced s d = false → inPool s d = false →
      (nth s.pool.hbms d {}).attempts < 2 →
    Runs (.hbmTrainingDone d false repairs spares) s fun t => t = modStack s d fun x => { x with attempts := x.attempts + 1 })
  ∧ (∀ (s : State) (d temp : Nat), Inv s → d < 12 → temp < 256 →
      fldGet s (pgHBM + d) oHBM_CTRL 15 8 - early2 s < temp → temp < fldGet s (pgHBM + d) oHBM_CTRL 23 16 - early2 s →
    Runs (.hbmTempRead d temp) s fun t =>
      fldGet t (pgHBM + d) oHBM_STAT 7 0 = temp
        ∧ fldGet t (pgHBM + d) oHBM_STAT 10 8 = Nat.min 6 (fldGet s (pgHBM + d) oHBM_STAT 10 8 + 1)
        ∧ (fldGet s (pgHBM + d) oHBM_STAT 10 8 = 0 → Raised t (pgHBM + d) 1)
        ∧ t.mem = s.mem ∧ t.sched = s.sched)
  ∧ (∀ (s : State) (d temp : Nat), Inv s → d < 12 → fldGet s (pgHBM + d) oHBM_CTRL 23 16 - early2 s ≤ temp →
      (nth s.pool.hbms d {}).hot = false →
    Runs (.hbmTempRead d temp) s fun t =>
      (nth t.pool.hbms d {}).hot = true ∧ Raised t (pgHBM + d) 3 ∧ ∀ p, p ∈ partsInStack s d → JobOver s t p)

/-- An uncorrectable error of HBM, of an on-chip memory (at an address, in a side array, or in a spare bank) or of a table bank is counted, raises its
event and ends the job of each partition concerned; one of the secure store wipes it; one in a catch entry is counted, its chunk is fetched
again as on a miss, and nothing else happens (R205, R242, R244-R246, R258). -/
def Obligations.UncorrectableErrorsRun : Prop :=
  (∀ (s : State) (pa p : Nat), Inv s → pa < 12 * hbmSize → serving s = true → p ∈ partsOnPage s pa →
    Runs (.hbmUncorrectable pa) s fun t =>
      CountedOnce s t (pgHBM + pa / hbmSize) oHBM_UNCORR ∧ Raised t (pgHBM + pa / hbmSize) 4 ∧ JobOver s t p)
  ∧ (∀ (s : State) (site : SramSite) (r p : Nat), Inv s → r < 48 →
      (match site with
        | .at pa => windowRgn pa = some r
        | .side u => clusterRgn (u / 16) = r
        | .spare c => clusterRgn c = r
        | .secure => False) →
      (rgn s r).powered = true → (rgn s r).owner = some p →
    Runs (.sramUncorrectable site) s fun t => CountedOnce s t (rgnPage r) oRGN_ECC_UNCORR ∧ Raised t (rgnPage r) 42 ∧ JobOver s t p)
  ∧ (∀ s : State, Runs (.sramUncorrectable .secure) s fun t => t = { s with sec := {} })
  ∧ (∀ (s : State) (c i : Nat), Inv s → c < 576 → (rgn s (clusterRgn c)).powered = true →
    Runs (.catchEccDiscard ⟨c, i⟩) s fun t =>
      t = { s with regs := t.regs, fab := { s.fab with kept := t.fab.kept } }
        ∧ CountedOnce s t (rgnPage (clusterRgn c)) oRGN_ECC_UNCORR ∧ CountedOnce s t (rgnPage (clusterRgn c)) oRGN_CATCH_MISSES
        ∧ (∀ e, (s.fab.kept.filter (·.cluster == c))[i]? = some e → t.fab.kept = s.fab.kept.erase e ++ [e])
        ∧ ((s.fab.kept.filter (·.cluster == c)).length ≤ i → t.fab.kept = s.fab.kept))
  ∧ (∀ (s : State) (r p l : Nat), Inv s → r < 48 → (rgn s r).owner = some p → leadRgn s p = some l →
    Runs (.sftEcc r) s fun t => Raised t (rgnPage l) 27 ∧ JobOver s t p)

/-- The background test of a store begins on its next test region, which the registers name and the spare bank serves, and ends on it: with no failing
word it goes on to the next test region; a failing word takes a redundant word of its bank, is counted and raises its event; with no redundant
word left the test stops and its event is raised; corrected reads are counted (R236-R240, R243). That the beginning and the end are two commands
is the model's choice (log 113). -/
def Obligations.BackgroundTestRuns : Prop :=
  (∀ (s : State) (c : Nat), Inv s → c < 576 → (rgn s (clusterRgn c)).powered = true → (rgn s (clusterRgn c)).waking = false →
      (rgn s (clusterRgn c)).halted = false → (rgn s (clusterRgn c)).restoring = false →
      (rgn s (clusterRgn c)).testing.contains (c % 12) = false → (rgn s (clusterRgn c)).exhausted.contains (c % 12) = false →
      bit (memCtl s (clusterRgn c)) 24 = true → nth (rgn s (clusterRgn c)).testPos (c % 12) 0 < 512 →
    ∀ f, Runs (.csTestRegion c f) s fun t =>
      spareHolds t c = some (nth (rgn s (clusterRgn c)).testPos (c % 12) 0 / 8, nth (rgn s (clusterRgn c)).testPos (c % 12) 0 % 8)
        ∧ fldGet t (rgnPage (clusterRgn c)) oRGN_MEM_STAT 27 24 = c % 12
        ∧ fldGet t (rgnPage (clusterRgn c)) oRGN_MEM_STAT 14 9 = nth (rgn s (clusterRgn c)).testPos (c % 12) 0 / 8
        ∧ fldGet t (rgnPage (clusterRgn c)) oRGN_MEM_STAT 8 6 = nth (rgn s (clusterRgn c)).testPos (c % 12) 0 % 8
        ∧ t.mem = s.mem)
  ∧ (∀ (s : State) (c n : Nat), Inv s → c < 576 → (rgn s (clusterRgn c)).powered = true → (rgn s (clusterRgn c)).waking = false →
      (rgn s (clusterRgn c)).testing.contains (c % 12) = true → (rgn s (clusterRgn c)).testPos.length = 12 →
    Runs (.csTestRegion c ⟨[], n⟩) s fun t =>
      nth (rgn t (clusterRgn c)).testPos (c % 12) 0 = (nth (rgn s (clusterRgn c)).testPos (c % 12) 0 + 1) % 512
        ∧ (rgn t (clusterRgn c)).testing.contains (c % 12) = false
        ∧ regRaw t (rgnPage (clusterRgn c)) oRGN_ECC_CORR = Nat.min (regRaw s (rgnPage (clusterRgn c)) oRGN_ECC_CORR + n) (2 ^ 64 - 1)
        ∧ (nth (rgn s (clusterRgn c)).testPos (c % 12) 0 = 511 →
          CountedOnce s t (rgnPage (clusterRgn c)) oRGN_TEST_PASSES ∧ c % 12 ∈ (rgn t (clusterRgn c)).tested)
        ∧ t.mem = s.mem)
  ∧ (∀ (s : State) (c w : Nat), Inv s → c < 576 → w < 128 → (rgn s (clusterRgn c)).powered = true →
      (rgn s (clusterRgn c)).waking = false → (rgn s (clusterRgn c)).testing.contains (c % 12) = true →
    Runs (.csTestRegion c ⟨[w], 0⟩) s fun t =>
      (sparesOf (rgn s (clusterRgn c)) (64 * (c % 12) + nth (rgn s (clusterRgn c)).testPos (c % 12) 0 / 8) < 16 →
        CountedOnce s t (rgnPage (clusterRgn c)) oRGN_REPAIRS ∧ Raised t (rgnPage (clusterRgn c)) 40)
        ∧ (16 ≤ sparesOf (rgn s (clusterRgn c)) (64 * (c % 12) + nth (rgn s (clusterRgn c)).testPos (c % 12) 0 / 8) →
          Raised t (rgnPage (clusterRgn c)) 41 ∧ (rgn t (clusterRgn c)).exhausted.contains (c % 12) = true
            ∧ regRaw t (rgnPage (clusterRgn c)) oRGN_REPAIRS = regRaw s (rgnPage (clusterRgn c)) oRGN_REPAIRS))

/-- A region wakes with its memories cleared to zero, and goes off cleared (R235). A word that fails the march of a waking region takes a redundant
word of its bank, is counted and raises its event; with none left the region is fenced (R241). A region taken for a partition that has no saved
state in it passes with its memories cleared, and a restore changes no byte of HBM (R475, R477). -/
def Obligations.RegionPowerRuns : Prop :=
  (∀ (s : State) (r : Nat), Inv s → r < 48 → (rgn s r).waking = true →
    Runs (.regionWake r []) s fun t =>
      (rgn t r).powered = true ∧ (rgn t r).waking = false ∧ (rgn t r).owner = (rgn s r).owner
        ∧ (∀ a, windowRgn a = some r → memGet t a = 0) ∧ (∀ a, windowRgn a ≠ some r → memGet t a = memGet s a)
        ∧ t.regs = s.regs)
  ∧ (∀ (s : State) (r bank : Nat), Inv s → r < 48 → (rgn s r).waking = true → bank < 9216 →
      sparesOf (rgn s r) (1000 + bank) < 8 →
    Runs (.regionWake r [bank]) s fun t =>
      (rgn t r).powered = true ∧ (rgn t r).waking = false ∧ CountedOnce s t (rgnPage r) oRGN_REPAIRS ∧ Raised t (rgnPage r) 40
        ∧ ∀ a, windowRgn a = some r → memGet t a = 0)
  ∧ (∀ (s : State) (r bank : Nat), Inv s → r < 48 → (rgn s r).waking = true → bank < 9216 →
      8 ≤ sparesOf (rgn s r) (1000 + bank) →
    Runs (.regionWake r [bank]) s fun t =>
      Raised t (rgnPage r) 41 ∧ bit (regRaw t pgCAL oCAL_FENCED) r = true ∧ Raised t pgCAL 3 ∧ (rgn t r).owner = none)
  ∧ (∀ (s : State) (p r : Nat), Inv s → serving s = true → partBusy s p = true → r < 48 → (rgn s r).takenFor = some p →
      (rgn s r).haltDbg = false → (∀ v ∈ (rgn s r).saved, v.part ≠ p) → (∀ q, (rgn s r).owner = some q → q ≠ p) →
    Runs (.preemption p) s fun t => (rgn t r).owner = some p ∧ ∀ a, windowRgn a = some r → memGet t a = 0)
  ∧ (∀ (s : State) (r : Nat) (v : Saved), Inv s → serving s = true → r < 48 → (rgn s r).restoring = true → v.slot < 3 →
      (rgn s r).saved.reverse.find? (fun v => (rgn s r).owner == some v.part) = some v → partBusy s v.part = true →
    Runs (.regionRestore r) s fun t => (rgn t r).halted = false ∧ ∀ a, a < 12 * hbmSize → memGet t a = memGet s a)
  ∧ (∀ (s : State) (r : Nat), Inv s → r < 48 → (rgn s r).owner = none → (rgn s r).powered = true →
    Runs (.regionPowerOff r) s fun t =>
      (rgn t r).powered = false
        ∧ (∀ a, windowRgn a = some r → memGet t a = 0) ∧ (∀ a, windowRgn a ≠ some r → memGet t a = memGet s a)
        ∧ t.regs = s.regs)

/-- Flash: spares falling below 1 % raise FLS_WEAR, spares used up make a stack read-only; a read that fails for good, or one that comes
too late, ends its request with ST_TIER_FAIL, as does a wait on an eviction that lasts too long, and a wait on HBM room that no eviction is making
ends it with ST_NO_RESERVATION. A read for a request that has ended fails its returns, and one for a session its next access that needs flash
(R260, R261, R275, R277, R505, R510). -/
def Obligations.FlashCommandsRun : Prop :=
  (∀ (s : State) (n spare wear : Nat), Inv s → n < 4 → 0 < spare → spare < 100 → nth s.nv.wearRaised n true = false →
    Runs (.flashWear n ⟨spare, wear⟩) s fun t => Raised t (pgFLS + n) 1 ∧ t.nv.flashReadOnly = s.nv.flashReadOnly ∧ t.mem = s.mem)
  ∧ (∀ (s : State) (n wear : Nat), Inv s → n < 4 → nth s.nv.flashReadOnly n true = false →
    Runs (.flashWear n ⟨0, wear⟩) s fun t => nth t.nv.flashReadOnly n false = true ∧ Raised t (pgFLS + n) 2 ∧ t.mem = s.mem)
  ∧ (∀ (s : State) (id n : Nat) (r : Request), Inv s → n < 4 → serving s = true → req? s id = some r → r.st = .admitted →
      r.begun = true →
    Runs (.flashReadFail (.request id) n) s fun t =>
      EndedWith t id stTierFail ∧ CountedOnce s t (pgFLS + n) oFLS_READ_FAIL ∧ CountedOnce s t pgPOL oPOL_TIER_FAILS ∧ Raised t pgPOL 1)
  ∧ (∀ (s : State) (id n : Nat) (r : Request), Inv s → n < 4 → req? s id = some r → r.st = .admitted → r.begun = true →
      (∀ m ∈ r.mops, m.memWait = none) ∨ evicting s r.part = true →
    Runs (.tierDeadlineExpiry (.request id) n) s fun t =>
      EndedWith t id stTierFail ∧ CountedOnce s t (pgFLS + n) oFLS_LATE ∧ CountedOnce s t pgPOL oPOL_TIER_FAILS ∧ Raised t pgPOL 1)
  ∧ (∀ (s : State) (id n : Nat) (r : Request), Inv s → n < 4 → req? s id = some r → r.st = .admitted → r.begun = true →
      (∃ m ∈ r.mops, m.memWait ≠ none) → evicting s r.part = false →
    Runs (.tierDeadlineExpiry (.request id) n) s fun t => EndedWith t id stNoReservation)
  ∧ (∀ (s : State) (id n : Nat) (r : Request), Inv s → n < 4 → serving s = true → req? s id = some r → r.st = .ended → r.status ≤ 9 →
      r.retFail = false → (∃ e ∈ r.rets, needsFlash s r.part e.addr e.len = true) →
    Runs (.flashReadFail (.request id) n) s fun t =>
      (∃ q, req? t id = some q ∧ q.retFail = true ∧ q.st = .ended ∧ q.status = r.status) ∧ CountedOnce s t pgPOL oPOL_TIER_FAILS ∧ Raised t pgPOL 1)
  ∧ (∀ (s : State) (i n : Nat), Inv s → n < 4 → serving s = true → i < 16 → (sess s i).isOpen = true →
    Runs (.flashReadFail (.session i) n) s fun t =>
      t = { s with regs := t.regs, host := t.host } ∧ (sess t i).readFail = true ∧ CountedOnce s t (pgFLS + n) oFLS_READ_FAIL)

/-- The pool drops the oldest unpinned CLEAN page of a partition above its quota to its flash copy, and takes W from the oldest dirty one
first; a wait on room ends once there is room; a freed frame is zeroed (R269, R275, R276). -/
def Obligations.PoolCommandsRun : Prop :=
  (∀ (s : State) (p h : Nat) (e : Pte) (es : List Pte), Inv s → p < 16 →
      s.pool.ptes.find? (fun e => e.owner == p && e.evicting) = none → quotaH s p < hbmUse s p →
      evictable s p = e :: es → e.clean = true → e.home = some h →
    Runs (.poolEviction p) s fun t =>
      (∃ x ∈ t.pool.ptes, x.space = e.space ∧ x.va = e.va ∧ x.flash = true ∧ x.pa = h)
        ∧ CountedOnce s t pgPOL oPOL_EVICTIONS ∧ t.mem = s.mem)
  ∧ (∀ (s : State) (p : Nat) (e : Pte) (es : List Pte), p < 16 →
      s.pool.ptes.find? (fun e => e.owner == p && e.evicting) = none → quotaH s p < hbmUse s p →
      evictable s p = e :: es → e.clean = false → (evictPage s p e).isSome = true →
    Runs (.poolEviction p) s fun t => t = modPte s e.space e.va fun x => { x with evicting := true })
  ∧ (∀ (s : State) (id : Nat) (r : Request), req? s id = some r → hbmUse s r.part + Config.pageSmall ≤ quotaH s r.part →
    Runs (.allocationWaitEnd id) s fun t =>
      ∃ r', req? t id = some r' ∧ (∀ m ∈ r'.mops, m.memWait = none) ∧ r'.st = r.st ∧ t.mem = s.mem ∧ t.regs = s.regs)
  ∧ (∀ (s : State) (pa : Nat) (small : Bool), Inv s → s.pool.dirty.find? (·.1 == pa) = some (pa, small) →
    Runs (.frameZeroing pa) s fun t =>
      (∀ x ∈ t.pool.dirty, x.1 ≠ pa)
        ∧ (∀ a, pa ≤ a → a < pa + (if small then Config.pageSmall else Config.pageLarge) → memGet t a = 0)
        ∧ (∀ a, a < pa ∨ pa + (if small then Config.pageSmall else Config.pageLarge) ≤ a → memGet t a = memGet s a)
        ∧ t.pool.ptes = s.pool.ptes ∧ t.regs = s.regs)

/-! ### Leave to draw, heat and clocks (R516-R542). -/

/-- The supply of a region above its idle floor (R524). -/
def aboveFloor (s : State) (u : Supply) (r : Nat) : Nat := nth u.regions r 0 - nth s.power.floors r 0

/-- Readings of a microsecond: the draw and its average are kept; the baseline is no less than BASE_MIN nor than the draw less what the grants draw, and
with no grant held it is the largest draw of the last millisecond; a grant that holds its regions alone draws their supply above their idle
floors, and a region that runs no tile sets its floor; a draw above the envelope lowers the power pace of
every die that holds a grant by one sixteenth, to no less than one; a quiet span raises every pace by one (R517, R524, R525, R527). Leave: a macro-op of
class 1 to 15 asks with the estimate of its class, the request of highest rank is granted when it fits and its macro-op goes on to step 4, and an
ended grant moves the estimate (R136, R519-R523, R526). -/
def Obligations.PaceAndLeaveCommandsRun : Prop :=
  (∀ (s : State) (draw avg : Nat) (u : Supply), draw ≤ fldGet s pgDEP oDEP_ENVELOPE 11 0 → clamped s = false →
    Runs (.powerSample draw u avg) s fun t =>
      t = { s with power := t.power } ∧ t.power.draw = draw ∧ t.power.avg = avg
        ∧ fldGet s pgDEP oDEP_CTRL 47 32 ≤ t.power.baseline
        ∧ (s.power.leaves = [] → t.power.baseline = Nat.max (maxNat ((draw :: s.power.bases).take 1000)) (fldGet s pgDEP oDEP_CTRL 47 32))
        ∧ t.power.leaves.map (fun l => (l.req, l.mop, l.got, l.want, l.waits)) = s.power.leaves.map fun l => (l.req, l.mop, l.got, l.want, l.waits))
  ∧ (∀ (s : State) (draw avg : Nat) (u : Supply) (l : Leave), s.power.leaves = [l] → l.modwide = false → l.each ≠ 0 →
      (∀ r ∈ l.got, runsNoTile s r = false) → l.got.Nodup → (∀ r ∈ l.got, r < 48) →
    Runs (.powerSample draw u avg) s fun t =>
      ∃ l', t.power.leaves = [l'] ∧ l'.draws = (sumNat (l.got.map (aboveFloor s u)) :: l.draws).take 10
        ∧ draw - sumNat (l.got.map (aboveFloor s u)) / 1000 ≤ t.power.baseline)
  ∧ (∀ (s : State) (draw avg r : Nat) (u : Supply), r < 48 → runsNoTile s r = true →
    Runs (.powerSample draw u avg) s fun t => nth t.power.floors r 0 = nth u.regions r 0)
  ∧ (∀ (s : State) (draw avg : Nat) (u : Supply), Inv s → fldGet s pgDEP oDEP_ENVELOPE 11 0 < draw →
    Runs (.powerSample draw u avg) s fun t =>
      (∀ d ∈ grantedDies s, paceP t d = Nat.max 1 (paceP s d - 1))
        ∧ (∀ d, d < 12 → d ∉ grantedDies s → paceP t d = paceP s d)
        ∧ ((∃ d ∈ grantedDies s, paceP s d ≤ 16) → s.power.clamping = false → Raised t pgDEP 1)
        ∧ t.mem = s.mem ∧ t.sched = s.sched)
  ∧ (∀ s : State, Inv s →
    Runs .clampPaceRise s fun t => ∀ d, d < 12 → paceP t d = Nat.min 16 (paceP s d + 1) ∧ paceT t d = paceT s d)
  ∧ (∀ (s : State) (m : MopRef) (x : Run), run? s m = some x → serving s = true → x.st.stage = .leave →
      s.power.leaves.any (fun l => l.req == m.req && l.mop == m.idx) = false →
    Runs (.leaveRequest m) s fun t =>
      ∃ l, t = { s with power := { s.power with leaves := s.power.leaves ++ [l] } } ∧ l.req = x.r.id ∧ l.mop = m.idx ∧ l.prio = x.r.prio
        ∧ l.age = now s ∧ l.cls = x.m.cls ∧ l.modwide = asksModwide x.m ∧ l.each = estimate s (asksModwide x.m) x.m.cls
        ∧ l.waits = true ∧ l.want = partRgns s x.p ∧ l.got = [])
  ∧ (∀ (s : State) (l : Leave) (ls : List Leave) (rs : List Nat) (x : Run), Inv s → waitingLeaves s = l :: ls → serving s = true →
      s.power.leaves.find? (fun x => x.req == l.req && x.mop == l.mop) = some l → grantable s l = some rs →
      run? s ⟨l.req, l.mop⟩ = some x → x.st.stage = .leave → x.m.opcode ≠ 0x38 →
    Runs .leaveGrant s fun t =>
      CountedOnce s t pgDEP oDEP_GRANTS ∧ stageOf t l.req l.mop = some .granted
        ∧ (∃ l' ∈ t.power.leaves, l'.req = l.req ∧ l'.mop = l.mop ∧ l'.waits = (!l.modwide && decide (rs.length < l.want.length))
          ∧ l'.want = l.want.drop rs.length)
        ∧ t.mem = s.mem)
  ∧ (∀ (s : State) (m : MopRef) (o us : Nat) (e : Ended), Inv s →
      s.power.ended.find? (fun e => e.req == m.req && e.mop == m.idx) = some e → 10 ≤ us → 1 ≤ e.cls → e.cls < 16 →
    Runs (.grantRelease m o us) s fun t =>
      estimate t e.modwide e.cls = newEstimate e.modwide (estimate s e.modwide e.cls) (e.peak.getD o) ∧ t.mem = s.mem ∧ t.sched = s.sched)
  ∧ (∀ (s : State) (m : MopRef), Inv s → fldGet s pgDEP oDEP_CTRL 31 0 ≠ 0 →
      s.power.leaves.any (fun l => l.req == m.req && l.mop == m.idx && l.waits && !l.warned) = true →
    Runs (.depWaitLong m) s fun t => Raised t pgDEP 2 ∧ t.mem = s.mem ∧ t.sched = s.sched)

/-- Heat of a die: at 105 °C it trips, is counted, raises THM_TRIP and the jobs on it end; the tenth reading at or above STRETCH_T lowers its
thermal pace by two, to no less than two; a tripped die resumes at a pace of two (R529-R531). The coolant is shown and its excursion raises
THM_COOLANT once; a write of CLK_CTRL takes effect at the turn of the triangle; a lost REFCLK stops the module and one that returns raises
CLK_REF_BACK (R532, R535, R538, R539). -/
def Obligations.HeatAndClockCommandsRun : Prop :=
  (∀ (s : State) (d temp p : Nat), Inv s → d < 12 → temp < 256 → dieTripped s d = false → 105 ≤ temp + early2 s →
      (partRgns s p).any (fun r => dieOf r == d) = true → p < 16 →
    Runs (.dieTempRead d temp) s fun t =>
      dieTripped t d = true ∧ diePace t d = 0 ∧ CountedOnce s t pgTHM oTHM_TRIPS ∧ Raised t pgTHM 2
        ∧ fldGet t pgTHM (oTHM_DIE + 8 * d) 7 0 = temp ∧ JobOver s t p)
  ∧ (∀ (s : State) (d temp p : Nat), Inv s → 12 ≤ d → d < 14 → temp < 256 → dieTripped s d = false → 105 ≤ temp + early2 s →
      s.video.stopped.length = 2 → p < 16 → partValid s p = true →
    Runs (.dieTempRead d temp) s fun t =>
      dieTripped t d = true ∧ nth t.video.stopped (d - 12) false = true ∧ CountedOnce s t pgTHM oTHM_TRIPS ∧ Raised t pgTHM 2
        ∧ fldGet t pgTHM (oTHM_DIE + 8 * d) 7 0 = temp ∧ JobOver s t p)
  ∧ (∀ (s : State) (d temp : Nat), Inv s → d < 14 → temp < 256 → dieTripped s d = false → temp + early2 s < 105 →
      fldGet s pgTHM oTHM_CTRL 7 0 - early2 s ≤ temp → nth s.power.hot d 0 = 9 → s.power.hot.length = 14 →
    Runs (.dieTempRead d temp) s fun t =>
      paceT t d = Nat.max 2 (paceT s d - 2) ∧ fldGet t pgTHM (oTHM_DIE + 8 * d) 7 0 = temp ∧ (paceT s d = 16 → Raised t pgTHM 1)
        ∧ t.mem = s.mem ∧ t.sched = s.sched)
  ∧ (∀ (s : State) (d : Nat), Inv s → d < 14 → dieTripped s d = true →
    Runs (.tripResume d) s fun t => dieTripped t d = false ∧ paceT t d = 2 ∧ t.mem = s.mem ∧ t.sched = s.sched)
  ∧ (∀ (s : State) (i o : Nat), Inv s → i < 256 → o < 256 →
    Runs (.coolantRead i o) s fun t =>
      regRaw t pgTHM oTHM_COOLANT = o * 256 + i ∧ t.power.coolant = (i < 15 || i > 40 || o > i + 20)
        ∧ ((i < 15 ∨ 40 < i ∨ i + 20 < o) → s.power.coolant = false → Raised t pgTHM 3) ∧ t.mem = s.mem ∧ t.sched = s.sched)
  ∧ (∀ (s : State) (v : Nat), Inv s → s.power.pendingClk = some v →
    Runs .sscUpdate s fun t => regRaw t pgCLK oCLK_CTRL = v % 2 ^ 64 ∧ t.power.pendingClk = none ∧ t.mem = s.mem ∧ t.sched = s.sched)
  ∧ (∀ s : State, Inv s → s.boot.phase = .running → fldGet s pgCLK oCLK_STAT 0 0 = 0 →
    Runs .refclkLost s fun t =>
      fldGet t pgCLK oCLK_STAT 0 0 = 1 ∧ CountedOnce s t pgCLK oCLK_REF_LOSSES ∧ Raised t pgCLK 1 ∧ serving t = false
        ∧ t.host.state = 0 ∧ (∀ port, port < 6 → portState t port = 0)
        ∧ (∀ r, r < 48 → (rgn t r).haltAll = true) ∧ (∀ d, d < 12 → (nth t.pool.hbms d {}).held = true) ∧ t.mem = s.mem)
  ∧ (∀ s : State, Inv s → fldGet s pgCLK oCLK_STAT 0 0 = 1 →
    Runs .clkRefBack s fun t => t.boot.refclk = true ∧ Raised t pgCLK 2 ∧ fldGet t pgCLK oCLK_STAT 0 0 = 1 ∧ t.mem = s.mem)

/-- A tamper wipes the secure store and slots 1-15, the CAK and CKN of the key store in force, counts itself in the life-cycle record, ends every job,
zeroes HBM, halts every region and darkens the ports (R563). -/
def Obligations.TamperRuns : Prop :=
  ∀ s : State, Inv s → loopArmed s = true → s.boot.phase = .running ∨ s.boot.phase = .noFirmware →
    Runs .tamper s fun t =>
      t.boot.phase = .tampered ∧ t.sec = {} ∧ t.nv.life.tampers = s.nv.life.tampers + 1
        ∧ (∀ k, keyCopy t = some k → k.slots = List.replicate 15 {} ∧ k.cak = [])
        ∧ (∀ p, p < 16 → partValid s p = true → JobOver s t p)
        ∧ (∀ a, a < 12 * hbmSize → memGet t a = 0)
        ∧ (∀ r, r < 48 → (rgn t r).haltAll = true) ∧ (∀ port, port < 6 → portState t port = 0) ∧ t.host.state = 0
        ∧ (s.boot.pwrGood = true → alertLine t = true)

/-! ### Links (R346-R359, R372). -/

/-- The coordinate that a port's peer must have on an axis (R352). -/
def peerCoord (s : State) (port a : Nat) : Nat := if portAxis port == a then beyond s port else coord s a

/-- A bring-up whose peer reports this plane, the coordinates beyond the port and the opposite port takes the port to UP, or to DEGRADED below 72
lanes; another report makes it MISCABLED; too few lanes make it FAILED (R347, R348, R352). Lanes: a spare takes the place of a lane and is counted;
with four spares used a lane lost leaves the port DEGRADED, and one lost below 64 lanes, like an error that retries do not mend, makes the port
FAILED and ends the jobs of the slices that use it (R347, R348, R351). -/
def Obligations.LinkPortCommandsRun : Prop :=
  (∀ (s : State) (port : Nat) (f : BringupFacts), Inv s → port < 6 → serving s = true → s.links.ports.length = 6 →
      (portState s port = 0 ∨ portState s port = 1) → f.light = true → planeLen s (portAxis port) ≠ 1 →
      64 ≤ goodBulk f → goodBell f ≠ 0 → fldGet s pgRTR oRTR_COORD 31 31 = 1 →
      f.peerPlane = fldGet s pgRTR oRTR_PLANE 31 24 → f.peerX = peerCoord s port 0 → f.peerY = peerCoord s port 1 →
      f.peerZ = peerCoord s port 2 → f.peerPort = (port + 3) % 6 →
    Runs (.linkBringup port f) s fun t =>
      portState t port = (if goodBulk f < 72 then 4 else 3) ∧ portLive t port = true ∧ Raised t (pgLNK + port) 1
        ∧ (goodBulk f < 72 → Raised t (pgLNK + port) 4) ∧ bulkLanes t port = goodBulk f ∧ bellLanes t port = goodBell f
        ∧ sparesUsed t port = usedSpares f ∧ t.mem = s.mem ∧ t.sched = s.sched)
  ∧ (∀ (s : State) (port : Nat) (f : BringupFacts), Inv s → port < 6 → serving s = true → s.links.ports.length = 6 →
      (portState s port = 0 ∨ portState s port = 1) → f.light = true → planeLen s (portAxis port) ≠ 1 →
      64 ≤ goodBulk f → goodBell f ≠ 0 → fldGet s pgRTR oRTR_COORD 31 31 = 1 → f.peerPort ≠ (port + 3) % 6 →
    Runs (.linkBringup port f) s fun t => portState t port = 6 ∧ Raised t (pgLNK + port) 6)
  ∧ (∀ (s : State) (port : Nat) (f : BringupFacts), Inv s → port < 6 → serving s = true →
      (portState s port = 0 ∨ portState s port = 1) → f.light = true → planeLen s (portAxis port) ≠ 1 →
      (goodBulk f < 64 ∨ goodBell f = 0) →
    Runs (.linkBringup port f) s fun t => portState t port = 5)
  ∧ (∀ f : BringupFacts, f.badBulk ≤ 72 → f.badBell ≤ 2 → f.badBulk + f.badBell + f.badSpare ≤ 4 →
    goodBulk f = 72 ∧ goodBell f = 2 ∧ usedSpares f = f.badBulk + f.badBell)
  ∧ (∀ (s : State) (port ber : Nat), Inv s → port < 6 → portLive s port = true → aboveBer s port ber = false →
    Runs (.laneSpared ⟨port, ber⟩) s fun t => t = s)
  ∧ (∀ (s : State) (port ber : Nat), Inv s → port < 6 → portLive s port = true → spareLeft s port = true → aboveBer s port ber = true →
    Runs (.laneSpared ⟨port, ber⟩) s fun t =>
      sparesUsed t port = sparesUsed s port + 1 ∧ Raised t (pgLNK + port) 3 ∧ portState t port = portState s port
        ∧ bulkLanes t port = bulkLanes s port ∧ t.mem = s.mem ∧ t.sched = s.sched)
  ∧ (∀ (s : State) (port : Nat), Inv s → port < 6 → portState s port = 3 → spareLeft s port = false → 64 < bulkLanes s port →
    Runs (.linkDegraded port false) s fun t =>
      bulkLanes t port = bulkLanes s port - 1 ∧ portState t port = 4 ∧ Raised t (pgLNK + port) 4 ∧ t.mem = s.mem ∧ t.sched = s.sched)
  ∧ (∀ (s : State) (port p : Nat), Inv s → port < 6 → portLive s port = true → spareLeft s port = false → bulkLanes s port = 64 →
      p < 16 → linkInBox s (sliceBox s p) port = true →
    Runs (.linkDegraded port false) s fun t => portState t port = 5 ∧ Raised t (pgLNK + port) 5 ∧ JobOver s t p)
  ∧ (∀ (s : State) (port p : Nat), Inv s → port < 6 → portCarries s port 2 = true → p < 16 → linkInBox s (sliceBox s p) port = true →
    Runs (.linkUncorrectable port) s fun t =>
      portState t port = 5 ∧ Raised t (pgLNK + port) 5 ∧ (portLive s port = true → Raised t (pgLNK + port) 2) ∧ JobOver s t p)

/-- A flit that the port takes: its channel passes there, its CRC is right, it is the next on its channel, and nothing waits on the port (R349, R352). -/
structure FlitTaken (s : State) (port : Nat) (f : Flit) : Prop where
  index : port < 6
  serves : serving s = true
  channel : routes s port f.channel = true
  crc : f.crcOk = true
  next : f.seq = nth (portOf s port).rx f.channel 0
  idle : (portOf s port).wait = []

/-- A flit that is next on its channel and meant for another module of its box goes out, unchanged, by a port of the box that brings it nearer, or
along its haul's route; one that would leave its box is dropped, counted and raises RTR_TAG_DROP (R326, R356); one whose one port is down waits
there, and never goes round (R358). A flit that fails its check is asked for again, until the limit makes the port FAILED; a peer that asks is
sent the flit and every later one of its channel (R349). -/
def Obligations.FlitsAreRoutedInTheirBox : Prop :=
  (∀ (s : State) (port : Nat) (f : Flit), Inv s → FlitTaken s port f → f.ask = none →
      linkInBox s (sliceBox s f.tag) port = true → inBox s (sliceBox s f.tag) f.dstX f.dstY f.dstZ = true →
      [f.dstX, f.dstY, f.dstZ] ≠ [coord s 0, coord s 1, coord s 2] → flitPorts s f ≠ [] →
      (∀ q ∈ flitPorts s f, portIdle s q f.channel f.bytes = true) →
    Runs (.flitReceive port f) s fun t =>
      ∃ q ∈ flitPorts s f, t.out = s.out ++ [.flit q f]
        ∧ t = { s with regs := t.regs, out := t.out, freeCtr := t.freeCtr, links := { s.links with ports := t.links.ports } })
  ∧ (∀ (s : State) (f : Flit) (q : Nat), f.channel ≠ 1 → q ∈ flitPorts s f →
    q < 6 ∧ portNearer s (sliceBox s f.tag) [f.dstX, f.dstY, f.dstZ] q = true)
  ∧ (∀ (s : State) (port : Nat) (f : Flit), Inv s → FlitTaken s port f → f.ask = none → linkInBox s (sliceBox s f.tag) port = false →
    Runs (.flitReceive port f) s fun t =>
      CountedOnce s t pgRTR oRTR_TAG_DROPS ∧ Raised t pgRTR 3 ∧ t.out = s.out ∧ t.mem = s.mem ∧ t.sched = s.sched ∧ t.fab = s.fab)
  ∧ (∀ (s : State) (port q : Nat) (f : Flit), Inv s → FlitTaken s port f → f.ask = none → s.links.ports.length = 6 →
      linkInBox s (sliceBox s f.tag) port = true → inBox s (sliceBox s f.tag) f.dstX f.dstY f.dstZ = true →
      [f.dstX, f.dstY, f.dstZ] ≠ [coord s 0, coord s 1, coord s 2] → flitPorts s f = [q] → (portOf s q).wait = [] →
      routes s q f.channel = false →
    Runs (.flitReceive port f) s fun t => t.out = s.out ∧ ∃ w ∈ (portOf t q).wait, w.item = .flit q f)
  ∧ (∀ (s : State) (port : Nat) (f : Flit), Inv s → port < 6 → serving s = true → routes s port f.channel = true → f.crcOk = false →
      nth (portOf s port).fails f.channel 0 + 1 < retryLimit (portOf s port) f.channel →
    Runs (.flitReceive port f) s fun t => .ask port f.channel (nth (portOf s port).rx f.channel 0) ∈ t.out ∧ t.mem = s.mem)
  ∧ (∀ (s : State) (port p : Nat) (f : Flit), Inv s → port < 6 → serving s = true → routes s port f.channel = true → f.crcOk = false →
      retryLimit (portOf s port) f.channel ≤ nth (portOf s port).fails f.channel 0 + 1 → p < 16 → linkInBox s (sliceBox s p) port = true →
    Runs (.flitReceive port f) s fun t => portState t port = 5 ∧ Raised t (pgLNK + port) 5 ∧ JobOver s t p)
  ∧ (∀ (s : State) (port ch seq k : Nat) (f : Flit), Inv s → FlitTaken s port f → f.ask = some (ch, seq) → ch < 3 →
      [f.dstX, f.dstY, f.dstZ] = [coord s 0, coord s 1, coord s 2] → seq < nth (portOf s port).tx ch 0 →
      nth (portOf s port).tx ch 0 - seq ≤ retryFlits → nth (portOf s port).asked ch (0, 0) = (seq, k) →
      k + 1 < retryLimit (portOf s port) ch →
    Runs (.flitReceive port f) s fun t => .resent port ch seq (nth (portOf s port).tx ch 0 - seq) ∈ t.out)

/-- Bell messages of a slice: FAULT ends its job here, and goes out where a job fails here; ABORT ends the requests that list the haul with its status, HELD stands until it is cleared
(R339, R341, R351, R371, R372). Values and verdicts that arrive before anything here waits for them are kept for it (R95, R373). -/
def Obligations.SliceMessagesRun : Prop :=
  (∀ (s : State) (port p rank : Nat), Inv s → bellOk s port p = true → linkInBox s (sliceBox s p) port = true →
      s.links.faults.contains (p, rank) = false →
    Runs (.bellFault port p rank) s fun t => JobOver s t p)
  ∧ (∀ (s : State) (port p rank status h id : Nat) (hauls : List Nat) (r : Request), Inv s → bellOk s port p = true →
      linkInBox s (sliceBox s p) port = true → h ∈ hauls → failCodes.contains status = true →
      s.links.aborted.contains (p, rank, h) = false → req? s id = some r →
      r.part = p → r.st = .admitted → (reqHauls s r).contains h = true →
    Runs (.bellAbort port p rank status hauls) s fun t => EndedWith t id status ∧ Raised t pgRTR 0x11)
  ∧ (∀ (s : State) (port p rank : Nat) (set : Bool), Inv s → bellOk s port p = true → linkInBox s (sliceBox s p) port = true →
    Runs (.bellHeld port p rank set) s fun t =>
      t.links.heldMarks.contains ⟨p, rank⟩ = set
        ∧ (∀ m, m ≠ ⟨p, rank⟩ → (m ∈ t.links.heldMarks ↔ m ∈ s.links.heldMarks)) ∧ t.mem = s.mem ∧ t.sched = s.sched)
  ∧ (∀ (s : State) (port p rank : Nat) (b : Bool), Inv s → bellOk s port p = true → linkInBox s (sliceBox s p) port = true →
      (otherRanks s p).contains rank = true → (∀ r ∈ s.sched.reqs, ∀ st ∈ r.mops, st.verdict = none) →
    Runs (.bellVerdict port p rank b) s fun t =>
      t.links.verdicts = s.links.verdicts ++ [(p, rank, b)] ∧ t.mem = s.mem ∧ t.sched = s.sched)
  ∧ (∀ (s : State) (port p coll offset : Nat) (vals : List W32), Inv s → bellOk s port p = true →
      linkInBox s (sliceBox s p) port = true → offset < axisLen s p (portAxis port) → offset ≠ axisOff s p (portAxis port) →
      (∀ c ∈ s.links.colls, c.part = p → c.coll ≠ coll) →
    Runs (.bellColl port p coll (portAxis port) offset vals) s fun t =>
      t.links.bells = s.links.bells ++ [⟨p, coll, portAxis port, offset, vals⟩] ∧ t.mem = s.mem ∧ t.sched = s.sched)
  ∧ (∀ (s : State) (p : Nat), Inv s → serving s = true → p < 16 →
    Runs (.jobFault p) s fun t =>
      JobOver s t p ∧ ∀ port, port < 6 → linkInBox s (sliceBox s p) port = true → portLive s port = true →
        .bell port p bellFAULT stFault (myRank s p) [] ∈ t.out)

/-! ### Register writes of a session, pages, trace, debug and tables (R463-R469, R199-R202, R271, R528, R571-R587). -/

/-- Writes of the links' and routers' registers by a secure session: RETRAIN takes a port back to TRAINING, the installation table takes its
coordinates while no slice entry is valid, and a slice entry takes its box or, rejected, stays and raises SLICE_REJECTED (R351, R353, R357). The
deputy's envelope takes a value of 1,600 to 4,000 W; another leaves the state as it is (R528). A session's priority, a partition, its tallies and
its quota. SCH_PART of an unused partition makes it exist with the owner and the claim written; a tally allotment takes its range and zeroes it;
both are shut out, with SCH_REJECTED, while the partition has a request or a saved state; a quota within the pool's capacity is taken (R271,
R461-R463, R467). TAL_ADD by a session on a tally of a partition that it owns adds modulo 2^32 to that tally and to no other; on another tally it
is an address error (R467, R469). -/
def Obligations.RegisterWriteCommandsRun : Prop :=
  (∀ (s : State) (i port : Nat), Inv s → SecureSession s i → port < 6 → (portState s port ≠ 5 ∨ linkInUse s port = false) →
    Runs (.lnkRetrain i port) s fun t =>
      portState t port = 1 ∧ (portLive s port = true → Raised t (pgLNK + port) 2) ∧ t.mem = s.mem ∧ t.sched = s.sched)
  ∧ (∀ (s : State) (i : Nat) (v : Word), Inv s → SecureSession s i → (∀ p, p < 16 → (sliceBox s p).valid = false) →
    Runs (.rtrCoordWrite i false v) s fun t =>
      (∀ a, coord t a = match a with | 0 => bits v.toNat 2 0 | 1 => bits v.toNat 6 4 | _ => bits v.toNat 11 8)
        ∧ (∀ a, planeLen t a = planeLen s a) ∧ t.mem = s.mem ∧ t.sched = s.sched)
  ∧ (∀ (s : State) (i : Nat) (v : Word), Inv s → SecureSession s i → (∀ p, p < 16 → (sliceBox s p).valid = false) →
    Runs (.rtrCoordWrite i true v) s fun t =>
      (∀ a, planeLen t a = (match a with | 0 => bits v.toNat 2 0 | 1 => bits v.toNat 6 4 | _ => bits v.toNat 11 8) + 1)
        ∧ (∀ a, coord t a = coord s a) ∧ t.mem = s.mem ∧ t.sched = s.sched)
  ∧ (∀ (s : State) (i p : Nat) (v : Word), Inv s → SecureSession s i → p < 16 → sliceRejected s p v.toNat = false →
    Runs (.rtrSliceWrite i p v) s fun t =>
      sliceBox t p = boxOf v.toNat ∧ (∀ q, q < 16 → q ≠ p → sliceBox t q = sliceBox s q) ∧ t.mem = s.mem ∧ t.sched = s.sched)
  ∧ (∀ (s : State) (i p : Nat) (v : Word), Inv s → SecureSession s i → p < 16 → sliceRejected s p v.toNat = true →
    Runs (.rtrSliceWrite i p v) s fun t => sliceBox t p = sliceBox s p ∧ Raised t pgRTR 5 ∧ t.mem = s.mem ∧ t.sched = s.sched)
  ∧ (∀ (s : State) (i : Nat) (v : Word), Inv s → SecureSession s i → 1600 ≤ bits v.toNat 11 0 → bits v.toNat 11 0 ≤ 4000 →
    Runs (.depEnvelopeWrite i v) s fun t =>
      fldGet t pgDEP oDEP_ENVELOPE 11 0 = bits v.toNat 11 0 ∧ OtherRegs s t pgDEP oDEP_ENVELOPE ∧ t = { s with regs := t.regs })
  ∧ (∀ (s : State) (i : Nat) (v : Word), Inv s → SecureSession s i → (bits v.toNat 11 0 < 1600 ∨ 4000 < bits v.toNat 11 0) →
    Runs (.depEnvelopeWrite i v) s fun t => t = s)
  ∧ (∀ (s : State) (i k : Nat) (v : Word), Inv s → SecureSession s i → k < 16 →
    Runs (.schSessWrite i k v) s fun t =>
      fldGet t pgSCH (oSCH_SESS + 8 * k) 2 0 = bits v.toNat 2 0 ∧ OtherRegs s t pgSCH (oSCH_SESS + 8 * k) ∧ t = { s with regs := t.regs })
  ∧ (∀ (s : State) (i p : Nat) (v : Word), Inv s → SecureSession s i → p < 16 → partValid s p = false → partPinned s p = false →
      bit v.toNat 63 = true → (sess s (bits v.toNat 59 56)).isOpen = true →
      tallyClash s p (fldGet s pgSCH (oSCH_TALLY + 8 * p) 13 0) (fldGet s pgSCH (oSCH_TALLY + 8 * p) 30 16) = false →
    Runs (.schPartWrite i p v) s fun t =>
      partValid t p = true ∧ partSess t p = bits v.toNat 59 56
        ∧ (∀ r, r < 48 → bit (regRaw t pgSCH (oSCH_PART + 8 * p)) r = bit v.toNat r)
        ∧ (∀ q, q < 16 → q ≠ p → partValid t q = partValid s q ∧ partSess t q = partSess s q) ∧ t = { s with regs := t.regs })
  ∧ (∀ (s : State) (i p : Nat) (v : Word), Inv s → SecureSession s i → p < 16 → partPinned s p = true →
    Runs (.schPartWrite i p v) s fun t =>
      regRaw t pgSCH (oSCH_PART + 8 * p) = regRaw s pgSCH (oSCH_PART + 8 * p) ∧ Raised t pgSCH 4 ∧ t.mem = s.mem ∧ t.sched = s.sched)
  ∧ (∀ (s : State) (i p : Nat) (v : Word), Inv s → SecureSession s i → p < 16 → partPinned s p = false →
      bits v.toNat 13 0 % 64 = 0 → bits v.toNat 30 16 % 64 = 0 → bits v.toNat 13 0 + bits v.toNat 30 16 ≤ 16384 →
      tallyClash s p (bits v.toNat 13 0) (bits v.toNat 30 16) = false →
    Runs (.schTallyWrite i p v) s fun t =>
      (∀ k, tallyAllotted t p k = (bits v.toNat 13 0 ≤ k && k < bits v.toNat 13 0 + bits v.toNat 30 16))
        ∧ (∀ k, tally t k = if tallyAllotted t p k then 0 else tally s k) ∧ t.mem = s.mem ∧ t.sched = s.sched)
  ∧ (∀ (s : State) (i p : Nat) (v : Word), Inv s → SecureSession s i → p < 16 → partPinned s p = true →
    Runs (.schTallyWrite i p v) s fun t =>
      regRaw t pgSCH (oSCH_TALLY + 8 * p) = regRaw s pgSCH (oSCH_TALLY + 8 * p) ∧ Raised t pgSCH 4 ∧ (∀ k, tally t k = tally s k))
  ∧ (∀ (s : State) (i p : Nat) (v : Word), Inv s → SecureSession s i → p < 16 →
      sumNat (((List.range 16).filter (· != p)).map fun q => bits (regRaw s pgPOL (oPOL_QUOTA + 8 * q)) 31 0) + bits v.toNat 31 0 ≤ capHbm s →
      sumNat (((List.range 16).filter (· != p)).map fun q => bits (regRaw s pgPOL (oPOL_QUOTA + 8 * q)) 63 32) + bits v.toNat 63 32
        ≤ capFlash s →
      flashUse s p ≤ bits v.toNat 63 32 * 2 ^ 30 →
    Runs (.polQuotaWrite i p v) s fun t =>
      quotaH t p = bits v.toNat 31 0 * 2 ^ 30 ∧ quotaF t p = bits v.toNat 63 32 * 2 ^ 30
        ∧ OtherRegs s t pgPOL (oPOL_QUOTA + 8 * p) ∧ t = { s with regs := t.regs })
  ∧ (∀ (s : State) (i k p : Nat) (v : Word), Inv s → serving s = true → i < 16 → (sess s i).isOpen = true → k < 32 → p < 16 →
      ownsPart s i p = true → tallyAllotted s p (512 * k + bits v.toNat 8 0) = true →
    Runs (.talAdd i k v) s fun t =>
      tally t (512 * k + bits v.toNat 8 0) = tally s (512 * k + bits v.toNat 8 0) + BitVec.ofNat 32 (bits v.toNat 63 32)
        ∧ (∀ j, j ≠ 512 * k + bits v.toNat 8 0 → tally t j = tally s j) ∧ t.mem = s.mem ∧ t.regs = s.regs ∧ t.sched = s.sched)
  ∧ (∀ (s : State) (i k : Nat) (v : Word), Inv s → serving s = true → i < 16 → (sess s i).isOpen = true → k < 32 →
      (∀ p, p < 16 → ownsPart s i p = true → tallyAllotted s p (512 * k + bits v.toNat 8 0) = false) →
    Runs (.talAdd i k v) s fun t => t = bump s pgIVT oIVT_ADDR_ERR 1)
  ∧ (∀ t v : W32, reached t v = true ↔ (t - v).toNat < 2 ^ 31)

/-- User tables: an arm while one is under way is refused with CHECK 5 and its event; otherwise the check of the image is shown, an image
that passes becomes the table, and one that fails raises its event and changes no table; step 5 ends the reload once no macro-op reads the
old bank (R199-R202). -/
def Obligations.UserTableCommandsRun : Prop :=
  (∀ (s : State) (i r p l : Nat) (v : Word), Inv s → SecureSession s i → r < 48 → bit v.toNat 0 = true → (rgn s r).owner = some p →
      leadRgn s p = some l → p < 16 → (userTab s p).arming = true →
    Runs (.sftArm i r v) s fun t =>
      fldGet t (rgnPage l) oRGN_SFT_STAT 15 8 = 5 ∧ Raised t (rgnPage l) 26 ∧ userTab t p = userTab s p ∧ t.mem = s.mem)
  ∧ (∀ (s : State) (i r p : Nat) (v : Word), Inv s → SecureSession s i → r < 48 → bit v.toNat 0 = true → (rgn s r).owner = some p →
      p < 16 → (userTab s p).arming = false → (checkImage (memRead s (stageAddr p) 32768)).1 = 1 →
    Runs (.sftArm i r v) s fun t =>
      (userTab t p).arming = true ∧ (userTab t p).old = (userTab s p).committed
        ∧ (userTab t p).committed = some ((memRead s (stageAddr p) 32768).take (imageBytes (memRead s (stageAddr p) 32768)))
        ∧ fldGet t (rgnPage r) oRGN_SFT_STAT 15 8 = 1 ∧ t.mem = s.mem)
  ∧ (∀ (s : State) (i r p l : Nat) (v : Word), Inv s → SecureSession s i → r < 48 → bit v.toNat 0 = true → (rgn s r).owner = some p →
      leadRgn s p = some l → p < 16 → (userTab s p).arming = false → (checkImage (memRead s (stageAddr p) 32768)).1 ≠ 1 →
    Runs (.sftArm i r v) s fun t => Raised t (rgnPage l) 25 ∧ userTab t p = userTab s p ∧ t.mem = s.mem)
  ∧ (∀ (s : State) (p l : Nat), Inv s → p < 16 → leadRgn s p = some l → (userTab s p).arming = true → (userTab s p).swapped = true →
      unitOpsRunning s p = [] →
    Runs (.sftSwapped p) s fun t =>
      userTab t p = { committed := (userTab s p).committed } ∧ Raised t (rgnPage l) 24 ∧ CountedOnce s t (rgnPage l) oRGN_SFT_SWAPS
        ∧ (rgn t l).bankUser = !(rgn s l).bankUser ∧ t.mem = s.mem)

/-- A page's LOCK, once set, stays whatever is written; EVT_CLR clears the events whose bits are 1 and no other; the trace starts where its buffer
is in order and does not where it is not (R571, R574, R583). Debug: a halt is pending for every region of the mask that is not halted, and stands
once the regions have reached their stop points; an access of the window moves its address on by eight and is counted, a write storing its eight
bytes and nothing else; beside another port's access of the same word of a cluster store, a write loses to a lower port's under WW_MODE 1 and is
answered with the conflict status, and an atomic changes the word once and is answered with the old one (R226-R229); a trace record takes the next 32 bytes of the buffer (R584-R587). -/
def Obligations.DebugPageCommandsRun : Prop :=
  (∀ (s : State) (i page : Nat) (v : Word), Inv s → SecureSession s i → page < 0x300 → hasHeader page = true →
    Runs (.pageLock i page v) s fun t =>
      bit (regRaw t page oPAGE_CTRL) 0 = (bit (regRaw s page oPAGE_CTRL) 0 || bit v.toNat 0)
        ∧ OtherRegs s t page oPAGE_CTRL ∧ t = { s with regs := t.regs })
  ∧ (∀ (s : State) (i page n : Nat) (v : Word), Inv s → SecureSession s i → page < 0x300 → hasHeader page = true → n < 64 →
    Runs (.evtClr i page v) s fun t =>
      bit (regRaw t page oEVT_RAW) n = (bit (regRaw s page oEVT_RAW) n && !bit v.toNat n)
        ∧ OtherRegs s t page oEVT_RAW ∧ t = { s with regs := t.regs })
  ∧ (∀ (s : State) (i : Nat) (v : Word), Inv s → SecureSession s i → bit (regRaw s pgDBG oPAGE_CTRL) 0 = false →
      fldGet s pgDBG oDBG_CTRL 2 0 = 0 → bits v.toNat 2 0 = 1 → traceBufferOk s = true →
    Runs (.traceEnable i v) s fun t =>
      tracing t = true ∧ regRaw t pgDBG oDBG_TRACE_WR = 0 ∧ fldGet t pgDBG oDBG_CTRL 0 0 = 1 ∧ t = { s with regs := t.regs })
  ∧ (∀ (s : State) (i : Nat) (v : Word), Inv s → SecureSession s i → bit (regRaw s pgDBG oPAGE_CTRL) 0 = false →
      fldGet s pgDBG oDBG_CTRL 2 0 = 0 → bits v.toNat 2 0 = 1 → traceBufferOk s = false →
    Runs (.traceEnable i v) s fun t =>
      fldGet t pgDBG oDBG_STAT 2 2 = 1 ∧ fldGet t pgDBG oDBG_CTRL 0 0 = 0 ∧ t = { s with regs := t.regs })
  ∧ (∀ (s : State) (i : Nat) (v : Word), Inv s → SecureSession s i → bit (regRaw s pgDBG oPAGE_CTRL) 0 = false →
      fldGet s pgDBG oDBG_CTRL 2 2 = 1 →
    Runs (.debugHalt i v) s fun t =>
      (∀ r, r < 48 → (r ∈ t.ctl.haltPending ↔ bit v.toNat r = true ∧ (rgn s r).haltDbg = false))
        ∧ ∀ r, r < 48 → bit v.toNat r = false → (rgn t r).haltDbg = false)
  ∧ (∀ (s : State), Inv s → s.ctl.haltPending ≠ [] →
    Runs .debugHalted s fun t =>
      t.ctl.haltPending = [] ∧ (∀ r ∈ s.ctl.haltPending, r < 48 → (rgn t r).haltDbg = true ∧ bit (regRaw t pgDBG oDBG_HALTED) r = true)
        ∧ Raised t pgDBG 3 ∧ t.mem = s.mem ∧ t.sched = s.sched)
  ∧ (∀ (s : State) (i r : Nat), Inv s → serving s = true → i < 16 → (sess s i).isOpen = true →
      winOpen s (regRaw s pgDBG oDBG_WIN_ADDR) = true → windowRgn (regRaw s pgDBG oDBG_WIN_ADDR) = some r → (rgn s r).openSram = false →
    ∀ c, plainCycle c = true → Runs (.windowRead ⟨i, c⟩) s fun t =>
      regRaw t pgDBG oDBG_WIN_ADDR = (regRaw s pgDBG oDBG_WIN_ADDR + 8) % 2 ^ 48 ∧ CountedOnce s t pgDBG oDBG_WIN_ACCESSES
        ∧ (readReg s i (regAddr pgDBG oDBG_WIN_DATA)).2.1 = leNat (memRead s (regRaw s pgDBG oDBG_WIN_ADDR) 8)
        ∧ t = { s with regs := t.regs })
  ∧ (∀ (s : State) (i : Nat) (v : Word), Inv s → SecureSession s i → bit (regRaw s pgDBG oPAGE_CTRL) 0 = false →
      winOpen s (regRaw s pgDBG oDBG_WIN_ADDR) = true →
    ∀ c, plainCycle c = true → Runs (.windowWrite i v c) s fun t =>
      regRaw t pgDBG oDBG_WIN_ADDR = (regRaw s pgDBG oDBG_WIN_ADDR + 8) % 2 ^ 48 ∧ CountedOnce s t pgDBG oDBG_WIN_ACCESSES
        ∧ memRead t (regRaw s pgDBG oDBG_WIN_ADDR) 8 = natLe 8 v.toNat
        ∧ (∀ a, a < regRaw s pgDBG oDBG_WIN_ADDR ∨ regRaw s pgDBG oDBG_WIN_ADDR + 8 ≤ a → memGet t a = memGet s a)
        ∧ t = { s with regs := t.regs, mem := t.mem })
  ∧ (∀ (s : State) (i r waited : Nat) (v : Word) (port e : Nat) (d : Bytes), Inv s → SecureSession s i → bit (regRaw s pgDBG oPAGE_CTRL) 0 = false →
      winOpen s (regRaw s pgDBG oDBG_WIN_ADDR) = true → windowRgn (regRaw s pgDBG oDBG_WIN_ADDR) = some r →
      storeBase 0 ≤ regRaw s pgDBG oDBG_WIN_ADDR →
      bit (memCtl s r) ((regRaw s pgDBG oDBG_WIN_ADDR - storeBase 0) / 0x400000 % 12) = true → port < 18 →
    let b := bankOf (regRaw s pgDBG oDBG_WIN_ADDR)
    Runs (.windowWrite i v ⟨[⟨port, waited, b.word, .write e d, false, .clean⟩], .clean⟩) s fun t =>
      memRead t (b.at_ b.word) 64 = opWord (.write e d) (memRead s (b.at_ b.word) 64)
        ∧ CountedOnce s t (rgnPage r) oRGN_WW_CONFLICTS ∧ .portAnswer 18 true none ∈ t.out)
  ∧ (∀ (s : State) (i r waited port mask : Nat) (k : AtomKind) (operand : Bytes), Inv s → serving s = true → i < 16 → (sess s i).isOpen = true →
      winOpen s (regRaw s pgDBG oDBG_WIN_ADDR) = true → windowRgn (regRaw s pgDBG oDBG_WIN_ADDR) = some r →
      storeBase 0 ≤ regRaw s pgDBG oDBG_WIN_ADDR → port < 20 → port ≠ 18 → (rgn s r).openSram = false →
    let b := bankOf (regRaw s pgDBG oDBG_WIN_ADDR)
    Runs (.windowRead ⟨i, ⟨[⟨port, waited, b.word, .atomic k mask operand, false, .clean⟩], .clean⟩⟩) s fun t =>
      memRead t (b.at_ b.word) 64 = atomWord k mask operand (memRead s (b.at_ b.word) 64)
        ∧ CountedOnce s t (rgnPage r) oRGN_ATOMICS ∧ .portAnswer port false (some (memRead s (b.at_ b.word) 64)) ∈ t.out)
  ∧ (∀ (s : State) (r : Bytes) (rest : List Bytes), Inv s → s.ctl.trace = r :: rest → tracing s = true → traceBufferOk s = true →
      regRaw s pgDBG oDBG_TRACE_WR < regRaw s pgDBG oDBG_TRACE_SIZE →
    Runs .traceRecord s fun t =>
      t.ctl.trace = rest ∧ regRaw t pgDBG oDBG_TRACE_WR = (regRaw s pgDBG oDBG_TRACE_WR + 32) % 2 ^ 64
        ∧ CountedOnce s t pgDBG oDBG_TRACE_RECORDS
        ∧ t.mem = (vstore (bits (regRaw s pgDBG oDBG_TRACE_BASE) 63 60)
            (bytesAt (bits (regRaw s pgDBG oDBG_TRACE_BASE) 59 0 + regRaw s pgDBG oDBG_TRACE_WR) r) s).mem)

/-! ### The host port and its sessions (R485-R513). -/

/-- An Ethernet frame that carries an IVT datagram waits in the receive buffer and is counted, one that fails its FCS or is too long is
dropped and counted; PFC pauses the enabled priorities it names until they resume or expire (R485-R490). -/
def Obligations.HostFramesRun : Prop :=
  (∀ (s : State) (f : EthFacts), Inv s → s.host.state = 2 → s.boot.phase = .running → f.fcsOk = true → f.length ≤ 9216 → f.isPfc = false →
      vlanOk s f.vlan = true → f.isMka = false → f.isAnswered = false → ivtDatagram s f = true → (macsecReq s = true → f.macsec = true) →
      (f.macsec = true → s.host.macsecLive = true) → bufBytes s + f.length ≤ 8 * 2 ^ 20 →
    Runs (.ethFrameReceive f) s fun t =>
      t.host.buf = s.host.buf ++ [f.length] ∧ CountedOnce s t pgHPT oHPT_RX_FRAMES ∧ t.host.sess = s.host.sess ∧ t.mem = s.mem)
  ∧ (∀ (s : State) (f : EthFacts), Inv s → s.host.state = 2 → s.boot.phase = .running → (f.fcsOk = false ∨ 9216 < f.length) →
    Runs (.ethFrameReceive f) s fun t =>
      CountedOnce s t pgHPT oHPT_RX_DROPS ∧ t = { s with regs := t.regs, freeCtr := t.freeCtr })
  ∧ (∀ (s : State) (p : Nat) (pause : Bool), Inv s → hostUp s = true → p < 8 → pfcEn s p = true →
    Runs (.pfcFrameReceive [(p, pause)]) s fun t =>
      t.host.paused.contains p = pause ∧ (∀ q, q ≠ p → (q ∈ t.host.paused ↔ q ∈ s.host.paused)) ∧ CountedOnce s t pgHPT oHPT_PFC_RX
        ∧ t.mem = s.mem)
  ∧ (∀ (s : State) (p : Nat),
    Runs (.pfcPauseExpiry p) s fun t => p ∉ t.host.paused ∧ (∀ q, q ≠ p → (q ∈ t.host.paused ↔ q ∈ s.host.paused)) ∧ t.mem = s.mem)

/-- ARP, neighbour solicitation and echo are answered for the module's own addresses (R489). The port's state: a valid MKA frame makes the
association live and the port UP, its failure lets it lapse and raises HPT_MKA_FAIL, and a link that comes up with nothing required of MACsec is UP
and raises HPT_UP (R488, R513, R515). -/
def Obligations.HostPortCommandsRun : Prop :=
  (∀ (s : State) (ip mac : Nat), hostUp s = true → ownsIp s false ip = true →
    Runs (.arpRequest ip mac) s fun t => t = { s with out := s.out ++ [.answer 1 ip mac] })
  ∧ (∀ (s : State) (ip mac : Nat), hostUp s = true → ownsIp s true ip = true →
    Runs (.neighbourSolicitation ip mac) s fun t => t = { s with out := s.out ++ [.answer 2 ip mac] })
  ∧ (∀ (s : State) (v6 : Bool) (ip token : Nat), hostUp s = true → ownsIp s v6 ip = true →
    Runs (.echoRequest v6 ip token) s fun t => t = { s with out := s.out ++ [.answer 3 ip token] })
  ∧ (∀ s : State, Inv s → s.sec.cak ≠ [] → s.boot.phase = .running → s.host.state = 3 →
    Runs (.mkaFrameReceive true) s fun t => t.host.macsecLive = true ∧ t.host.state = 2 ∧ Raised t pgHPT 1 ∧ t.mem = s.mem)
  ∧ (∀ s : State, Inv s → s.boot.phase = .running → s.host.state = 2 → macsecReq s = true →
    Runs .hptMkaFail s fun t => t.host.macsecLive = false ∧ t.host.state = 3 ∧ Raised t pgHPT 3 ∧ t.mem = s.mem)
  ∧ (∀ (s : State) (lanes : Nat), Inv s → serving s = true → lanes ≤ 8 → s.host.state ≠ 2 → macsecReq s = false →
    Runs (.hostPortStateChange true false lanes) s fun t =>
      t.host.state = 2 ∧ t.host.lanes = lanes ∧ Raised t pgHPT 1 ∧ t.boot.portWasUp = true ∧ t.mem = s.mem)
  ∧ (∀ (s : State) (lanes : Nat), Inv s → serving s = true → lanes ≤ 8 → s.host.state = 2 →
    Runs (.hostPortStateChange false false lanes) s fun t => t.host.state = 0 ∧ Raised t pgHPT 2 ∧ t.mem = s.mem)

/-- Opening a session: HELLO is answered with CHALLENGE, a PROOF that verifies under the slot's key opens the session with the slot's role
and raises SESSION_OPENED, one that does not is refused, counted and raises AUTH_FAIL, and an opening ends with its time (R499). -/
def Obligations.SessionOpeningRuns : Prop :=
  (∀ (s : State) (f : HelloFacts), Inv s → ivtUp s = true → helloOk f = true → f.wanted < 16 → (sess s f.wanted).opening = none →
    Runs (.hello f) s fun t =>
      ∃ o, (sess t f.wanted).opening = some o ∧ o.keySlot = f.keySlot ∧ o.maxPayload = f.maxPayload ∧ o.hostNonce = f.nonce
        ∧ o.ip = f.srcIp ∧ o.port = f.srcPort ∧ o.tag < 2 ^ 32 ∧ o.modNonce.length = 32
        ∧ .openFrame (openEnvelope s f.srcMac f.srcIp f.srcPort (fldGet s pgIVT oIVT_CTRL 15 0) o.tag) f.wanted 1 (natLe 1 f.wanted ++ natLe 4 o.tag ++ o.modNonce ++ natLe 1 (sess s f.wanted).lastReset) ∈ t.out
        ∧ (sess t f.wanted).isOpen = (sess s f.wanted).isOpen ∧ t.mem = s.mem)
  ∧ (∀ (s : State) (i ip port : Nat) (o : Opening) (sig : Bytes), Inv s → ivtUp s = true → i < 16 → (sess s i).opening = some o →
      o.ip = ip → o.port = port → (keySlot s o.keySlot).role ≠ 0 → (sess s i).isOpen = false →
      Config.verify (keySlot s o.keySlot).key (proofDigest s i o) sig = true →
    Runs (.proof i o.tag sig ip port) s fun t =>
      (sess t i).isOpen = true ∧ (sess t i).secure = ((keySlot s o.keySlot).role == 2) ∧ (sess t i).keySlot = o.keySlot
        ∧ (sess t i).tag = o.tag ∧ (sess t i).opening = none ∧ (sess t i).rx = 1 ∧ Raised t pgIVT 1
        ∧ (∃ e b, .openFrame e i 2 b ∈ t.out) ∧ t.mem = s.mem)
  ∧ (∀ (s : State) (i ip port : Nat) (o : Opening) (sig : Bytes), Inv s → ivtUp s = true → i < 16 → (sess s i).opening = some o →
      o.ip = ip → o.port = port → (keySlot s o.keySlot).role ≠ 0 →
      Config.verify (keySlot s o.keySlot).key (proofDigest s i o) sig = false →
    Runs (.proof i o.tag sig ip port) s fun t =>
      (sess t i).isOpen = (sess s i).isOpen ∧ (sess t i).opening = none ∧ CountedOnce s t pgIVT oIVT_AUTH_FAILS ∧ Raised t pgIVT 3
        ∧ .openFrame (o.envelope s) i 3 (natLe 1 2) ∈ t.out ∧ t.mem = s.mem)
  ∧ (∀ (s : State) (i : Nat), Inv s → i < 16 →
    Runs (.proofTimeout i) s fun t =>
      (sess t i).opening = none ∧ (∀ j, j ≠ i → sess t j = sess s j) ∧ t = { s with host := { s.host with sess := t.host.sess } })

/-- A frame of registers: a read is answered with the register's value and status, a write takes effect and is answered with its status,
each delivered once; a band register ignores bounds outside (0, 1] and [1, +∞), and POL_CTX_INFO and POL_CTX_LEN read 0 to a session that does
not own the selected context's partition (R112, R318, R495, R504, R505). -/
def Obligations.RegisterFramesRun : Prop :=
  (∀ (s : State) (h : Hdr) (a : Nat), InOrder s h (.regRead [a]) →
    Runs (.regRead h [a]) s fun t =>
      (sess t h.session).rx = seqAdd h.seq 1
        ∧ ∃ s1, Taken s s1 ∧ t.mem = s.mem ∧ t.sched = s.sched
          ∧ Answers t h.session tRegRead h.msg
            (natLe 8 (readReg s1 h.session a).2.1 ++ pad8 (natLe 1 (readReg s1 h.session a).2.2)))
  ∧ (∀ (s : State) (h : Hdr) (a : Nat) (v : Word), InOrder s h (.regWrite [(a, v)]) →
    Runs (.regWrite h [(a, v)]) s fun t =>
      ∃ s1, Taken s s1 ∧ ((writeReg s1 h.session a v.toNat).1.ctl.rstReq = [] →
        (sess (writeReg s1 h.session a v.toNat).1 h.session).isOpen = true →
          t.mem = (writeReg s1 h.session a v.toNat).1.mem ∧ t.fab = (writeReg s1 h.session a v.toNat).1.fab
            ∧ t.nv = (writeReg s1 h.session a v.toNat).1.nv ∧ t.pool = (writeReg s1 h.session a v.toNat).1.pool
            ∧ t.sched = (writeReg s1 h.session a v.toNat).1.sched ∧ t.links = (writeReg s1 h.session a v.toNat).1.links
            ∧ (∀ page off, off < 4096 → page ≠ pgIVT → page ≠ pgHPT →
                regRaw t page off = regRaw (writeReg s1 h.session a v.toNat).1 page off)
            ∧ Answers t h.session tRegWrite h.msg (pad8 (natLe 1 (writeReg s1 h.session a v.toNat).2))))
  ∧ (∀ (s : State) (i r off : Nat) (v : Word), r < 48 → off ∈ [oRGN_CANARY_BAND, oRGN_GRAD_BAND] →
    let lo := f32 (BitVec.ofNat 32 (bits v.toNat 31 0))
    let hi := f32 (BitVec.ofNat 32 (bits v.toNat 63 32))
    (lo.finite && Machine.Num.lt Machine.Num.zero lo && Machine.Num.le lo Machine.Num.one) = false
        ∨ (hi.finite && Machine.Num.le Machine.Num.one hi) = false →
    regRaw (writeReg s i (regAddr (rgnPage r) off) v.toNat).1 (rgnPage r) off = regRaw s (rgnPage r) off)
  ∧ (∀ (s : State) (i off : Nat), off ∈ [oPOL_CTX_INFO, oPOL_CTX_LEN] →
      (∀ c, ctx? s (regRaw s pgPOL oPOL_CTX_SEL) = some c → sessOwns s i c.owner = false) →
    (readReg s i (regAddr pgPOL off)).2.1 = 0)

/-- A frame of memory: a write stores its bytes in the partition's memory, or stores nothing and is answered with its status; a read is
answered with the bytes, or with its status (R506, R507). -/
def Obligations.MemoryFramesRun : Prop :=
  (∀ (s : State) (h : Hdr) (p va : Nat) (res : Bool) (data : Bytes), InOrder s h (.memWrite p res va data) →
    Runs (.memWrite h p res va data) s fun t =>
      ∃ s1, Taken s s1
        ∧ t.mem = (memWriteReq s1 h.session p res va data).1.mem ∧ t.pool = (memWriteReq s1 h.session p res va data).1.pool
        ∧ t.sched = s.sched ∧ t.fab = s.fab
        ∧ ((memWriteReq s1 h.session p res va data).2 ≠ 0 → t.mem = s.mem ∧
            Answers t h.session tMemWrite h.msg (memWriteReply va p (memWriteReq s1 h.session p res va data).2)))
  ∧ (∀ (s : State) (i p va : Nat) (data : Bytes), p < 16 → ownsPart s i p = true → rangeInSpace va data.length = true →
      mayTouch s p va = true → ((sess s i).readFail = false ∨ needsFlash s p va data.length = false) →
      (vwrite s none p (bytesAt va data)).isOk = true →
    (memWriteReq s i p false va data).2 = 0
      ∧ ∃ s1, vwrite s none p (bytesAt va data) = .ok s1 ∧ (memWriteReq s i p false va data).1.mem = s1.mem)
  ∧ (∀ (s : State) (i p va : Nat) (data : Bytes), p < 16 → ownsPart s i p = false →
    memWriteReq s i p false va data = (s, 2))
  ∧ (∀ (s : State) (h : Hdr) (p va len : Nat), InOrder s h (.memRead p false va len) → p < 16 → ownsPart s h.session p = true →
      mayTouch s p va = true → 0 < len → len + 16 ≤ (sess s h.session).maxPayload → readable s p va len = len →
      (sess s h.session).readFail = false →
    Runs (.memRead h p false va len) s fun t =>
      t.mem = s.mem ∧ t.sched = s.sched
        ∧ Sends t h.session tMemData (natLe 8 va ++ natLe 1 p ++ natLe 1 0 ++ zeros 6 ++ vread s p va len))
  ∧ (∀ (s : State) (h : Hdr) (p va len : Nat), InOrder s h (.memRead p false va len) → p < 16 → ownsPart s h.session p = false →
      0 < len → len ≤ 2 ^ 32 →
    Runs (.memRead h p false va len) s fun t =>
      t.mem = s.mem ∧ t.sched = s.sched ∧ Sends t h.session tMemData (natLe 8 va ++ natLe 1 p ++ natLe 1 2 ++ zeros 6))

/-- The request that a SUBMIT of one frame brings. -/
structure Queued (t : State) (id i : Nat) (b : Bytes) : Prop where
  req : ∃ r ∈ t.sched.reqs, r.id = id ∧ r.part = fld b 4 1 ∧ r.sess = i ∧ r.tag = fld b 0 4 ∧ r.list = fld b 0x10 8 ∧ r.nops = fld b 8 4
    ∧ r.rets = submitRets b ∧ r.st = .queued ∧ r.mops = []

/-- SUBMIT: a whole message in order puts its list into memory and its request into its partition's queue, from which admission takes it; one for a
partition that the session does not own is answered at once with ST_PARTITION (R465, R466, R508-R510). -/
def Obligations.SubmitRuns : Prop :=
  (∀ (s : State) (h : Hdr) (b : Bytes), InOrder s h (.submit b) → h.offset = 0 → h.last = true → (sess s h.session).asm = none →
      submitHeadOk b = true → ownsPart s h.session (fld b 4 1) = true → (reqsOf s (fld b 4 1) .queued).length < 32 →
    Runs (.submit h b) s fun t =>
      ∃ s1, Taken s s1 ∧ ∀ s2, landInline s1 h.session b 0 = some s2 → submitOk s2 h.session b = true →
        t.mem = s2.mem ∧ t.pool = s2.pool ∧ Queued t s.sched.nextReq h.session b ∧ t.sched.nextReq = s.sched.nextReq + 1)
  ∧ (∀ (s : State) (h : Hdr) (b : Bytes), InOrder s h (.submit b) → h.offset = 0 → h.last = true → (sess s h.session).asm = none →
      submitHeadOk b = true → ownsPart s h.session (fld b 4 1) = false →
      b.length = listStart b + (if fld b 5 1 = 1 then 128 * fld b 8 4 else 0) →
      (List.range (fld b 6 2)).all (fun k => fld b (56 + 32 * k) 8 == 0) = true →
    Runs (.submit h b) s fun t =>
      t.mem = s.mem ∧ t.sched = s.sched
        ∧ Sends t h.session tComplete (completePayload (fld b 0 4) (fld b 4 1) stPartition 0 0xFFFFFFFF 0 (now s)))
  ∧ (∀ (s : State) (p : Nat) (r : Request), Inv s → serving s = true → partValid s p = true → nextRequest s p = some r → req? s r.id = some r →
      (stepOneFail s r).or (stepTwoReject s r) = none → awaitsTraining s r = false →
    Runs (.admission p) s fun t =>
      ∃ q, req? t r.id = some q ∧ q.st = .admitted ∧ q.sess = r.sess ∧ q.tag = r.tag ∧ q.list = r.list ∧ q.nops = r.nops ∧ q.rets = r.rets)

/-- ATTEST is answered with the report over the nonce, in frames of the session's size; CLOSE closes the session (R502, R512, R564). -/
def Obligations.AttestAndCloseRun : Prop :=
  (∀ (s : State) (h : Hdr) (nonce : Bytes), InOrder s h (.attest nonce) →
    Runs (.attest h nonce) s fun t =>
      t.mem = s.mem ∧ ∃ fs : List Sent, (∀ f ∈ fs, f ∈ (sess t h.session).sent ∧ f.type = tAttest ∧ f.reply = true ∧ f.msg = h.msg)
        ∧ (fs.map (·.payload)).flatten = report s nonce ∧ (report s nonce).length = 5048)
  ∧ (∀ (s : State) (h : Hdr), InOrder s h .close →
    Runs (.close h) s fun t =>
      (sess t h.session).isOpen = false ∧ (sess t h.session).sent = [] ∧ (∀ j, j ≠ h.session → (sess t j).isOpen = (sess s j).isOpen)
        ∧ t.mem = s.mem ∧ t.sched = s.sched)

/-- Acknowledgement: an ACK frame moves the host's position and window, the timer sends what is owed, a frame not acknowledged in time is
sent again and counted, and after 12 times the session is lost, as it is when it has been idle for IDLE (R494-R497, R502). -/
def Obligations.AcknowledgementCommandsRun : Prop :=
  (∀ (s : State) (h : Hdr), Inv s → ivtUp s = true → headerOk s h (sess s h.session).maxPayload = true → h.length = 0 → h.seq = 0 →
      h.sack = none → seqDiff (sess s h.session).hostAck h.ack ≤ seqDiff (sess s h.session).hostAck (sess s h.session).tx →
    Runs (.ack h) s fun t =>
      (sess t h.session).hostAck = h.ack ∧ (sess t h.session).hostWindow = h.window ∧ (sess t h.session).rx = (sess s h.session).rx
        ∧ t.mem = s.mem ∧ t.sched = s.sched)
  ∧ (∀ (s : State) (i : Nat), Inv s → i < 16 → ivtUp s = true → (sess s i).isOpen = true → 0 < (sess s i).unacked → canSend s = true →
    Runs (.ackTimer i) s fun t =>
      t.out = s.out ++ [.ack (envelope s i) i (sess s i).rx] ∧ (sess t i).unacked = 0 ∧ CountedOnce s t pgHPT oHPT_TX_FRAMES)
  ∧ (∀ (s : State) (i : Nat) (f : Sent), Inv s → i < 16 → serving s = true → (sess s i).isOpen = true → canSend s = true →
      (sess s i).sent.find? (fun g => g.seq == f.seq && g.onWire && !g.acked) = some f → f.resends < 12 →
    Runs (.retransmitTimeout i f.seq) s fun t =>
      t.out = s.out ++ [frameOut s i f] ∧ CountedOnce s t pgIVT oIVT_RETX ∧ (sess t i).isOpen = true ∧ t.mem = s.mem)
  ∧ (∀ (s : State) (i : Nat) (f : Sent), Inv s → i < 16 → serving s = true → (sess s i).isOpen = true →
      (sess s i).sent.find? (fun g => g.seq == f.seq && g.onWire && !g.acked) = some f → 12 ≤ f.resends →
    Runs (.retransmitTimeout i f.seq) s fun t => (sess t i).isOpen = false ∧ Raised t pgIVT 2 ∧ t.mem = s.mem)
  ∧ (∀ (s : State) (i : Nat), Inv s → i < 16 → serving s = true → (sess s i).isOpen = true → fldGet s pgIVT oIVT_CTRL 63 48 ≠ 0 →
    Runs (.sessionIdleTimeout i) s fun t => (sess t i).isOpen = false ∧ Raised t pgIVT 2 ∧ t.mem = s.mem)

/-- What a session learns of its own accord: its events go out in one EVENT frame, and an ended request answers with COMPLETE and leaves the
module, after its returns when it has succeeded (R458, R510, R511). -/
def Obligations.EventsAndCompletionsAreSent : Prop :=
  (∀ (s : State) (i : Nat), Inv s → i < 16 → ivtUp s = true → (sess s i).isOpen = true → 1024 ≤ (sess s i).maxPayload →
      (sess s i).events ≠ [] → (∀ e ∈ (sess s i).events, e.sent = none) → (sess s i).events.length ≤ 64 →
    Runs (.eventFrameSend i) s fun t =>
      Sends t i tEvent ((sess s i).events.map eventBytes).flatten ∧ (∀ e ∈ (sess t i).events, e.sent ≠ none) ∧ t.mem = s.mem)
  ∧ (∀ (s : State) (id : Nat) (r : Request), Inv s → req? s id = some r → mayComplete s r = true → r.sess < 16 →
      (sess s r.sess).isOpen = true → (sess s r.sess).keySlot = r.keySlot → 1024 ≤ (sess s r.sess).maxPayload → (9 < r.status ∨ r.rets = []) →
    Runs (.requestComplete id) s fun t =>
      req? t id = none ∧ Sends t r.sess tComplete (completePayload r.tag r.part r.status 0 r.failIdx 0 r.tEnd) ∧ t.mem = s.mem)
  ∧ (∀ (s : State) (id : Nat) (r : Request) (e : Ret), Inv s → req? s id = some r → mayComplete s r = true → r.sess < 16 →
      (sess s r.sess).isOpen = true → (sess s r.sess).keySlot = r.keySlot → r.status ≤ 9 → r.rets = [e] → e.ptr = 0 → 0 < e.len →
      1024 ≤ (sess s r.sess).maxPayload → e.len + 16 ≤ (sess s r.sess).maxPayload → readable s r.part e.addr e.len = e.len →
      r.retFail = false →
    Runs (.requestComplete id) s fun t =>
      req? t id = none ∧ Sends t r.sess tMemData (natLe 8 e.addr ++ natLe 1 r.part ++ natLe 1 0 ++ zeros 6 ++ vread s r.part e.addr e.len)
        ∧ Sends t r.sess tComplete (completePayload r.tag r.part r.status 0 r.failIdx e.len r.tEnd) ∧ t.mem = s.mem)

/-! ### Macro-ops that write tensors (R38-R69, R79-R101, R130-R134, R170-R218, R376-R399). -/

/-- The element-wise macro-ops write OUT = A, A + B, A × B, A × B + C, max(A, B), min(A, B) element by element: exactly between integer types,
else in FP32 rounded once; CONVERT to FP32 is exact before its one rounding, and FILL writes the FP32 value of PARAM (R58, R130, R133, R183). -/
def Obligations.ElementwiseMacroOpsRun : Prop :=
  (∀ (s : State) (ref : MopRef) (x : Run) (op : Nat) (c : Instr) (g : Int → Int → Int → Int) (f : W32 → W32 → W32 → W32),
      (op, c, g, f) ∈ ([(0x11, .add ref, fun a b _ => a + b, fun a b _ => fAdd a b), (0x12, .mul ref, fun a b _ => a * b, fun a b _ => fMul a b),
        (0x13, .fma ref, fun a b d => a * b + d, fFma), (0x14, .max ref, fun a b _ => max a b, fun a b _ => fMax a b),
        (0x15, .min ref, fun a b _ => min a b, fun a b _ => fMin a b)] : List (Nat × Instr × (Int → Int → Int → Int) × (W32 → W32 → W32 → W32))) →
      Ready s ref op 0 x → InputsMapped s x →
    Writes c s x (x.outBytes s fun ix =>
      if x.ints s then Num.ofInt (g (x.el s x.m.tdA ix).sig (x.el s x.m.tdB ix).sig (x.el s x.m.tdC ix).sig)
      else f32 (f (in32 (x.el s x.m.tdA ix)) (in32 (x.el s x.m.tdB ix)) (in32 (x.el s x.m.tdC ix)))))
  ∧ (∀ (s : State) (ref : MopRef) (x : Run), Ready s ref 0x10 0 x → InputsMapped s x →
    Writes (.convert ref) s x (x.outBytes s fun ix =>
      if x.ints s then Num.ofInt (x.el s x.m.tdA ix).sig
      else if (x.tns s x.m.tdOut).td.ty == tyFP32 then x.el s x.m.tdA ix else f32 (in32 (x.el s x.m.tdA ix))))
  ∧ (∀ (s : State) (ref : MopRef) (x : Run), Ready s ref 0x16 0 x → InputsMapped s x →
    Writes (.fill ref) s x (x.outBytes s fun _ => f32 (BitVec.ofNat 32 (x.m.p 0 4))))

/-- A reduction along dimension PARAM[0] writes, for each line of A, its sum, maximum, minimum or sum of squares in ascending order: in integers
between integer types, else in FP32, each step rounded once (R134, R184). A sum that leaves 64 bits is the model's free value. CHAIN runs its
program beat by beat, 64 elements at a time, and OUT takes the result of its last instruction (R170-R182). -/
def Obligations.ReductionsAndChainRun : Prop :=
  (∀ (s : State) (ref : MopRef) (x : Run) (how : Nat) (c : Instr),
      (how, c) ∈ ([(0, .reduceSum ref), (1, .reduceMax ref), (2, .reduceMin ref), (3, .reduceSumSquares ref)] : List (Nat × Instr)) →
      Ready s ref 0x17 how x → x.m.tdA ≠ 0 → unmappedInput s x.p [(inA, x.tns s x.m.tdA)] = none →
    Writes c s x (x.outBytes s fun ix =>
      let line := (List.range ((x.tns s x.m.tdA).dim (x.m.p 0 1))).map fun k => x.el s x.m.tdA (setNth ix (x.m.p 0 1) k)
      if tyInt (x.tns s x.m.tdA).td.ty && tyInt (x.tns s x.m.tdOut).td.ty then
        Num.ofInt (reduceInt s (linear (x.tns s x.m.tdOut).sz ix) how (line.map Num.sig))
      else f32 (reduceF32 how (line.map in32))))
  ∧ (∀ (s : State) (ref : MopRef) (x : Run), Ready s ref 0x18 0 x → InputsMapped s x →
      unmappedRange s x.p [(inAux, x.m.aux, 0x50 + 4 * vnat s x.p x.m.aux 1)] = none →
    let o := x.tns s x.m.tdOut
    let len := nth o.sz 0 1
    let lanes (j : Nat) (rest : List Nat) (code : Nat) : List W32 :=
      if code = 5 ∨ code = 6 ∨ code = 7 then
        (let va := if code = 5 then x.m.tdA else if code = 6 then x.m.tdB else x.m.tdC
         if va = 0 then [] else streamLanes (x.fmt s) (rdr s x.p) (x.tns s va) len j rest)
      else if code = 8 then (List.range 64).map fun i => BitVec.ofNat 32 (j + i)
      else if 0x0C ≤ code ∧ code < 0x10 then List.replicate 64 (BitVec.ofNat 32 (x.m.p (4 * (code - 0x0C)) 4))
      else if 0x10 ≤ code then List.replicate 64 (nth (chainProg s x.p x.m.aux).1 (code - 0x10) 0)
      else List.replicate 64 0
    let beat (j : Nat) (rest : List Nat) : List W32 :=
      (runBeat (x.sf s) (o.td.ty == tyBF16) (Nat.min 64 (len - j)) (lanes j rest) (chainProg s x.p x.m.aux).2).out.take (Nat.min 64 (len - j))
    Writes (.chain ref) s x (x.outBytes s fun ix =>
      wordNum o.td.ty (nth ((indices (o.sz.drop 1)).map fun rest =>
        ((List.range (ceilDiv len 64)).map fun k => beat (64 * k) rest).flatten).flatten (linear o.sz ix) 0)))

/-- SFN writes the special function of each element of A: EXP2, LOG2, RCP, RSQRT or the user table, rounded once to BF16 where OUT is BF16;
an INT32 A gives and an INT32 OUT takes the raw bits (R173, R174, R187-R193, R198, R206). -/
def Obligations.SpecialFunctionsRun : Prop :=
  ∀ (s : State) (ref : MopRef) (x : Run) (n : Nat) (c : Instr),
      (n, c) ∈ ([(0, .sfnExp2 ref), (1, .sfnLog2 ref), (2, .sfnRcp ref), (3, .sfnRsqrt ref), (4, .sfnUser ref)] : List (Nat × Instr)) →
      Ready s ref 0x20 n x → x.m.tdA ≠ 0 → unmappedInput s x.p [(inA, x.tns s x.m.tdA)] = none →
    Writes c s x (x.outBytes s fun ix =>
      wordNum (x.tns s x.m.tdOut).td.ty
        ((x.sf s).eval n ((x.tns s x.m.tdOut).td.ty == tyBF16) (streamElem (x.fmt s) (rdr s x.p) (x.tns s x.m.tdA) ix)).code)

/-- The row operations write, line by line along dimension 0: the soft maximum, its statistics (m, l), the merge of two lines' statistics, the
soft maximum under given statistics, layer and RMS normalisation, and their statistics (R206-R218). -/
def Obligations.RowOperationsRun : Prop :=
  ∀ (s : State) (ref : MopRef) (x : Run) (op sub : Nat) (c : Instr),
      (op, sub, c) ∈ ([(0x21, 0, .softmax ref), (0x22, 0, .softmaxStats ref), (0x23, 0, .statsMerge ref), (0x24, 0, .softmaxApply ref),
        (0x25, 0, .layernorm ref), (0x26, 0, .rmsnorm ref), (0x27, 0, .normStatsLayer ref), (0x27, 1, .normStatsRms ref)]
        : List (Nat × Nat × Instr)) →
      Ready s ref op sub x → x.m.tdA ≠ 0 → InputsMapped s x →
    let rows := (indices ((x.tns s x.m.tdA).sz.drop 1)).map fun rest =>
      (rowLine (x.sf s) op sub (BitVec.ofNat 32 (x.m.p 0 4)) ((x.line s x.m.tdA rest).getD []) (x.line s x.m.tdB rest) (x.line s x.m.tdC rest)).out
    Writes c s x (x.outBytes s fun ix => f32 (nth rows.flatten (linear (x.tns s x.m.tdOut).sz ix) 0))

/-- A matrix product writes, for each row and tile of 128 columns, the long accumulator's exact sums of A · B, of the second coat and the
touch-up products where its form has them, and of C, each rounded once as OUT is written; CONV's rows gather the taps of its window
(R59-R69, R79-R87, R99-R101, R130-R132, R380-R383). -/
def Obligations.MatrixProductsRun : Prop :=
  (∀ (s : State) (ref : MopRef) (x : Run) (op : Nat) (c : Instr),
      (op, c) ∈ ([(0x00, .matmul ref), (0x01, .matmulAdd ref)] : List (Nat × Instr)) → Ready s ref op 0 x →
    let a := x.tns s x.m.tdA
    let b := x.tns s x.m.tdB
    let cT := if x.m.tdC = 0 then none else some (x.tns s x.m.tdC)
    let f := x.matForm s b
    let rows (bt : List Nat) : MatArgs := matArgs (x.fmt s) (rdr s x.p) a b cT f (a.dim 0) (b.dim 1) (fun r k => some ([k, r] ++ bt))
      (fun r k => some ([k, r] ++ bt)) fun m n => [n, m] ++ bt
    unmappedInput s x.p (productInputs a b cT f) = none → unmappedRange s x.p (productLists s x b) = none →
    Writes c s x (x.outBytes s fun ix =>
      (nth (matTable (x.tns s x.m.tdOut).sz rows) (linear (x.tns s x.m.tdOut).sz ix) (Machine.Num.zero, 0)).1))
  ∧ (∀ (s : State) (ref : MopRef) (x : Run), Ready s ref 0x40 0 x →
    let a := x.tns s x.m.tdA
    let b := x.tns s x.m.tdB
    let cT := if x.m.tdC = 0 then none else some (x.tns s x.m.tdC)
    let f := x.matForm s b
    let w := winRec s x.p x.m.aux
    let rows (bt : List Nat) : MatArgs := matArgs (x.fmt s) (rdr s x.p) a b cT f (b.dim 0) (b.dim 1)
      (convRead w a b bt) (fun n k => some [k, n]) fun m n => [n, m] ++ bt
    unmappedInput s x.p (productInputs a b cT f) = none → unmappedRange s x.p ((inAux, x.m.aux, 64) :: productLists s x b) = none →
    Writes (.conv ref) s x (x.outBytes s fun ix =>
      (nth (matTable (x.tns s x.m.tdOut).sz rows) (linear (x.tns s x.m.tdOut).sz ix) (Machine.Num.zero, 0)).1))
  ∧ (∀ (a : MatArgs) (m n0 i : Nat), tyBlocked a.ta = false → tyInt a.ta = true → a.chans = [] → a.wout = [] → a.c = none →
      i < (a.cols n0).length →
    (a.row m n0).value i = Num.ofInt (a.intSum m (n0 + i)))

/-- POOL writes the maximum, minimum or average over each window's taps, padding left out or counted as AVG_PAD says; BOX_DECODE writes the four
sides of each box; NMS writes each image's kept detections in rank order, and their count (R376-R379, R386, R391-R396). -/
def Obligations.WindowsAndDetectionRun : Prop :=
  (∀ (s : State) (ref : MopRef) (x : Run) (how : Nat) (c : Instr),
      (how, c) ∈ ([(0, .poolMax ref), (1, .poolMin ref), (2, .poolAverage ref)] : List (Nat × Instr)) →
      Ready s ref 0x41 how x → x.m.tdA ≠ 0 → unmappedInput s x.p [(inA, x.tns s x.m.tdA)] = none →
      unmappedRange s x.p [(inAux, x.m.aux, 64)] = none →
    Writes c s x (x.outBytes s fun ix =>
      wordNum (x.tns s x.m.tdOut).td.ty (poolOf (x.sf s) how (winRec s x.p x.m.aux).avgPad
        ((winRec s x.p x.m.aux).tapList.map fun tap =>
          ((winRec s x.p x.m.aux).input (nth ix 2 0) (nth ix 1 0) tap).bind fun q =>
            let jx := [nth ix 0 0, q.2, q.1, nth ix 3 0]
            if (x.tns s x.m.tdA).has jx then some (in32 (x.el s x.m.tdA jx)) else if how < 2 then none else some 0)).1))
  ∧ (∀ (s : State) (ref : MopRef) (x : Run) (sub : Nat) (c : Instr),
      (sub, c) ∈ ([(0, .boxDecodeDistances ref), (1, .boxDecodeCentre ref)] : List (Nat × Instr)) →
      Ready s ref 0x48 sub x → InputsMapped s x → unmappedRange s x.p [(inAux, x.m.aux, 64)] = none →
    let four (va : Nat) (rest : List Nat) : List W32 := if va = 0 then [] else (List.range 4).map fun i => in32 (x.el s va (i :: rest))
    let boxes := (indices ((x.tns s x.m.tdOut).sz.drop 1)).map fun rest =>
      (boxOfPos (x.sf s) (detRec s x.p x.m.aux) sub (nth rest 0 0) (four x.m.tdA rest) (four x.m.tdC rest)).1
    Writes c s x (x.outBytes s fun ix => f32 (nth boxes.flatten (linear (x.tns s x.m.tdOut).sz ix) 0)))
  ∧ (∀ (s : State) (ref : MopRef) (x : Run), Ready s ref 0x49 0 x → x.m.tdA ≠ 0 → x.m.tdB ≠ 0 → InputsMapped s x →
      unmappedRange s x.p [(inAux, x.m.aux, 64)] = none →
    let a := x.tns s x.m.tdA
    let d := detRec s x.p x.m.aux
    let image (i : Nat) : List Cand := if i < a.dim 2 then
        (nmsImage d (a.dim 0) (a.dim 1) (fun k p => in32 (x.el s x.m.tdA [k, p, i]))
          fun p => (List.range 4).map fun j => in32 (x.el s x.m.tdB [j, p, i])).kept
      else []
    Writes (.nms ref) s x ((x.outBytes s fun ix => rawInt (slotWord (image (nth ix 2 0)) (nth ix 1 0) (nth ix 0 0)))
      ++ (writeTensor (x.fmt s) (x.tns s d.count) fun ix => Num.ofInt (image (nth ix 0 0)).length).bytes))

/-! ### Attention, contexts and haulage (R281-R345, R604). -/

/-- ATTN writes each live slot's rows, the softmax-weighted sums over the keys that its masks let it see; KV_APPEND writes the new keys and
values into the contexts in blocks; ATTN_GRAD writes dQ, dK and dV (R290-R316). -/
def Obligations.AttentionRuns : Prop :=
  (∀ (s : State) (ref : MopRef) (x : Run), Ready s ref 0x30 0 x →
    let a := attnRec s x.p x.m.aux
    let q := x.tns s x.m.tdA
    let ranges := (x.liveSlots s).map fun l =>
      srcRanges a (localSrc l.2.2 a l.2.1) (tileWork a (localSrc l.2.2 a l.2.1) (l.2.2.base + l.2.1.q0) l.2.1.qlen)
    unmappedInput s x.p [(inA, q)] = none → unmappedRange s x.p ranges.flatten = none →
    let rows := (x.liveSlots s).map fun l =>
      (l.1, (slotPartials (x.fmt s) (rdr s x.p) (x.sf s) (BitVec.ofNat 32 (x.m.p 0 4)) a q l.1 (l.2.2.base + l.2.1.q0) l.2.1.qlen
        (localSrc l.2.2 a l.2.1)).map fun r => RowOf.mk r.h r.i (finishRow (x.sf s) a.partial_ r.part))
    Writes (.attn ref) s x (writeRows (x.fmt s) (x.tns s x.m.tdOut) (x.statsTns s a)
      ((List.range x.st.slots.length).map fun i => ((rows.find? (·.1 == i)).map (·.2)).getD [])).bytes)
  ∧ (∀ (s : State) (ref : MopRef) (x : Run), Ready s ref 0x31 0 x →
      unmappedInput s x.p [(inA, x.tns s x.m.tdA), (inB, x.tns s x.m.tdB)] = none →
    let a := attnRec s x.p x.m.aux
    let keys := (x.liveSlots s).map fun l => (newPositions l.1 l.2.1).map fun n => (List.range a.hkv).map fun g =>
      keyBlocks (x.fmt s) (rdr s x.p) (x.tns s x.m.tdA) (localSrc l.2.2 a l.2.1) a.d n.2.2 g l.1 n.1
    let vals := ((x.liveSlots s).map fun l => l.2.1.ctx).eraseDups.map fun n =>
      let mine := (x.liveSlots s).filter fun l => l.2.1.ctx == n
      let new := (mine.reverse.map fun l => newPositions l.1 l.2.1).flatten
      match mine.head? with
      | none => []
      | some (_, sl, cx) => ((sortBy (· ≤ ·) (new.map fun q => q.1 / 32).eraseDups).map fun sg =>
          ((List.range a.hkv).map fun g => (List.range a.d).map fun j =>
            valBlock (x.fmt s) (rdr s x.p) (x.tns s x.m.tdB) (localSrc cx a sl) a.d g sg j cx.filled new).flatten).flatten
    Writes (.kvAppend ref) s x (((keys.map fun l => (l.map List.flatten).flatten).flatten ++ vals.flatten).map (·.bytes)).flatten)
  ∧ (∀ (s : State) (ref : MopRef) (x : Run), Ready s ref 0x32 0 x →
    let a := attnRec s x.p x.m.aux
    let ranges := (x.liveSlots s).map fun l =>
      srcRanges a (localSrc l.2.2 a l.2.1) (tileWork a (localSrc l.2.2 a l.2.1) (l.2.2.base + l.2.1.q0) l.2.1.qlen)
    unmappedInput s x.p (gradInputs s x a) = none → unmappedRange s x.p ranges.flatten = none →
    let sweeps (l : Nat × SlotLen × Ctx) : GradRes :=
      gradSource (x.fmt s) (rdr s x.p) (x.sf s) (BitVec.ofNat 32 (x.m.p 0 4)) a (localSrc l.2.2 a l.2.1) (l.2.2.base + l.2.1.q0) l.2.1.qlen
        (gradRows (x.fmt s) (rdr s x.p) (x.sf s) a (x.tns s x.m.tdA) (x.tns s x.m.tdB) (x.tns s x.m.tdC) (x.tns s a.stats) l.1 l.2.1.qlen)
        (noQueryGrads a l.2.1.qlen)
    Writes (.attnGrad ref) s x (gradEff s x a ((x.liveSlots s).map fun l => (sweeps l).queries.map fun g => (l.1, g)).flatten
      ((x.liveSlots s).map fun l => (sweeps l).keys.map fun g => (l.1, l.2.1.k0, g)).flatten {} 0).bytes)

/-- CTX opens a context that is not open, sets its maximum length and clips FILLED, sets FILLED, and closes it; pages beyond the new end are
unmapped (R283-R288, R604). -/
def Obligations.ContextCommandsRun : Prop :=
  (∀ (s : State) (ref : MopRef) (x : Run), Inv s → Ready s ref 0x34 0 x → ctxBusy s x.p (ctxParam x.m).ctx = false →
      ctx? s (ctxParam x.m).ctx = none → (ctxParam x.m).base + (ctxParam x.m).value ≤ 2 ^ 24 →
      ((ctxParam x.m).open x.p).extent ≤ 2 ^ 43 →
    Runs (.ctxOpen ref) s fun t =>
      t.ctxs = s.ctxs ++ [(ctxParam x.m).open x.p] ∧ CountedOnce s t pgPOL oPOL_CTX_OPENS ∧ t.mem = s.mem ∧ t.pool = s.pool ∧ Worked t x)
  ∧ (∀ (s : State) (ref : MopRef) (x : Run) (c : Ctx), Ready s ref 0x34 1 x → ctxBusy s x.p (ctxParam x.m).ctx = false →
      ctx? s (ctxParam x.m).ctx = some c → c.owner = x.p → headDimOf (ctxParam x.m).headDim = c.headDim → (ctxParam x.m).hkv = c.hkv →
      (ctxParam x.m).layers = c.layers → (ctxParam x.m).base = c.base → c.base + (ctxParam x.m).value ≤ 2 ^ 24 →
      ({ c with maxlen := (ctxParam x.m).value } : Ctx).extent ≤ 2 ^ 43 →
    Runs (.ctxResize ref) s fun t =>
      ctx? t c.index = some { c with maxlen := (ctxParam x.m).value, filled := Nat.min c.filled (ctxParam x.m).value }
        ∧ (∀ e ∈ t.pool.ptes, e.space = .ctx c.index → e.va < ({ c with maxlen := (ctxParam x.m).value } : Ctx).extent)
        ∧ (∀ e ∈ s.pool.ptes, e.space ≠ .ctx c.index ∨ e.va < ({ c with maxlen := (ctxParam x.m).value } : Ctx).extent → e ∈ t.pool.ptes)
        ∧ t.mem = s.mem ∧ Worked t x)
  ∧ (∀ (s : State) (ref : MopRef) (x : Run) (c : Ctx), Ready s ref 0x34 2 x → ctxBusy s x.p (ctxParam x.m).ctx = false →
      ctx? s (ctxParam x.m).ctx = some c → c.owner = x.p →
    Runs (.ctxClose ref) s fun t =>
      t.ctxs = s.ctxs.filter (·.index != c.index) ∧ (∀ e ∈ t.pool.ptes, e.space ≠ .ctx c.index)
        ∧ (∀ e ∈ s.pool.ptes, e.space ≠ .ctx c.index → e ∈ t.pool.ptes) ∧ t.mem = s.mem ∧ Worked t x)
  ∧ (∀ (s : State) (ref : MopRef) (x : Run) (c : Ctx), Ready s ref 0x34 3 x → ctxBusy s x.p (ctxParam x.m).ctx = false →
      ctx? s (ctxParam x.m).ctx = some c → c.owner = x.p → (ctxParam x.m).value ≤ c.maxlen →
    Runs (.ctxFill ref) s fun t =>
      ctx? t c.index = some { c with filled := (ctxParam x.m).value } ∧ t.mem = s.mem ∧ t.pool = s.pool ∧ Worked t x)

/-- An item has left the module, or waits for its turn and for credits on a port (R355). -/
def Placed (t : State) (port : Nat) (item : Out) : Prop := item ∈ t.out ∨ ∃ w ∈ (portOf t port).wait, w.item = item

/-- HAUL_SEND sends this module's tubs to the first module that needs each; HAUL_ATTN, whose every tile may merge every tub that visits, merges them
into the local partial; HAUL_GRAD sends back the gradient tubs, and then adds those that have come to its own (R323-R337). -/
def Obligations.HaulageMacroOpsRun : Prop :=
  (∀ (s : State) (ref : MopRef) (x : Run) (h : Haul) (g : HaulGeo) (gr : Bool) (c : Ctx), Inv s → Ready s ref 0x38 0 x →
      s.links.ports.length = 6 → x.haul s = some (h, g, gr) → x.haulCtx s = some c → h.sent = false →
      (∀ back ch i, g.dests back g.me ≠ [] → ch ∈ g.tub back g.me 0 → i < g.segs g.me ch →
        rangeMapped s x.p (ctxVa c.index ((4 * ch + i) * c.seg + g.a.layer * g.segBytes false)) (g.segBytes false) = true) →
    Runs (.haulSend ref) s fun t =>
      (∀ back ch, g.dests back g.me ≠ [] → ch ∈ g.tub back g.me 0 →
        Placed t (stepPort s x.p back) (.chunk (stepPort s x.p back) (g.hdr h (if back then 1 else 0) g.me ch) (ownChunk s g c ch)))
        ∧ haul? t x.p h.id = some { h with sent := true, due := [] }
        ∧ (g.missing h = false → chunkWaits t x.p h.id = false → Worked t x) ∧ t.mem = s.mem)
  ∧ (∀ (s : State) (ref : MopRef) (x : Run) (h : Haul) (g : HaulGeo) (gr : Bool) (sl : SlotLen) (st : Tns), Ready s ref 0x39 0 x →
      x.haul s = some (h, g, gr) → (haulMerged s x h g sl.qlen).all (· == g.visits.length) = true → h.merged = [] →
      x.st.slots.head? = some sl → x.statsTns s (attnRec s x.p x.m.aux) = some st →
      unmappedInput s x.p [(inA, x.tns s x.m.tdA), (inC, x.tns s x.m.tdC), (inAux, st)] = none →
    let a := attnRec s x.p x.m.aux
    let el (t : Tns) (j i h : Nat) : W32 := in32 (valAt (x.fmt s) (rdr s x.p) t [j, i, h, 0]).1
    let tubs := g.visits.map fun v => slotPartials (x.fmt s) (rdr s x.p) (x.sf s) (BitVec.ofNat 32 (x.m.p 0 4)) a (x.tns s x.m.tdA) 0
      (g.shard g.me).1 sl.qlen (g.src v.1 v.2.1 v.2.2)
    let rows := ((List.range a.hq).map fun h => (List.range sl.qlen).map fun i =>
      RowOf.mk h i (tubs.foldl (fun acc l =>
        match l.find? fun r => r.h == h && r.i == i with
        | some r => mergeRows (x.sf s) (BitVec.ofNat 32 (x.m.p 0 4)) acc r.part
        | none => acc)
        ⟨⟨el st 0 i h, el st 1 i h⟩, (List.range a.d).map fun j => el (x.tns s x.m.tdC) j i h, {}⟩)).flatten
    Writes (.haulAttn ref) s x ((writeRows (x.fmt s) (x.tns s x.m.tdC) none [rows]).bytes
      ++ (writeRows (x.fmt s) (x.tns s x.m.tdOut) (some st) [rows.map fun r => RowOf.mk r.h r.i (finishRow (x.sf s) false r.part)]).bytes))
  ∧ (∀ (s : State) (ref : MopRef) (x : Run) (h : Haul) (g : HaulGeo) (gr : Bool) (sl : SlotLen) (cx : Ctx), Inv s → Ready s ref 0x3A 0 x →
      x.haul s = some (h, g, gr) → ({ g with a := attnRec s x.p x.m.aux } : HaulGeo).missing h = false → x.st.slots.head? = some sl → x.haulCtx s = some cx →
    let a := attnRec s x.p x.m.aux
    let mine := { g with a := a }
    let lsrc := localSrc cx a sl
    unmappedInput s x.p (gradInputs s x a) = none →
    unmappedRange s x.p (srcRanges a lsrc (tileWork a lsrc (g.shard g.me).1 sl.qlen)) = none →
    let rows := gradRows (x.fmt s) (rdr s x.p) (x.sf s) a (x.tns s x.m.tdA) (x.tns s x.m.tdB) (x.tns s x.m.tdC) (x.tns s a.stats) 0 sl.qlen
    let res := haulGradRes s x mine sl cx rows
    (h.gradSent = false → s.links.ports.length = 6 → (∀ c ∈ s.links.heldChunks, ¬(c.hdr.tag = x.p ∧ c.hdr.haulId = h.id)) →
      Runs (.haulGrad ref) s fun t => ∀ back j k r ch, ((back, j, k), r) ∈ res.2 → ch ∈ mine.need g.me j →
        Placed t (stepPort s x.p (!back))
          (.chunk (stepPort s x.p (!back)) (mine.hdr h (if back then 3 else 2) j ch) (gradChunk mine r.keys j ch)))
    ∧ (h.gradSent = true → mine.gradsDone h = true →
      Writes (.haulGrad ref) s x (gradEff s x a
        ((((res.2.getLast?).map fun t => t.2.queries).getD res.1.queries).map fun q => (0, q))
        ((res.1.keys.map (addGrads s mine)).map fun k => (0, sl.k0, k)) {} 0).bytes))

/-- A tub chunk that arrives before its haul has begun is held back; one of a tub that visits here lands in the tub area and goes on where a
later module needs it, once this module's own tubs have gone; a stray one, and a haul that waits TIMEOUT, end the job of the slice; a request that has ended aborts its hauls on the
whole slice (R325, R333, R339-R343). -/
def Obligations.HaulTrafficRuns : Prop :=
  (∀ (s : State) (h : TubHdr) (data : Bytes), Inv s → serving s = true → h.tag < 16 → (sliceBox s h.tag).valid = true →
      haul? s h.tag h.haulId = none →
    Runs (.tubChunkReceive h data) s fun t =>
      t = { s with regs := t.regs, links := { s.links with heldChunks := s.links.heldChunks ++ [⟨h, data⟩] } })
  ∧ (∀ (s : State) (h : TubHdr) (data : Bytes) (x : Haul) (g : HaulGeo) (m : Mop) (grad : Bool) (k : Nat), Inv s → serving s = true →
      h.tag < 16 → (sliceBox s h.tag).valid = true → haul? s h.tag h.haulId = some x → h.exec = x.exec →
      haulInfo s x = some (g, m, grad) → h.layer = g.a.layer → h.srcRank < g.n → h.dir < 2 → h.segs = g.segs h.srcRank h.chunk → 0 < h.segs →
      data.length = h.segs * g.segBytes false → g.stepAt (h.dir == 1) h.srcRank g.me = some k →
      (g.tub (h.dir == 1) h.srcRank k).contains h.chunk = true → x.got.contains (h.dir, h.srcRank, h.chunk) = false →
      s.links.ports.length = 6 →
    let goesOn : Prop := k + 1 < (g.dests (h.dir == 1) h.srcRank).length ∧ (g.tub (h.dir == 1) h.srcRank (k + 1)).contains h.chunk = true
    Runs (.tubChunkReceive h data) s fun t =>
      (∃ due, haul? t h.tag h.haulId = some { x with got := x.got ++ [(h.dir, h.srcRank, h.chunk)], due := due }
          ∧ (goesOn ∧ x.sent = false → due = x.due ++ [(h.dir, h.srcRank, h.chunk)]) ∧ (¬goesOn ∨ x.sent = true → due = x.due))
        ∧ t.mem = (vstore h.tag (bytesAt (g.place false (h.dir == 1) h.srcRank k h.chunk) data) s).mem ∧ t.pool = s.pool ∧ t.sched = s.sched
        ∧ (goesOn → x.sent = true → Placed t (stepPort s h.tag (h.dir == 1)) (.chunk (stepPort s h.tag (h.dir == 1)) h data))
        ∧ (goesOn → x.sent = false → t.out = s.out)
        ∧ (¬goesOn → t.out = s.out ∧ CountedOnce s t pgRTR oRTR_TUB_DROPPED))
  ∧ (∀ (s : State) (h : TubHdr) (data : Bytes) (x : Haul) (g : HaulGeo) (m : Mop) (grad : Bool), Inv s → serving s = true →
      h.tag < 16 → (sliceBox s h.tag).valid = true → haul? s h.tag h.haulId = some x → h.exec = x.exec →
      haulInfo s x = some (g, m, grad) → g.n ≤ h.srcRank →
    Runs (.tubChunkReceive h data) s fun t => JobOver s t h.tag ∧ CountedOnce s t pgRTR oRTR_HAUL_STRAY ∧ Raised t pgRTR 0x12)
  ∧ (∀ (s : State) (p id : Nat) (h : Haul), Inv s → serving s = true → haul? s p id = some h → haulWaits s h = true →
      (∀ k ∈ s.links.heldMarks, k.part ≠ p) →
    Runs (.haulTimeout p id) s fun t => JobOver s t p ∧ CountedOnce s t pgRTR oRTR_HAUL_TIMEOUTS ∧ Raised t pgRTR 0x10)
  ∧ (∀ (s : State) (id : Nat) (r : Request), Inv s → serving s = true → req? s id = some r → r.st = .ended → 9 < r.status →
      r.status ≠ stFault → r.told = false → reqHauls s r ≠ [] →
    Runs (.haulAbort id) s fun t =>
      req? t id = some { r with told := true }
        ∧ (∀ port, port < 6 → linkInBox s (sliceBox s r.part) port = true → portLive s port = true →
          .bell port r.part bellABORT (myRank s r.part) r.status ((reqHauls s r).map (BitVec.ofNat 32)) ∈ t.out)
        ∧ t.mem = s.mem)

/-! ### Collectives (R359-R374). -/

/-- REDUCE_SCATTER and ALL_GATHER: alone in its slice a module copies A to OUT and is done; else, with its reduction slots free, it sends its
own part of the first phase in pieces. A piece that comes is kept until its collective runs here; then it is combined and goes on (R360-R370). -/
def Obligations.RingCollectivesRun : Prop :=
  (∀ (s s1 : State) (ref : MopRef) (x : Run) (op : Nat) (c : Instr),
      (op, c) ∈ ([(opREDUCE_SCATTER, .reduceScatter ref), (opALL_GATHER, .allGather ref)] : List (Nat × Instr)) → Inv s → Ready s ref op 0 x →
      coll? s x.r.id x.i = none → collSizesOk s x = true → unmappedInput s x.p [(inA, x.tns s x.m.tdA)] = none →
      ringAxes s x.p x.m = [] → copyOwn s x = .ok s1 → collAgrees s1 x = true → ringAxes s1 x.p x.m = [] →
    Runs c s fun t => t.mem = s1.mem ∧ t.pool = s1.pool ∧ Worked t x ∧ CountedOnce s1 t pgRTR oRTR_COLLS)
  ∧ (∀ (s s1 : State) (ref : MopRef) (x : Run) (op : Nat) (c : Instr) (a : Nat) (rest : List Nat),
      (op, c) ∈ ([(opREDUCE_SCATTER, .reduceScatter ref), (opALL_GATHER, .allGather ref)] : List (Nat × Instr)) → Inv s → Ready s ref op 0 x →
      coll? s x.r.id x.i = none → collSizesOk s x = true → unmappedInput s x.p [(inA, x.tns s x.m.tdA)] = none →
      ringAxes s x.p x.m = a :: rest → (if op = opALL_GATHER then copyOwn s x else .ok s) = .ok s1 → collAgrees s1 x = true →
      (∀ d ∈ s.links.claims, ¬(d.req = x.r.id ∧ d.mop = x.i)) → (∀ e, e < 2 → x.m.nslot ≤ redFree s e ∧ redQueue s e = 0) →
      (∀ q ∈ s.links.pieces, ¬(q.part = x.p ∧ q.coll = x.m.collId)) → stepBytes s1 x a 1 ≠ 0 → s.links.ports.length = 6 →
    let part := nth (phaseParts s1 x.p (collElems s1 x) x.m a) (sendPart op (axisPos s1 x.p a) (axisLen s1 x.p a) 1) (0, 0)
    let data := wireRange s1 x (ringTns s1 x) part
    Runs c s fun t =>
      coll? t x.r.id x.i = some { req := x.r.id, mop := x.i, part := x.p, coll := x.m.collId, started := true }
        ∧ (∀ k, k < ceilDiv data.length pieceBytes →
          Placed t (ringPort s1 x.p a)
            (.piece (ringPort s1 x.p a) x.p x.m.collId 0 1 (k * pieceBytes) ((data.drop (k * pieceBytes)).take pieceBytes)))
        ∧ t.mem = s1.mem ∧ t.pool = s1.pool)
  ∧ (∀ (s : State) (p coll phase step offset : Nat) (data : Bytes), serving s = true → p < 16 → (sliceBox s p).valid = true →
      (∀ c ∈ s.links.colls, ¬(c.part = p ∧ c.coll = coll)) →
    Runs (.collPieceReceive p coll phase step offset data) s fun t =>
      t = { s with links := { s.links with pieces := s.links.pieces ++ [⟨p, coll, phase, step, offset, data⟩] } })
  ∧ (∀ (s : State) (p coll phase step offset : Nat) (data : Bytes) (c : Coll) (x : Run) (a : Nat), Inv s → serving s = true → p < 16 →
      (sliceBox s p).valid = true → s.links.colls.find? (fun c => c.part == p && c.coll == coll) = some c → coll? s c.req c.mop = some c →
      run? s ⟨c.req, c.mop⟩ = some x → x.p = p → x.st.stage = .granted → x.st.memWait = none → x.m.opcode = opREDUCE_SCATTER →
      x.m.collId = coll → c.phase = phase → c.started = true → (ringAxes s p x.m)[phase]? = some a → phaseRuns s x a = true →
      (∀ q ∈ s.links.pieces, ¬(q.part = p ∧ q.coll = coll ∧ q.phase = phase)) →
      pieceFits s x c a ⟨p, coll, phase, step, offset, data⟩ = true → step + 1 < axisLen s p a → stepBytes s x a (step + 1) ≠ 0 →
      (∀ g ∈ c.got, g.1 ≠ step + 1) → s.links.ports.length = 6 →
    let t0 := ringTns s x
    let w := tyBytes (wireTy x.m t0.td.ty)
    let part := nth (phaseParts s p (collElems s x) x.m a) (recvPart opREDUCE_SCATTER (axisPos s p a) (axisLen s p a) step) (0, 0)
    let es := wireElems w data
    let sums := (List.range es.length).map fun i =>
      natLe w (combine x.m.redOp t0.td.ty x.m.acc (nth es i 0) (vecCode s p t0 (part.1 + offset / w + i)))
    Runs (.collPieceReceive p coll phase step offset data) s fun t =>
      coll? t c.req c.mop = some { c with got := c.got ++ [(step, offset, data.length)] }
        ∧ Placed t (ringPort s p a) (.piece (ringPort s p a) p coll phase (step + 1) offset sums.flatten)
        ∧ t.mem = s.mem ∧ t.links.pieces = s.links.pieces)

/-- BELL_REDUCE, BELL_BARRIER and BELL_BCAST: alone in its slice a module is done at once, OUT taking A; else its value goes out on the first
axis both ways as far as it must travel, and is kept for the line (R362, R364, R373). -/
def Obligations.BellCollectivesRun : Prop :=
  (∀ (s s1 : State) (ref : MopRef) (x : Run) (op : Nat) (c : Instr),
      (op, c) ∈ ([(opBELL_REDUCE, .bellReduce ref), (opBELL_BCAST, .bellBcast ref)] : List (Nat × Instr)) → Inv s → Ready s ref op 0 x →
      coll? s x.r.id x.i = none → collSizesOk s x = true → unmappedInput s x.p [(inA, x.tns s x.m.tdA)] = none → bellAxes s x.p = [] →
      (op = opBELL_BCAST → x.m.p 4 4 = myRank s x.p) →
      writeVec s x (x.tns s x.m.tdOut) 0 ((List.range (x.tns s x.m.tdA).count).map fun i => vecCode s x.p (x.tns s x.m.tdA) i % 2 ^ 32) = .ok s1 →
    Runs c s fun t => t.mem = s1.mem ∧ t.pool = s1.pool ∧ Worked t x ∧ CountedOnce s1 t pgRTR oRTR_BELL_OPS)
  ∧ (∀ (s : State) (ref : MopRef) (x : Run), Inv s → Ready s ref opBELL_BARRIER 0 x → coll? s x.r.id x.i = none → bellAxes s x.p = [] →
    Runs (.bellBarrier ref) s fun t => t.mem = s.mem ∧ t.pool = s.pool ∧ Worked t x ∧ CountedOnce s t pgRTR oRTR_BELL_OPS)
  ∧ (∀ (s : State) (ref : MopRef) (x : Run) (op : Nat) (c : Instr) (a : Nat) (rest : List Nat),
      (op, c) ∈ ([(opBELL_REDUCE, .bellReduce ref), (opBELL_BARRIER, .bellBarrier ref), (opBELL_BCAST, .bellBcast ref)] : List (Nat × Instr)) →
      Inv s → Ready s ref op 0 x → coll? s x.r.id x.i = none → collSizesOk s x = true →
      unmappedInput s x.p [(inA, x.tns s x.m.tdA)] = none → bellAxes s x.p = a :: rest →
      (∀ b ∈ s.links.bells, ¬(b.part = x.p ∧ b.coll = x.m.collId)) →
    let mine : List W32 := if op = opBELL_REDUCE ∨ (op = opBELL_BCAST ∧ x.m.p 4 4 = myRank s x.p) then
        (List.range (x.tns s x.m.tdA).count).map fun i => BitVec.ofNat 32 (vecCode s x.p (x.tns s x.m.tdA) i)
      else []
    Runs c s fun t =>
      coll? t x.r.id x.i = some { req := x.r.id, mop := x.i, part := x.p, coll := x.m.collId, started := true, val := mine }
        ∧ t.links.bells = s.links.bells ++ [⟨x.p, x.m.collId, a, axisOff s x.p a, mine⟩]
        ∧ (∀ up, 0 < bellReach (axisLen s x.p a) (planeLen s a) (axisOff s x.p a) up → portLive s (if up then a + 3 else a) = true →
          .bell (if up then a + 3 else a) x.p bellCOLL x.m.collId (a * 1024 + axisOff s x.p a) mine ∈ t.out)
        ∧ t.mem = s.mem)

/-- A claim on an edge die's reduction slots is granted when slots come free, or lapses into unit reductions; a collective that waits TIMEOUT ends
the job of its slice (R368-R371). -/
def Obligations.CollectiveClaimsAndTimersRun : Prop :=
  (∀ (s : State) (edge : Nat) (c : Claim), Inv s → serving s = true →
      s.links.claims.find? (fun c => c.edge == edge && !c.granted && !c.lapsed) = some c → c.slots ≤ redFree s edge →
    Runs (.reductionClaimGrant edge) s fun t =>
      (∀ d ∈ t.links.claims, d.req = c.req → d.mop = c.mop → d.edge = edge → d.granted = true) ∧ CountedOnce s t pgRTR oRTR_RED_CLAIMS)
  ∧ (∀ (s : State) (m : MopRef) (edge : Nat) (c : Claim), Inv s → serving s = true →
      s.links.claims.find? (fun c => c.req == m.req && c.mop == m.idx && c.edge == edge && !c.granted && !c.lapsed) = some c →
    Runs (.redFallback m edge) s fun t =>
      (∀ d ∈ t.links.claims, d.req = m.req → d.mop = m.idx → d.edge = edge → d.lapsed = true)
        ∧ CountedOnce s t pgRTR oRTR_RED_FALLBACKS ∧ Raised t pgRTR 2)
  ∧ (∀ (s : State) (m : MopRef) (x : Run) (c : Coll), Inv s → serving s = true → run? s m = some x → coll? s m.req m.idx = some c →
      collWaits s x c = true → (∀ k ∈ s.links.heldMarks, k.part ≠ x.p) →
    Runs (.collTimeout m) s fun t => JobOver s t x.p ∧ CountedOnce s t pgRTR oRTR_COLL_TIMEOUTS ∧ Raised t pgRTR 4)

/-! ### Memory, tally and map macro-ops (R262-R278, R467-R470, R481-R483, R603). -/

/-- There are `n` frames of `size` bytes among `total` that a map may take: their numbers differ, and nothing is in use there (R269, R270). -/
def FreeFrames (s : State) (place : Nat → Option Nat) (size total n : Nat) : Prop :=
  ∃ l : List Nat, l.Nodup ∧ l.length = n ∧ ∀ i ∈ l, i < total ∧ ∃ pa, place i = some pa ∧ frameBusy s pa size = false

/-- The frames taken are free in `s`, and no two are one. -/
def TakenFrames (s : State) (size : Nat) (frames : List Nat) : Prop := frames.Nodup ∧ ∀ f ∈ frames, frameBusy s f size = false

/-- COPY writes A's elements to OUT as they are stored, blocks whole; PREFETCH brings A's pages to HBM, PIN also keeps them there, UNPIN lets them
go; IMAGE_WRITE writes the slot that is not in force, and IMAGE_SEAL seals it or, where its payload does not match, ends the request; the
outcome of that match is the model's free value (R262, R263, R274-R278, R603). Every SHOOTDOWN that does its work is counted once. -/
def Obligations.MemoryMacroOpsRun : Prop :=
  (∀ (s : State) (ref : MopRef) (x : Run), Ready s ref 0x80 0 x →
    let a := x.tns s x.m.tdA
    let o := x.tns s x.m.tdOut
    copyShape a.td o.td a.sz o.sz = none → unmappedInput s x.p [(inA, a)] = none →
    Writes (.copy ref) s x
      (if tyBlocked a.td.ty then ((groupStarts a.sz a.td.blockDim 32).map fun ix => copyBlock (rdr s x.p) a o ix ix).flatten
      else if a.td.compressed || o.td.compressed then
        x.outBytes s fun ix => (valAt (x.fmt s) (rdr s x.p) a (unlinear a.sz (linear o.sz ix))).1
      else ((indices o.sz).map fun ix =>
        bytesAt (elemVa o.td ix) (readN (rdr s x.p) (elemVa a.td (unlinear a.sz (linear o.sz ix))) (tyBytes a.td.ty))).flatten))
  ∧ (∀ (s s1 : State) (ref : MopRef) (x : Run) (es : List Pte), Ready s ref 0x81 0 x →
      entriesAt s x.p (extentPages (x.tns s x.m.tdA)) [] = some es → promoteAll x.p es s = some s1 →
    Runs (.prefetch ref) s fun t => t.mem = s1.mem ∧ t.pool = s1.pool ∧ Worked t x)
  ∧ (∀ (s s1 : State) (ref : MopRef) (x : Run) (es : List Pte), Ready s ref 0x82 0 x →
      entriesAt s x.p (extentPages (x.tns s x.m.tdA)) [] = some es → pinFits s x.p es = true → pinAll x.p es s = some s1 →
    Runs (.pin ref) s fun t =>
      t.mem = s1.mem ∧ t.pool = (modPtes es (fun e => { e with pin := true, evicting := false }) s1).pool ∧ Worked t x)
  ∧ (∀ (s : State) (ref : MopRef) (x : Run) (es : List Pte), Ready s ref 0x83 0 x →
      entriesAt s x.p (extentPages (x.tns s x.m.tdA)) [] = some es →
    Runs (.unpin ref) s fun t => t.mem = s.mem ∧ t.pool = (modPtes es (fun e => { e with pin := false }) s).pool ∧ Worked t x)
  ∧ (∀ (s : State) (ref : MopRef) (x : Run), Ready s ref 0x84 0 x →
      rangeMapped s x.p (x.tns s x.m.tdA).td.base (extentBytes (x.tns s x.m.tdA)) = true → commitFails s = false →
    let i := x.m.p 0 4
    Runs (.imageWrite ref) s fun t =>
      t.mem = (imgWrite (imgWrite s i (imgFree s i) 0 (zeros 4096)) i (imgFree s i) (4096 + x.m.p 4 8)
        (vread s x.p (x.tns s x.m.tdA).td.base (extentBytes (x.tns s x.m.tdA)))).mem ∧ t.pool = s.pool ∧ Worked t x)
  ∧ (∀ (s : State) (ref : MopRef) (x : Run), Inv s → Ready s ref 0x85 0 x → commitFails s = false →
    let i := x.m.p 0 4
    let k := imgFree s i
    let gen := if imgSealed s i (1 - k) then imgFld s i (1 - k) 8 8 + 1 else 1
    Runs (.imageSeal ref) s fun t =>
      (t.mem = (imgWrite s i k 0 (imgHeader gen (x.m.p 4 8) i k (sha3 (imgRead s i k 4096 (x.m.p 4 8))))).mem ∧ Worked t x)
        ∨ EndedWith t x.r.id stDescriptor)
  ∧ (∀ (s : State) (ref : MopRef) (x : Run) (sub : Nat) (c : Instr),
      (sub, c) ∈ ([(0, .mapHbm ref), (1, .mapFlash ref), (2, .unmap ref), (3, .mapImage ref), (4, .changeProtection ref)] : List (Nat × Instr)) →
      Inv s → Ready s ref 0xF8 sub x → mapSpaceFail s x.p (mapParam x.m) = none →
    let q := mapParam x.m
    (sub = 0 ∨ sub = 1 ∨ sub = 3 → unmappedAll s x.p q = true) → (sub = 2 ∨ sub = 4 → (mappedAll s x.p q).isSome = true) →
      (sub = 0 → hbmUse s x.p + q.bytes ≤ quotaH s x.p ∧ FreeFrames s (hbmPlace s q.page) q.page (12 * (62 * 2 ^ 30 / q.page)) q.count) →
      (sub = 1 → flashUse s x.p + q.bytes ≤ quotaF s x.p
        ∧ FreeFrames s (flashPlace s q.page) q.page (4 * ((flashSize s - (16 + s.nv.area * 16) * 2 ^ 30) / q.page)) q.count) →
      (sub = 3 → (imgInForce s q.image).isSome = true ∧ q.bytes ≤ imgSlotSize s) → (sub = 3 ∨ sub = 4 → q.pin = false) →
    Runs c s fun t => Worked t x ∧ CountedOnce s t pgPOL oPOL_SHOOTDOWNS)

/-- TALLY_SET and TALLY_ADD change their tally and no other, BARRIER waits for every macro-op before it, CKPT_SAVE writes the tensors and the
header with SEAL last, CKPT_RESTORE brings the tensors back (R467-R470, R481-R483). -/
def Obligations.ControlMacroOpsRun : Prop :=
  (∀ (s : State) (ref : MopRef) (x : Run), Inv s → Ready s ref 0xF0 0 x →
    Runs (.tallySet ref) s fun t =>
      tally t (x.m.p 0 2) = BitVec.ofNat 32 (x.m.p 4 4) ∧ (∀ n, n ≠ x.m.p 0 2 → tally t n = tally s n) ∧ t.mem = s.mem ∧ t.pool = s.pool
        ∧ Worked t x)
  ∧ (∀ (s : State) (ref : MopRef) (x : Run), Inv s → Ready s ref 0xF1 0 x →
    Runs (.tallyAdd ref) s fun t =>
      tally t (x.m.p 0 2) = tally s (x.m.p 0 2) + BitVec.ofNat 32 (x.m.p 4 4) ∧ (∀ n, n ≠ x.m.p 0 2 → tally t n = tally s n)
        ∧ t.mem = s.mem ∧ t.pool = s.pool ∧ Worked t x)
  ∧ (∀ (s : State) (ref : MopRef) (x : Run), Ready s ref 0xF2 0 x → (∀ j, j < x.i → stageOf s x.r.id j = some .done) →
    Runs (.barrier ref) s fun t => t.mem = s.mem ∧ t.pool = s.pool ∧ Worked t x)
  ∧ (∀ (s : State) (ref : MopRef) (x : Run) (j : Nat), Ready s ref 0xF2 0 x → j < x.i → stageOf s x.r.id j ≠ some .done →
    Runs (.barrier ref) s fun t => t = s)
  ∧ (∀ (s : State) (ref : MopRef) (x : Run), Ready s ref 0xF4 0 x →
    let r := ckptRec s x.p x.m.aux
    let ts := r.tensors s x.p
    let parts := ckptParts 4096 ts
    unmappedInput s x.p (ts.map fun t => (inAux, t)) = none →
    Writes (.ckptSave ref) s x (bytesAt r.dest (zeros 8)
      ++ (List.zipWith (fun t (q : Part) => bytesAt (r.dest + q.elemOff) (packElems (rdr s x.p) t)
        ++ bytesAt (r.dest + q.scaleOff) (packScales (rdr s x.p) t)) ts parts).flatten
      ++ bytesAt (r.dest + 0x40) (parts.map fun q => natLe 8 q.elemOff ++ natLe 8 q.elemLen ++ natLe 8 q.scaleOff ++ natLe 8 q.scaleLen).flatten
      ++ bytesAt (r.dest + 0x10) (natLe 1 r.ntd) ++ bytesAt (r.dest + 8) (natLe 8 r.gen) ++ bytesAt r.dest (natLe 8 ckptSeal)))
  ∧ (∀ (s : State) (ref : MopRef) (x : Run), Ready s ref 0xF5 0 x →
    let r := ckptRec s x.p x.m.aux
    let ts := r.tensors s x.p
    rangeMapped s x.p r.dest r.bytes = true → ckptMatches s x.p r (ckptParts 4096 ts) = true →
    Writes (.ckptRestore ref) s x ((List.range ts.length).zipWith (fun i t =>
      unpackTns (rdr s x.p) t (r.dest + vnat s x.p (r.dest + 0x40 + 32 * i) 8) (r.dest + vnat s x.p (r.dest + 0x40 + 32 * i + 16) 8)) ts).flatten)

/-- SHOOTDOWN maps a range in zeroed HBM frames, in flash frames that read zero, or on the pages of an image, unmaps it, or changes its W and
PIN, and every other page stays as it was (R264, R268, R269). -/
def Obligations.ShootdownsRun : Prop :=
  (∀ (s : State) (ref : MopRef) (x : Run), Ready s ref 0xF8 0 x → mapSpaceFail s x.p (mapParam x.m) = none →
      unmappedAll s x.p (mapParam x.m) = true → hbmUse s x.p + (mapParam x.m).bytes ≤ quotaH s x.p →
    let q := mapParam x.m
    FreeFrames s (hbmPlace s q.page) q.page (12 * (62 * 2 ^ 30 / q.page)) q.count →
    Runs (.mapHbm ref) s fun t =>
      ∃ frames : List Nat, frames.length = q.count ∧ TakenFrames s q.page frames
        ∧ t.pool.ptes = s.pool.ptes ++ List.zipWith (fun o pa =>
          { space := vaSpace x.p q.va, va := o, small := q.small, pa := pa, w := q.w, pin := q.pin, stamp := now s, owner := x.p }) q.offs frames
        ∧ (∀ f ∈ frames, ∀ a, f ≤ a → a < f + q.page → memGet t a = 0) ∧ Worked t x)
  ∧ (∀ (s : State) (ref : MopRef) (x : Run), Ready s ref 0xF8 1 x → mapSpaceFail s x.p (mapParam x.m) = none →
      unmappedAll s x.p (mapParam x.m) = true → flashUse s x.p + (mapParam x.m).bytes ≤ quotaF s x.p →
    let q := mapParam x.m
    FreeFrames s (flashPlace s q.page) q.page (4 * ((flashSize s - (16 + s.nv.area * 16) * 2 ^ 30) / q.page)) q.count →
    Runs (.mapFlash ref) s fun t =>
      ∃ frames : List Nat, frames.length = q.count ∧ TakenFrames s q.page frames
        ∧ t.pool.ptes = s.pool.ptes ++ List.zipWith (fun o pa =>
          { space := vaSpace x.p q.va, va := o, small := q.small, pa := pa, zero := true, flash := true, w := q.w, owner := x.p }) q.offs frames
        ∧ t.mem = s.mem ∧ Worked t x)
  ∧ (∀ (s : State) (ref : MopRef) (x : Run) (es : List Pte), Ready s ref 0xF8 2 x → mapSpaceFail s x.p (mapParam x.m) = none →
      mappedAll s x.p (mapParam x.m) = some es →
    let q := mapParam x.m
    Runs (.unmap ref) s fun t =>
      (∀ e ∈ t.pool.ptes, ¬(e.space = vaSpace x.p q.va ∧ e.va ∈ q.offs))
        ∧ (∀ e ∈ s.pool.ptes, ¬(e.space = vaSpace x.p q.va ∧ e.va ∈ q.offs) → e ∈ t.pool.ptes) ∧ t.mem = s.mem ∧ Worked t x)
  ∧ (∀ (s : State) (ref : MopRef) (x : Run) (k : Nat), Ready s ref 0xF8 3 x → mapSpaceFail s x.p (mapParam x.m) = none →
      imgInForce s (mapParam x.m).image = some k → unmappedAll s x.p (mapParam x.m) = true → (mapParam x.m).bytes ≤ imgSlotSize s →
    let q := mapParam x.m
    let es : List Pte := (List.range q.count).map fun j =>
      { space := vaSpace x.p q.va, va := vaOff q.va + j * q.page, small := q.small, pa := imgPa s q.image k (j * q.page)
        image := some q.image, flash := true, w := false, owner := x.p }
    let s' := countShoot { s with pool := { s.pool with ptes := s.pool.ptes ++ es } }
    (q.pin = false → Runs (.mapImage ref) s fun t => t.pool.ptes = s.pool.ptes ++ es ∧ t.mem = s.mem ∧ Worked t x)
    ∧ (∀ s1, q.pin = true → pinFits s' x.p es = true → pinAll x.p es s' = some s1 →
      Runs (.mapImage ref) s fun t =>
        t.pool = (modPtes es (fun e => { e with pin := true }) s1).pool ∧ t.mem = s1.mem ∧ Worked t x))
  ∧ (∀ (s : State) (ref : MopRef) (x : Run) (es : List Pte), Ready s ref 0xF8 4 x → mapSpaceFail s x.p (mapParam x.m) = none →
      mappedAll s x.p (mapParam x.m) = some es →
    let q := mapParam x.m
    let set (e : Pte) : Pte := { e with w := q.w, pin := q.pin, evicting := e.evicting && !q.pin }
    (q.pin = false → Runs (.changeProtection ref) s fun t => t.pool = (modPtes es set s).pool ∧ t.mem = s.mem ∧ Worked t x)
    ∧ (q.pin = true → pinFits s x.p es = true → (∀ e ∈ es, e.flash = false ∧ findPte s e.space e.va = some e) →
      Runs (.changeProtection ref) s fun t => t.pool = (modPtes es set s).pool ∧ t.mem = s.mem ∧ Worked t x)
    ∧ (∀ s1, q.pin = true → pinFits s x.p es = true → pinAll x.p es s = some s1 →
      Runs (.changeProtection ref) s fun t => t.pool = (modPtes es set s1).pool ∧ t.mem = s1.mem ∧ Worked t x))

/-! ### Video and the input pipeline (R400-R460). -/

/-- Stream contexts open, close and lose their references; the segments of a VDEC join their set's queue; a free entropy engine takes the one
of highest rank and parses; a pixel engine reconstructs a picture and writes the frames that it completes; a segment that is over writes its
record, signals DONE and is counted, with TRUNCATED for a ring that stood still and TIMEOUT for SEG_LIMIT. What a bitstream holds is the
model's free value (R405-R422). -/
def Obligations.VideoDecodingRuns : Prop :=
  (∀ (s : State) (ref : MopRef) (x : Run), Ready s ref 0x50 0 x →
      s.video.vctxs.find? (·.index == (vctxRec s x.p x.m.aux).index) = none →
    let c := vctxRec s x.p x.m.aux
    Runs (.vctxOpen ref) s fun t =>
      t.video.vctxs = s.video.vctxs ++ [{ c with set := if c.set = 2 then chooseSet s else c.set }] ∧ t.mem = s.mem ∧ Worked t x)
  ∧ (∀ (s : State) (ref : MopRef) (x : Run) (c : VCtx), s.video.vctxs.find? (·.index == x.m.p 0 2) = some c → c.owner = x.p →
      (∀ g ∈ s.video.segs, g.vctx = x.m.p 0 2 → g.ended = true) →
    (Ready s ref 0x50 1 x → Runs (.vctxClose ref) s fun t =>
      t.video.vctxs = s.video.vctxs.filter (·.index != x.m.p 0 2) ∧ t.mem = s.mem ∧ Worked t x)
    ∧ (Ready s ref 0x50 2 x → Runs (.vctxReset ref) s fun t =>
      t.video.vctxs.find? (·.index == x.m.p 0 2) = some { c with hasRefs := false, refs := 0 } ∧ t.mem = s.mem ∧ Worked t x))
  ∧ (∀ (s : State) (ref : MopRef) (x : Run), Ready s ref 0x51 0 x → x.st.queued = false →
    Runs (.vdec ref) s fun t =>
      t.video.segs.length = s.video.segs.length + x.m.p 0 2 ∧ t.video.segs.take s.video.segs.length = s.video.segs
        ∧ (∀ i, i < x.m.p 0 2 → ∃ g, t.video.segs[s.video.segs.length + i]? = some g ∧ g.id = s.video.nextSeg + i ∧ g.req = x.r.id ∧ g.mop = x.i
          ∧ g.entry = i ∧ g.vctx = vnat s x.p (x.m.aux + 64 * i) 2 ∧ g.prio = x.r.prio ∧ g.running = false ∧ g.ended = false)
        ∧ t.mem = s.mem)
  ∧ (∀ (s : State) (set : Nat) (g : Seg) (x : SegRun), set < 2 → serving s = true → nth s.video.stopped set true = false →
      freeEngines s set ≠ [] → nextSegment s set = some g → segRunOf s g = some x →
    Runs (.segmentStart set) s fun t =>
      ∃ e ∈ freeEngines s set, ∃ g' ∈ t.video.segs, g'.id = g.id ∧ g'.running = true ∧ g'.engine = 8 * set + e ∧ g'.tStart = now s ∧ t.mem = s.mem)
  ∧ (∀ (s : State) (id : Nat) (x : SegRun), seg? s id = some x → x.g.waiting = true → x.g.parsed = false →
    (x.d.src = 0 → x.pictures (x.bytes s).1 ≤ x.g.parsedPics → Runs (.parseResume id) s fun t =>
      ∃ g' ∈ t.video.segs, g'.id = id ∧ g'.parsed = true ∧ g'.waiting = false ∧ g'.result = x.error (x.bytes s).1 true ∧ t.mem = s.mem)
    ∧ (x.d.src = 1 → x.mismatch s = true → Runs (.parseResume id) s fun t =>
      ∃ g' ∈ t.video.segs, g'.id = id ∧ g'.parsed = true ∧ g'.result = 6 ∧ t.mem = s.mem)
    ∧ ((x.d.src = 0 ∨ x.mismatch s = false) → x.g.parsedPics < x.pictures (x.bytes s).1 →
      sumNat x.g.syntaxKib + x.kib (x.bytes s).1 x.g.parsedPics ≤ 1024 → Runs (.parseResume id) s fun t =>
        ∃ g' ∈ t.video.segs, g'.id = id ∧ x.g.parsedPics < g'.parsedPics ∧ t.mem = s.mem))
  ∧ (∀ (s s1 s2 : State) (set id : Nat) (x : SegRun), Inv s → nextPicture s set = some id → seg? s id = some x →
      x.g.set < 2 →
      vwrite s (some x.g.req) x.g.part (slotFill s x.c) = .ok s1 →
      x.writeFrames (x.bytes s).1 (x.outs (x.bytes s).1 (x.g.pics + 1) (x.g.parsed && x.g.pics + 1 == x.g.parsedPics)) (bumpFree s1) = .ok s2 →
    Runs (.pictureReconstruct set) s fun t =>
      (∃ g' ∈ t.video.segs, g'.id = id ∧ g'.pics = x.g.pics + 1) ∧ CountedOnce s2 t (pgVDC + x.g.set) oVDC_PICTURES ∧ t.mem = s2.mem
        ∧ t.pool = s2.pool)
  ∧ (∀ (s s1 s2 : State) (id : Nat) (x : SegRun) (g : Seg), Inv s → seg? s id = some x → x.g.parsed = true → x.g.parsedPics ≤ x.g.pics →
      g.set < 2 → g.part < 16 →
      x.writeFrames (x.bytes s).1 (x.outs (x.bytes s).1 x.g.pics true) s = .ok s1 → s1.video.segs.find? (·.id == x.g.id) = some g →
      vwrite s1 (some g.req) g.part (({ x with g := g } : SegRun).lastBytes s1 (x.bytes s).1) = .ok s2 →
    Runs (.segmentEnd id) s fun t =>
      (∃ g' ∈ t.video.segs, g'.id = id ∧ g'.ended = true) ∧ CountedOnce s2 t (pgVDC + g.set) oVDC_SEGMENTS
        ∧ (∀ n v, tallyEntry x.d.done = some (n, v) → tally t n = tally s n + v)
        ∧ (x.g.result ≠ 0 → Raised t (pgVDC + g.set) (if x.g.result = 5 then 2 else 1)) ∧ t.mem = s2.mem ∧ t.pool = s2.pool)
  ∧ (∀ (s : State) (id : Nat) (x : SegRun), seg? s id = some x → x.g.waiting = true → x.g.parsed = false → x.d.src = 1 → (x.bytes s).2 = false →
      x.g.pics < x.g.parsedPics →
    Runs (.ringWaitExpiry id) s fun t =>
      (∃ g' ∈ t.video.segs, g'.id = id ∧ g'.parsed = true ∧ g'.result = 4 ∧ g'.ended = false) ∧ t.mem = s.mem ∧ t.regs = s.regs)
  ∧ (∀ (s s1 s2 : State) (id : Nat) (x y : SegRun) (g : Seg), Inv s → seg? s id = some x → g.set < 2 → g.part < 16 →
    let s0 := modSeg s id fun g => { g with parsed := true, waiting := false, result := 5, parsedPics := g.pics }
    seg? s0 id = some y → y.writeFrames (y.bytes s0).1 (y.outs (y.bytes s0).1 y.g.pics true) s0 = .ok s1 →
      s1.video.segs.find? (·.id == id) = some g →
      vwrite s1 (some g.req) g.part (({ y with g := g } : SegRun).lastBytes s1 (y.bytes s0).1) = .ok s2 →
    Runs (.segLimitExpiry id) s fun t =>
      (∃ g' ∈ t.video.segs, g'.id = id ∧ g'.ended = true ∧ g'.result = 5) ∧ Raised t (pgVDC + g.set) 2 ∧ t.mem = s2.mem)

/-- A VENC joins its set's queue; a free encoder takes the one of highest rank and writes the bitstream, the index and its reference area,
counted frame by frame. What an encoder makes of a picture is the model's free value (R424-R431). -/
def Obligations.VideoEncodingRuns : Prop :=
  (∀ (s : State) (ref : MopRef) (x : Run), Ready s ref 0x58 0 x → x.st.queued = false →
    let want := (encRec s x.p x.m.aux).set
    Runs (.venc ref) s fun t =>
      ∃ set, (want ≠ 2 → set = want) ∧ (want = 2 → set < 2)
        ∧ t.video.encs = s.video.encs ++ [{ req := x.r.id, mop := x.i, set := set, part := x.p, prio := x.r.prio }] ∧ t.mem = s.mem)
  ∧ (∀ (s : State) (set : Nat) (q : Enc) (x : Run), Inv s → set < 2 → serving s = true → nth s.video.stopped set true = false →
      (sortBy (fun (a b : Enc) => a.prio ≥ b.prio) (s.video.encs.filter (·.set == set))).head? = some q → run? s ⟨q.req, q.mop⟩ = some x →
      x.st.stage = .granted →
    let r := encRec s x.p x.m.aux
    let roi := if r.roi = 0 then [] else vread s x.p r.roi (roiBytes s x.p r)
    let coded := r.frames_ (vread s x.p x.m.aux 32) roi ((List.range r.frames).map fun f => (r.words s x.p f).map r.enter) []
    Writes (.vencStart set) s x (bytesAt r.outBase (coded.map (·.bytes)).flatten ++ bytesAt r.index (r.entries 0 0 coded)
      ++ (List.range r.reconBytes).map fun i => (r.recon + i, (BitVec.ofNat 8 (takeFree s i) : Byte))))

/-- The jobs of a PREP wait for their tallies and engines; a free engine takes the job of highest rank and writes the prepared sample, or finds
it corrupt; a job that ends makes its sample ready or corrupt and signals DONE; the budget and the hold make pending samples late (R435-R449). -/
def Obligations.PreparationRuns : Prop :=
  (∀ (s : State) (ref : MopRef) (x : Run), Ready s ref 0x60 0 x → x.st.queued = false →
    Runs (.prep ref) s fun t =>
      t.inp.jobs.map (fun j => { j with reached := none })
          = (s.inp.jobs ++ (List.range (x.m.p 0 2)).map fun i =>
            let d := jobDesc s x.p x.m.aux i
            { req := x.r.id, mop := x.i, entry := i, sample := d.sample, pos := d.pos, batch := d.batch, part := x.p, prio := x.r.prio
              wait := tallyEntry d.wait : Job }).map (fun j => { j with reached := none })
        ∧ (∀ j ∈ t.inp.jobs, (∀ n v, j.wait = some (n, v) → reached (tally s n) v = true) → j.reached.isSome = true) ∧ t.mem = s.mem)
  ∧ (∀ (s : State) (engine : Nat) (j : Job) (x : Run), engine < 8 → serving s = true → prepStopped s engine = false →
      (∀ k ∈ s.inp.jobs, k.engine = some engine → k.ended = true) → nextJob s = some j → run? s ⟨j.req, j.mop⟩ = some x →
      x.st.stage = .granted →
    let d := jobDesc s x.p x.m.aux j.entry
    let r := prepRec s x.p x.m.aux
    let vas := (List.range d.nseg).map fun k => vnat s x.p (d.recs + 8 * k) 8
    let ds := vas.map (decRec s x.p)
    let w := (ds.map (·.width)).foldl Nat.min 65535
    let h := (ds.map (·.height)).foldl Nat.min 65535
    let work : Prep := ⟨r, d, ds.map fun q => (q.frames, q.width, q.height), (match ds.head? with | some q => q.depth | none => 8),
      r.window d.sample w h⟩
    rangeMapped s x.p d.recs (8 * d.nseg) = true → (∀ va ∈ vas, rangeMapped s x.p va 64 = true) →
    (corruptBits r ds ≠ 0 → Runs (.prepJobStart engine) s fun t =>
      (∃ j' ∈ t.inp.jobs, j'.req = j.req ∧ j'.mop = j.mop ∧ j'.entry = j.entry ∧ j'.engine = some engine ∧ j'.reason = corruptBits r ds)
        ∧ t.mem = s.mem)
    ∧ (∀ s1, corruptBits r ds = 0 →
      (∀ i, i < r.count → rangeMapped s x.p (d.base + (r.first + i * r.tstep) * d.stride) (d.pitch * d.maxH * 3 / 2) = true) →
      vwrite s (some x.r.id) x.p (work.bytes s x.p (x.tns s x.m.tdOut)) = .ok s1 → Runs (.prepJobStart engine) s fun t =>
        (∃ j' ∈ t.inp.jobs, j'.req = j.req ∧ j'.mop = j.mop ∧ j'.entry = j.entry ∧ j'.engine = some engine ∧ j'.reason = 0)
          ∧ t.mem = s1.mem ∧ t.pool = s1.pool))
  ∧ (∀ (s : State) (engine : Nat) (j : Job) (r : Request), Inv s → serving s = true → prepStopped s engine = false →
      s.inp.jobs.find? (fun j => j.engine == some engine && !j.ended) = some j → req? s j.req = some r →
    Runs (.prepJobEnd engine) s fun t =>
      (∀ b ∈ s.inp.batches, b.req = j.req → b.id = j.batch → ∀ q, b.poss.find? (·.pos == j.pos) = some q → q.final = 0 →
        ∃ b' ∈ t.inp.batches, b'.req = j.req ∧ b'.id = j.batch ∧ b'.va = b.va ∧ ∃ q', b'.poss.find? (·.pos == j.pos) = some q'
          ∧ q'.ready = (j.reason == 0) ∧ q'.corrupt = (j.reason != 0) ∧ q'.tReady = now s)
        ∧ (∀ n v, tallyEntry (jobDesc s r.part (mopOf s r j.mop).aux j.entry).done = some (n, v) → tally t n = tally s n + v)
        ∧ (j.reason = 0 → CountedOnce s t pgINP oINP_PREPARED) ∧ t.mem = s.mem)
  ∧ (∀ (s : State) (id : Nat) (x : SegRun), seg? s id = some x →
    Runs (.budgetExpiry id) s fun t =>
      t.inp = (modSample s x.g.part x.d.sample (Pos.makeLate 0)).inp ∧ t.mem = s.mem ∧ t.sched = s.sched
        ∧ (newlyLate s t ≠ 0 → Raised t pgINP 1))
  ∧ (∀ (s : State) (ref : MopRef) (x : Run), run? s ref = some x → x.st.stage = .granted → x.m.opcode = 0x64 →
    Runs (.holdExpiry ref) s fun t =>
      t.inp.batches = (s.inp.batches.map fun b =>
          if b.req = x.r.id ∧ b.va = x.m.aux ∧ b.step = 0 ∧ b.hold ≠ none ∧ b.hold ≠ some 0xFFFFFFFF then
            { b with poss := b.poss.map fun q => if q.pos < (batchRec s x.p x.m.aux).nslot then q.makeLate 1 else q }
          else b)
        ∧ t.mem = s.mem ∧ t.sched = s.sched ∧ (newlyLate s t ≠ 0 → Raised t pgINP 1))

/-- STEP settles a boundary: those that leave and those that join, by own slots and refill, the maps, the lengths table and the sample records;
the contexts of joiners begin empty. PLACE moves the samples of the maps between staging, join buffer, running tensor and leave buffer
(R450-R456). -/
def Obligations.BatchStepsRun : Prop :=
  (∀ (s s1 : State) (ref : MopRef) (x : Run) (b : Batch), Ready s ref 0x64 0 x →
      s.inp.batches.find? (fun b => b.req == x.r.id && b.va == x.m.aux) = some b → b.step = x.m.p 0 2 →
    let k := x.m.p 0 2
    let r := batchRec s x.p x.m.aux
    let lv := (leavers r k b.poss).map fun q => (q.pos, q.slot.getD 0)
    let left := afterLeave r k b.poss
    let js := sortBy (fun (a b : Nat × Nat) => a.2 ≤ b.2) (joinsAt r k left)
    let joined := afterJoin r k js left
    let qs := if k = r.maxSteps then joined.map (Pos.finish 5) else joined
    (k = 0 → ∀ q ∈ b.poss, q.pos < r.nslot → q.pending = false) → joinCtxFail s x.p r js = none →
      (∀ j ∈ js, ctxBusy s x.p (r.ctxBase + j.2) = false) →
      vwrite s (some x.r.id) x.p (refZeros s x.p r js ++ stepOutputs r k js lv qs ++ recordBytes r.records qs) = .ok s1 →
    Runs (.step ref) s fun t =>
      t.mem = s1.mem ∧ t.pool = s1.pool ∧ Worked t x
        ∧ (∃ b' ∈ t.inp.batches, b'.req = x.r.id ∧ b'.va = x.m.aux ∧ b'.step = k + 1 ∧ b'.poss = qs.map fun q => { q with stale := false })
        ∧ (∀ j ∈ js, ∀ c, ctx? t (r.ctxBase + j.2) = some c → c.filled = 0))
  ∧ (∀ (s : State) (ref : MopRef) (x : Run) (sub : Nat) (c : Instr),
      (sub, c) ∈ ([(0, .placeJoinGather ref), (1, .placeJoinSlot ref), (2, .placeLeave ref)] : List (Nat × Instr)) → Ready s ref 0x66 sub x →
      stepDone s x = true →
    let r := batchRec s x.p x.m.aux
    let a := x.tns s x.m.tdA
    let o := x.tns s x.m.tdOut
    let count := if sub = 2 then r.leaveCount else r.joinCount
    let map := if sub = 2 then r.leaveMap else r.joinMap
    let most := if sub = 2 then r.nslot else r.jmax
    let move (e : Nat) : Nat × Nat :=
      let pos := vnat s x.p (map + 8 * e) 4
      let slot := vnat s x.p (map + 8 * e + 4) 4
      if sub = 0 then (pos, e) else if sub = 1 then (e, slot) else (slot, e)
    let moves := (List.range (Nat.min (vnat s x.p count 4) most)).map move
    unmappedInput s x.p [(inA, a)] = none → unmappedRange s x.p [(inAux, count, 4), (inAux, map, 8 * most)] = none →
      (∀ q ∈ moves, q.1 < a.dim (sampleDim a.td) ∧ q.2 < o.dim (sampleDim o.td)) →
    Writes c s x (moves.map fun q => moveSample (rdr s x.p) a o q.1 q.2).flatten)

/-! ### Resets, the secure store and the calibration record (R549-R566, R579, R580). -/

/-- A warm reset loses HBM contents, on-chip memory, sessions, requests, contexts and tallies, and keeps flash, fuses and records; a partition reset
ends the partition's requests with ST_RESET and clears its tallies; a block reset ends what uses the block; the end of either clears BUSY, is counted
and raises its event (R549, R550, R579, R580). -/
def Obligations.ResetCommandsRun : Prop :=
  (∀ s : State, Inv s → s.boot.phase = .running → s.boot.refclk = true →
    Runs .warmReset s fun t =>
      (∀ a, memGet t a = if 12 * hbmSize ≤ a ∧ windowRgn a = none then memGet s a else 0)
        ∧ t.nv = s.nv ∧ t.sec = s.sec ∧ t.ctxs = [] ∧ t.pool.ptes = [] ∧ t.video = {} ∧ t.inp = {} ∧ t.sched.reqs = [] ∧ t.ctl = {}
        ∧ (∀ n, tally t n = 0) ∧ (∀ r, r < 48 → (rgn t r).owner = none ∧ (rgn t r).saved = [])
        ∧ (∀ i, i < 16 → (sess t i).isOpen = false ∧ (sess t i).lastReset = 2)
        ∧ t.boot.service = 0 ∧ t.boot.lastReset = 2 ∧ fldGet t pgMOD oMOD_RESET_STAT 55 48 = 1 ∧ CountedOnce s t pgMOD oMOD_WARM_RESETS
        ∧ (s.nv.scrapFuse = false → s.nv.life.state ≠ 4 → (∃ k, k < 2 ∧ slotAccepted s (nth s.nv.fw k {}) = true) → t.boot.phase = .running))
  ∧ (∀ (s : State) (p : Nat), Inv s → partValid s p = true → s.ctl.rst = none →
    Runs (.partitionReset p) s fun t =>
      (∀ id r, req? s id = some r → r.part = p → r.st ≠ .ended → EndedWith t id stReset)
        ∧ (∀ n, tallyAllotted s p n = true → tally t n = 0)
        ∧ (∀ r, r < 48 → ∀ v ∈ (rgn t r).saved, v.part ≠ p)
        ∧ t.ctl.rst = some (2, p) ∧ fldGet t pgMOD oMOD_RESET_STAT 63 63 = 1)
  ∧ (∀ (s : State) (page : Nat), Inv s → blockPage page = true → s.ctl.rst = none →
    Runs (.blockSoftReset page) s fun t =>
      t.ctl.rst = some (3, page) ∧ fldGet t pgMOD oMOD_RESET_STAT 63 63 = 1
        ∧ (0x90 ≤ page → page ≤ 0x93 →
          (∀ id r, id ∈ videoReqs s (page % 2) → req? s id = some r → r.st ≠ .ended → EndedWith t id stReset)
            ∧ t.video.vctxs = s.video.vctxs.filter (·.set != page % 2) ∧ ∀ g ∈ t.video.segs, g.set ≠ page % 2)
        ∧ (page = 0x98 → t.inp = {} ∧ ∀ b ∈ s.inp.batches, ∀ r, req? s b.req = some r → r.st ≠ .ended → EndedWith t b.req stReset)
        ∧ (page = 0x20 → t.host.state = 1 ∧ t.host.lanes = 0 ∧ (s.host.state = 2 → Raised t pgHPT 2))
        ∧ (0x28 ≤ page → page ≤ 0x2D →
          fldGet t page oLNK_STAT 2 0 = 1 ∧ (portLive s (page - 0x28) = true → Raised t page 2)
            ∧ ∀ p, p < 16 → linkInBox s (sliceBox s p) (page - 0x28) = true → JobOver s t p))
  ∧ (∀ (s : State) (k n : Nat), Inv s → s.ctl.rst = some (k, n) →
      (k = 2 → s.video.segs.any (fun g => g.part == n && g.running && !g.ended) = false) →
    Runs .modResetDone s fun t =>
      t.ctl.rst = none ∧ fldGet t pgMOD oMOD_RESET_STAT 63 63 = 0 ∧ t.mem = s.mem ∧ t.sched = s.sched
        ∧ (if k = 2 then CountedOnce s t pgMOD oMOD_PART_RESETS ∧ Raised t pgMOD 1
          else CountedOnce s t pgMOD oMOD_BLOCK_RESETS ∧ Raised t pgMOD 2))

/-- A SEC command of a secure session is judged when it is written: one that passes is BUSY and keeps the new contents of the stores for its end, one
that fails ends with its RESULT; its end applies them, or answers 5 where the flash write failed (R553, R554, R559-R562, R566). -/
def Obligations.SecurityCommandsRun : Prop :=
  (∀ (s : State) (i op arg : Nat) (c : Instr),
      (op, arg, c) ∈ ([(1, arg, .keyWrite i arg), (2, arg, .keyErase i arg), (3, 0, .cakWrite i), (4, 0, .fwCommit i), (5, 0, .svnBurn i),
        (6, arg, .transition i arg)] : List (Nat × Nat × Instr)) →
      Inv s → SecureSession s i → s.ctl.sec = none → arg < 256 →
    let plan := secPlan s i op arg
    (plan.result = 0 → Runs c s fun t =>
      t.ctl.sec = some (op, arg, i) ∧ t.ctl.secNv = plan.nv ∧ t.ctl.secLose = plan.lose ∧ regRaw t pgSEC oSEC_CMD_STAT = 2 ^ 63 + op * 2 ^ 48
        ∧ t.nv = s.nv ∧ t.sec = s.sec ∧ t.mem = s.mem ∧ t.pool = s.pool)
    ∧ (plan.result ≠ 0 → Runs c s fun t =>
      regRaw t pgSEC oSEC_CMD_STAT = op * 2 ^ 48 + plan.result ∧ CountedOnce s t pgSEC oSEC_CMD_FAILS ∧ Raised t pgSEC 2
        ∧ t.ctl.sec = none ∧ t.nv = s.nv ∧ t.sec = s.sec ∧ t.mem = s.mem ∧ t.pool = s.pool))
  ∧ (∀ (s : State) (op arg i : Nat) (nv : Nv), Inv s → s.ctl.sec = some (op, arg, i) → 1 ≤ op → op ≤ 4 → s.ctl.secNv = some nv →
    Runs (.secCmdDone true) s fun t =>
      t.nv = nv ∧ t.ctl.sec = none ∧ regRaw t pgSEC oSEC_CMD_STAT = op * 2 ^ 48 ∧ Raised t pgSEC 1 ∧ t.mem = s.mem
        ∧ t.sec = (if op ≤ 3 then (loadKeys { s with nv := nv }).sec else s.sec)
        ∧ ∀ k, s.ctl.secLose = some k → ∀ j, j < 16 → (sess t j).isOpen = true → (sess t j).keySlot ≠ k)
  ∧ (∀ (s : State) (arg i : Nat) (ok : Bool), Inv s → s.ctl.sec = some (5, arg, i) → s.ctl.secNv = none →
    Runs (.secCmdDone ok) s fun t =>
      t.nv = { s.nv with svnFuse := Nat.max s.nv.svnFuse s.boot.fw.svn, revoked := Nat.lor s.nv.revoked s.boot.fw.revoke }
        ∧ t.ctl.sec = none ∧ regRaw t pgSEC oSEC_CMD_STAT = 5 * 2 ^ 48 ∧ Raised t pgSEC 1 ∧ (t.nv ≠ s.nv → Raised t pgSEC 3) ∧ t.mem = s.mem)
  ∧ (∀ (s : State) (arg i : Nat) (nv : Nv), Inv s → s.ctl.sec = some (6, arg, i) → s.ctl.secNv = some nv → s.boot.phase = .running →
      s.boot.refclk = true →
    Runs (.secCmdDone true) s fun t =>
      t.nv = nv ∧ t.ctl = {} ∧ t.sec = (loadKeys { s with nv := nv }).sec ∧ t.sched.reqs = [] ∧ (∀ j, j < 16 → (sess t j).isOpen = false)
        ∧ (arg ≠ 2 → ∀ a, flashBase 0 ≤ a → 16 * 2 ^ 30 ≤ (a - flashBase 0) % 0x40000000000 → memGet t a = 0))
  ∧ (∀ (s : State) (op arg i : Nat), Inv s → s.ctl.sec = some (op, arg, i) → op < 256 → op ≠ 5 →
    Runs (.secCmdDone false) s fun t =>
      t.nv = s.nv ∧ t.sec = s.sec ∧ t.ctl.sec = none ∧ regRaw t pgSEC oSEC_CMD_STAT = op * 2 ^ 48 + 5 ∧ CountedOnce s t pgSEC oSEC_CMD_FAILS
        ∧ Raised t pgSEC 2 ∧ t.mem = s.mem)

/-- EXPORT, IMPORT and SELF_CAL are judged when they are written and are BUSY until their end, which writes the record out, takes it in, or takes the
new measurements as the record in force, and raises CAL_CMD_DONE (R556, R557, R566). -/
def Obligations.CalibrationCommandsRun : Prop :=
  (∀ (s : State) (i op : Nat) (c : Instr),
      (op, c) ∈ ([(1, .exportRecord i), (2, .importRecord i), (3, .selfCal i)] : List (Nat × Instr)) → Inv s → SecureSession s i →
      s.ctl.cal = none →
    let src := regRaw s pgCAL oCAL_SRC
    (op = 1 → srcOk s i src 0x8000 true = true) →
    (op = 2 → s.nv.life.state ≠ 2 ∧ srcOk s i src 0x8000 false = true ∧ importCheck s (vread s (srcPart src) (srcVa src) 0x8000) = 0) →
    (op = 3 → partsOrSlices s = false) →
    Runs c s fun t =>
      t.ctl.cal = some (op, i) ∧ fldGet t pgCAL oCAL_STAT 48 48 = 1 ∧ fldGet t pgCAL oCAL_STAT 63 56 = 0 ∧ t.nv = s.nv ∧ t.mem = s.mem)
  ∧ (∀ (s s1 : State) (i : Nat) (sections : Bytes), Inv s → s.ctl.cal = some (1, i) →
    let src := regRaw s pgCAL oCAL_SRC
    vwrite { s with ctl := { s.ctl with cal := none } } none (srcPart src) (bytesAt (srcVa src) (calRecord s)) = .ok s1 →
    Runs (.calDone sections) s fun t =>
      t.mem = s1.mem ∧ t.pool = s1.pool ∧ t.nv = s.nv ∧ t.ctl.cal = none ∧ fldGet t pgCAL oCAL_STAT 48 48 = 0
        ∧ fldGet t pgCAL oCAL_STAT 63 56 = 0 ∧ Raised t pgCAL 4)
  ∧ (∀ (s : State) (i : Nat) (sections : Bytes), Inv s → s.ctl.cal = some (2, i) →
    let src := regRaw s pgCAL oCAL_SRC
    let r := vread s (srcPart src) (srcVa src) 0x8000
    Runs (.calDone sections) s fun t =>
      t.nv = { s.nv with cal := { ok := true, source := 1, valid := fld r 0xB 1, serial := s.nv.serial, writes := s.nv.cal.writes + 1
                                  sections := r.drop 0x100 } }
        ∧ t.ctl.cal = none ∧ fldGet t pgCAL oCAL_STAT 48 48 = 0 ∧ fldGet t pgCAL oCAL_STAT 63 56 = 0 ∧ Raised t pgCAL 4 ∧ t.mem = s.mem)
  ∧ (∀ (s : State) (i : Nat) (sections : Bytes), Inv s → s.ctl.cal = some (3, i) →
    Runs (.calDone sections) s fun t =>
      t.nv = { s.nv with cal := { ok := true, source := 2, valid := 0x27, serial := s.nv.serial, writes := s.nv.cal.writes + 1
                                  sections := sections } }
        ∧ t.ctl.cal = none ∧ fldGet t pgCAL oCAL_STAT 48 48 = 0 ∧ fldGet t pgCAL oCAL_STAT 63 56 = 0 ∧ CountedOnce s t pgCAL oCAL_SELFCALS
        ∧ Raised t pgCAL 4 ∧ t.mem = s.mem)

/-! ### The scheduler and the life of a macro-op (R90-R143, R464-R479). -/

/-- The bytes of save slot `k` of region `r` in `t` are what the region's memories hold in `s` (R473). -/
def SlotHolds (s t : State) (r k : Nat) : Prop :=
  (∀ j, j < 0x3000000 → memGet t (slotBase r k + j) = memGet s (hawkBase (192 * r) + j))
    ∧ (∀ j, j < 0x1800000 → memGet t (slotBase r k + 0x3000000 + j) = memGet s (accBase (192 * r) + j))
    ∧ (∀ j, j < 0x3000000 → memGet t (slotBase r k + 0x4800000 + j) = memGet s (storeBase (12 * r) + j))

/-- Admission takes the head of a partition's queue at the priority of its session, or ends it with the status of the first failed check and records
the refusal, or, while a stack is training, leaves one that only lacks HBM where it is (R547, as log 120 reads
it); pre-emption saves each region taken and passes it; a restored region holds its saved state again; a job that fails ends every request of
the slice with ST_FAULT (R465, R466, R473-R479). -/
def Obligations.SchedulerCommandsRun : Prop :=
  (∀ (s : State) (p : Nat) (r : Request), Inv s → serving s = true → partValid s p = true → nextRequest s p = some r → req? s r.id = some r →
    (awaitsTraining s r = true → Runs (.admission p) s fun t => t = s)
    ∧ ((stepOneFail s r).or (stepTwoReject s r) = none → awaitsTraining s r = false → Runs (.admission p) s fun t =>
      (∃ q, req? t r.id = some q ∧ q.st = .admitted ∧ q.prio = fldGet s pgSCH (oSCH_SESS + 8 * partSess s p) 2 0
        ∧ q.rH = reserveH (envOf s p (listOf s r)) (listOf s r) ∧ q.rP = reserveP (envOf s p (listOf s r)) ∧ q.mops = r.mops)
        ∧ CountedOnce s t pgSCH oSCH_ADMITS)
    ∧ (∀ j, (stepOneFail s r).or (stepTwoReject s r) = some j → awaitsTraining s r = false → Runs (.admission p) s fun t =>
      EndedWith t r.id j.check.status
        ∧ ∀ l, recordRgn s p = some l → CountedOnce s t (rgnPage l) oRGN_REFUSALS ∧ Raised t (rgnPage l) 32
          ∧ regRaw t (rgnPage l) oRGN_LAST_REFUSAL = (j.check.status * 2 ^ 56 + j.opcode % 256 * 2 ^ 48 + j.check.struct * 2 ^ 44
            + j.check.byte % 4096 * 2 ^ 32 + j.idx % 2 ^ 32) % 2 ^ 64))
  ∧ (∀ (s : State) (p : Nat), Inv s → serving s = true → partBusy s p = true →
    let rs := (List.range 48).filter fun r => (rgn s r).takenFor == some p && !(rgn s r).haltDbg
    rs ≠ [] →
    Runs (.preemption p) s fun t =>
      Raised t pgSCH 1 ∧ fldGet t pgSCH oSCH_LAST_PREEMPT 47 0 = maskOf rs
        ∧ ∀ r ∈ rs, (rgn t r).owner = some p ∧ (rgn t r).halted = false
          ∧ ∀ q, (rgn s r).owner = some q → q ≠ p → partBusy s q = true → (rgn s r).saved.length < 3 →
            (∃ v ∈ (rgn t r).saved, v.part = q ∧ v.slot = freeSlot (rgn s r) ∧ v.held = s.fab.held.filter fun h => clusterRgn h.cluster == r)
              ∧ SlotHolds s t r (freeSlot (rgn s r)))
  ∧ (∀ (s : State) (r : Nat) (v : Saved), Inv s → serving s = true → r < 48 → (rgn s r).restoring = true → v.slot < 3 →
      (rgn s r).saved.reverse.find? (fun v => (rgn s r).owner == some v.part) = some v → partBusy s v.part = true →
    Runs (.regionRestore r) s fun t =>
      (rgn t r).owner = some v.part ∧ (rgn t r).restoring = false ∧ (rgn t r).powered = true ∧ t.fab.held = s.fab.held ++ v.held
        ∧ CountedOnce s t pgSCH oSCH_RESTORES ∧ Raised t pgSCH 2 ∧ SlotHolds t s r v.slot)
  ∧ (∀ (s : State) (p : Nat), Inv s → serving s = true → p < 16 →
    Runs (.jobFault p) s fun t =>
      (∀ id r, req? s id = some r → r.part = p → r.st ≠ .ended → EndedWith t id stFault) ∧ haulsOf t p = [])

/-- A macro-op whose waits are met takes its sizes and lengths and asks for leave, or with class 0 begins its work; a cluster takes the next group of
tiles and its units their chunks; the canary's verdict accepts a layer, sends it back in the wide form, or ends the request; a gradient's norm is
checked; and completion signals the tallies (R15, R90-R107, R116-R121, R135, R142, R143). -/
def Obligations.MacroOpLifeRuns : Prop :=
  (∀ (s s1 : State) (m : MopRef) (r : Request), req? s m.req = some r → serving s = true → r.st = .admitted → m.idx < r.nops →
      partRgns s r.part ≠ [] → mopSt? r m.idx = none → waitsMet s r m.idx (mopOf s r m.idx) = true →
      statsFit s r m.idx (mopOf s r m.idx) = true →
    let d := mopOf s r m.idx
    let sizes := runtimeSizes s r.part (planOf s r.part d)
    stepTwoFail s r.part d sizes = none → startLayer s r m.idx = .ok s1 →
    let slots := if d.lengths = 0 then [] else takeSlots s1 r.part d
    let began (t : State) (stage : Stage) : Prop := ∃ q st, req? t m.req = some q ∧ mopSt? q m.idx = some st ∧ st.stage = stage
      ∧ st.sizes = sizes ∧ st.slots = slots ∧ st.empty = false
    sizes.contains 0 = false → (d.lengths ≠ 0 → slots.all (·.vacant) = false) → d.update = false →
    ((mopOf s1 r m.idx).cls = 0 → (mopOf s1 r m.idx).opcode ≠ 0x38 →
      Runs (.mopWaitMet m) s fun t => began t .granted ∧ t.mem = s1.mem ∧ t.pool = s1.pool)
    ∧ ((mopOf s1 r m.idx).cls ≠ 0 → holdsGrant s1 m.req m.idx = false →
      Runs (.mopWaitMet m) s fun t => began t .leave ∧ t.mem = s1.mem ∧ t.pool = s1.pool))
  ∧ (∀ (s : State) (m : MopRef) (r : Request) (j : Nat), req? s m.req = some r → mopSt? r m.idx = none → (mopOf s r m.idx).after = true →
      j < m.idx → ((mopSt? r j).any fun st => st.stage == .done) = false →
    Runs (.mopWaitMet m) s fun t => t = s)
  ∧ (∀ (s : State) (m : MopRef) (x : Run) (l j : Nat), Inv s → run? s m = some x → serving s = true → mayCompleteMop s x = true →
      x.st.signalled = false → leadRgn s x.p = some l → j < x.r.nops → j ≠ x.i → passOf s x.r j = passOf s x.r x.i →
      ((mopSt? x.r j).any fun st => st.stage == .done) = false →
    let add (e n : Nat) : W32 := match tallyEntry e with | some (k, v) => if k = n then v else 0 | none => 0
    Runs (.mopComplete m) s fun t =>
      stageOf t m.req m.idx = some .done ∧ (∀ n, tally t n = tally s n + add x.m.signal0 n + add x.m.signal1 n)
        ∧ CountedOnce s t (rgnPage l) oRGN_MACROOPS ∧ t.power.leaves.find? (fun l => l.req == m.req && l.mop == m.idx) = none ∧ t.mem = s.mem)
  ∧ (∀ (s : State) (c : Nat) (g : Group), Inv s → c < 576 → serving s = true → rgnWorks s (clusterRgn c) = true → clusterReady s c = true →
    let last := (s.fab.held.find? (·.cluster == c)).map (·.group)
    nextGroup s c last = some g →
    Runs (.groupTake c) s fun t =>
      t.fab = { s.fab with
          queue := s.fab.queue.erase g
          held := (s.fab.held.filter fun h => h.cluster != c) ++ [{ cluster := c, group := g }]
          units := (s.fab.units.filter fun u => u.unit / 16 != c)
            ++ (List.range (Nat.min 16 g.tiles)).map fun j =>
              { unit := g.unitOf c j, chunk := 0, chunks := g.chunks, back := rowsBack s (g.unitOf c j) }
          kept := t.fab.kept }
        ∧ (∀ st, (req? s g.req).bind (mopSt? · g.mop) = some st → (req? t g.req).bind (mopSt? · g.mop) = some { st with tiles := true })
        ∧ (∀ o, last = some o → regRaw t (rgnPage (clusterRgn c)) oRGN_TILES
          = Nat.min (regRaw s (rgnPage (clusterRgn c)) oRGN_TILES + o.tiles) (2 ^ 64 - 1))
        ∧ t = { s with fab := t.fab, regs := t.regs, sched := t.sched })
  ∧ (∀ (s : State) (u : Nat), serving s = true → u < 9216 → rgnWorks s (clusterRgn (u / 16)) = true →
    Runs (.chunkCredit u) s fun t =>
      t = { s with regs := t.regs, fab := { s.fab with units := t.fab.units, kept := t.fab.kept } } ∧ t.fab.units.length = s.fab.units.length
        ∧ ∀ (i : Nat) (v : UnitRun), s.fab.units[i]? = some v →
          t.fab.units[i]? = some (if v.unit = u ∧ v.chunk < v.chunks ∧ creditHeld s v = false then { v with chunk := v.chunk + 1, back := 0 } else v))
  ∧ (∀ (s : State) (m : MopRef) (x : Run) (l : LayerW) (w : PassW) (lead : Nat), Inv s → run? s m = some x →
      layerW? x.r (layerOf s x.r x.i) = some l → passW? x.r (passOf s x.r x.i) = some w → leadRgn s x.p = some lead → x.i < x.r.nops →
      serving s = true → x.st.stage = .worked → x.st.memWait = none → needsVerdict s x = true → runRgns s x.p ≠ [] →
      (∀ j st, j ∈ layerMops s x.r (layerOf s x.r x.i) → j < x.i → mopSt? x.r j = some st →
        st.stage = .worked ∨ st.stage = .judged ∨ st.stage = .done) →
      (l.ctrl.scope && (otherRanks s x.p).length > 0 && (sliceBox s x.p).valid) = false →
    let cs := (x.checkedSamples s).map (checkSample s x l)
    let bits := orBits (cs.map fun c => c.bits)
    (∀ s1, bits = 0 →
      vwrite (x.counted s w cs) (some x.r.id) x.p ((cs.map fun c => pendBytes s x.p (x.refVa s c.sample) l.ctrl.refShift c.norm).flatten) = .ok s1 →
      Runs (.canaryVerdict m) s fun t =>
        stageOf t m.req m.idx = some .judged ∧ CountedOnce s t (rgnPage lead) oRGN_LAYERS_CHECKED ∧ t.mem = s1.mem ∧ t.pool = s1.pool)
    ∧ (bits ≠ 0 → 2 ≤ l.ctrl.action → w.repainted = false → l.wide = false → reruns x.st = true →
      (l.ctrl.action = 2 ∨ w.narrowTrips + 1 ≤ l.ctrl.repaintLimit) → Runs (.canaryVerdict m) s fun t =>
        stageOf t m.req m.idx = some .again ∧ (∃ q, req? t m.req = some q ∧ q.st = .admitted ∧ stDoneFallback ≤ q.status)
          ∧ CountedOnce s t (rgnPage lead) oRGN_CANARY_TRIPS ∧ CountedOnce s t (rgnPage lead) oRGN_FALLBACKS
          ∧ Raised t (rgnPage lead) 16 ∧ Raised t (rgnPage lead) 17 ∧ t.mem = s.mem)
    ∧ (bits ≠ 0 → 2 ≤ l.ctrl.action → w.repainted = true →
      (∀ ptr, passPtr s x.p (mopOf s x.r (passOf s x.r x.i)) = some ptr → ∀ b : Bytes, b.length = 32 →
        (vwrite s (some x.r.id) x.p (bytesAt (vnat s x.p (ptr + 8) 8) b)).isOk = true) → Runs (.canaryVerdict m) s fun t =>
        EndedWith t m.req stCanaryPersist ∧ Raised t (rgnPage lead) 16 ∧ Raised t (rgnPage lead) 19))
  ∧ (∀ (s s1 : State) (m : MopRef) (x : Run) (l : LayerW) (lead : Nat), Inv s → run? s m = some x →
      layerW? x.r (layerOf s x.r x.i) = some l → leadRgn s x.p = some lead → serving s = true →
      (x.st.stage = .worked ∨ x.st.stage = .judged) → needsGrad s x = true → x.st.gradDone = false → x.st.memWait = none → runRgns s x.p ≠ [] →
    let norm := x.norm s 0 none
    let va := x.refVa s (x.samples s)
    let ref : W32 := BitVec.ofNat 32 (vnat s x.p va 4)
    let trip := !normFinite norm || (ratioOf norm ref).any fun q => bandBits l.ctrl.grad q != 0
    vwrite s (some x.r.id) x.p (if trip && l.ctrl.gradAction then [] else pendBytes s x.p va l.ctrl.refShift norm) = .ok s1 →
    Runs (.canaryGrad m) s fun t =>
      ((req? t m.req).bind (mopSt? · m.idx)).map (·.gradDone) = some true ∧ t.mem = s1.mem ∧ t.pool = s1.pool
        ∧ (trip = true → CountedOnce s1 t (rgnPage lead) oRGN_GRAD_TRIPS ∧ Raised t (rgnPage lead) 20))

/-! ### What commands leave as it was. -/

/-- Whatever command runs, the queue stays as it is, and so does every part of the state that the command is not listed to change: only a cold
start, a tamper, a SEC command and an error of the secure store change the SCLK count or the secure store, only those, CAL commands, flash wear and frames change fuses and records,
and so on through `touches`. -/
def Obligations.CommandsKeepTheOtherParts : Prop :=
  ∀ (c : Instr) (s t : State), exec c s = .next t → t.pending = s.pending ∧ ∀ q : StatePart, q ∉ touches c → q.same s t

/-- A macro-op of the units that does its work changes, besides the bytes that it writes and the pages that it makes ready for them, only counters,
events, its own request and the walk: no tally, no owner of a region, no context, no other request, no link, no segment, no job, no grant. -/
def Obligations.UnitMacroOpsKeepTheRest : Prop :=
  ∀ (c : Instr) (ref : MopRef) (s t : State), c ∈
      ([.matmul ref, .matmulAdd ref, .convert ref, .add ref, .mul ref, .fma ref, .max ref, .min ref, .fill ref, .reduceSum ref, .reduceMax ref,
        .reduceMin ref, .reduceSumSquares ref, .chain ref, .sfnExp2 ref, .sfnLog2 ref, .sfnRcp ref, .sfnRsqrt ref, .sfnUser ref, .softmax ref,
        .softmaxStats ref, .statsMerge ref, .softmaxApply ref, .layernorm ref, .rmsnorm ref, .normStatsLayer ref, .normStatsRms ref, .attn ref,
        .kvAppend ref, .attnGrad ref, .conv ref, .poolMax ref, .poolMin ref, .poolAverage ref, .boxDecodeDistances ref, .boxDecodeCentre ref,
        .nms ref] : List Instr) →
    exec c s = .next t → stageOf t ref.req ref.idx = some .worked →
    t = { s with freeCtr := t.freeCtr, regs := t.regs, mem := t.mem, pool := t.pool, fab := t.fab, sched := t.sched, host := t.host, ctl := t.ctl }
      ∧ t.fab.tallies = s.fab.tallies ∧ t.fab.users = s.fab.users ∧ (∀ r, (rgn t r).owner = (rgn s r).owner ∧ (rgn t r).saved = (rgn s r).saved)
      ∧ (∀ id, id ≠ ref.req → req? t id = req? s id) ∧ (∀ i, i ≠ ref.idx → stageOf t ref.req i = stageOf s ref.req i)

/-- The byte of physical memory that a virtual address of partition `p` stands for, where a page maps it (R264). -/
def placeOf (s : State) (p va : Nat) : Option Nat := (translate s p va).map fun e => e.pa + (vaOff va - e.va)

/-- Bytes stored by virtual address: each byte reads back, where no other of them has the same place and the page is no ZERO page; every byte of
memory at another place reads as before, and the memory stays in canonical form (R264, R267). -/
def Obligations.VirtualStoresWriteTheirBytes : Prop :=
  ∀ (s : State) (p : Nat) (bs : List (Nat × Byte)), Inv s →
    let t := vstore p bs s
    Inv t ∧ t = { s with mem := t.mem }
      ∧ (∀ pa, (∀ b ∈ bs, placeOf s p b.1 ≠ some pa) → memGet t pa = memGet s pa)
      ∧ ((bs.map fun b => placeOf s p b.1).Nodup → ∀ b ∈ bs, ∀ e, translate s p b.1 = some e → e.zero = false → vget t p b.1 = b.2)
end

