-- ==== Sys2Proof/Laws/Cells.lean ====
section
/-! SUPPORT. The sparse lists in canonical form: reading after a write, and that a write and a removal keep the form. -/

namespace Sys2Proof.Machine

variable {α : Type} [DecidableEq α]

/-- Every key of the list is at least `n`. -/
abbrev KeysFrom (n : Nat) (l : List (Nat × α)) : Prop := ∀ x ∈ l, n ≤ x.1

theorem cellWf_cons {d : Nat → α} {k : Nat} {v : α} {t : List (Nat × α)} :
    cellWf d ((k, v) :: t) = true ↔ v ≠ d k ∧ KeysFrom (k + 1) t ∧ cellWf d t = true := by
  induction t generalizing k v with
  | nil => simp [cellWf, KeysFrom]
  | cons x t ih =>
    obtain ⟨k', v'⟩ := x
    rw [cellWf]
    simp only [Bool.and_eq_true, decide_eq_true_eq]
    constructor
    · rintro ⟨⟨h1, h2⟩, h3⟩
      refine ⟨h1, ?_, h3⟩
      have := (ih.mp h3).2.1
      intro x hx
      rcases List.mem_cons.mp hx with rfl | hx
      · exact h2
      · have := this x hx; omega
    · rintro ⟨h1, h2, h3⟩
      exact ⟨⟨h1, h2 (k', v') List.mem_cons_self⟩, h3⟩

omit [DecidableEq α] in
theorem cellGet_of_keysFrom {l : List (Nat × α)} {k : Nat} {d : α} (h : KeysFrom (k + 1) l) : cellGet l k d = d := by
  cases l with
  | nil => rfl
  | cons x t =>
    obtain ⟨k', v⟩ := x
    have : k + 1 ≤ k' := h (k', v) List.mem_cons_self
    simp only [cellGet]
    rw [if_neg (by simp; omega), if_pos (by omega)]

theorem mem_cellSet {l : List (Nat × α)} {k : Nat} {v d : α} {x : Nat × α} (h : x ∈ cellSet l k v d) : x = (k, v) ∨ x ∈ l := by
  induction l with
  | nil => grind [cellSet]
  | cons y t ih => obtain ⟨k', v'⟩ := y; grind [cellSet]

theorem cellSet_keysFrom {l : List (Nat × α)} {n k : Nat} {v d : α} (h : KeysFrom n l) (hk : n ≤ k) :
    KeysFrom n (cellSet l k v d) := fun x hx => by
  rcases mem_cellSet hx with rfl | hx
  · exact hk
  · exact h x hx

/-- Reading the key that was written gives the value written. -/
theorem cellGet_cellSet_same {d : Nat → α} {l : List (Nat × α)} (h : cellWf d l = true) (k : Nat) (v : α) :
    cellGet (cellSet l k v (d k)) k (d k) = v := by
  induction l with
  | nil => simp only [cellSet]; split <;> simp_all [cellGet]
  | cons y t ih =>
    obtain ⟨k', v'⟩ := y
    obtain ⟨h1, h2, h3⟩ := cellWf_cons.mp h
    simp only [cellSet]
    split
    · split
      · rename_i hlt hv
        simp only [cellGet]
        rw [if_neg (by simp; omega), if_pos hlt, hv]
      · simp [cellGet]
    · split
      · rename_i _ heq
        subst heq
        split
        · rename_i hv
          rw [hv]; exact cellGet_of_keysFrom h2
        · simp [cellGet]
      · simp only [cellGet]
        rw [if_neg (by simp; omega), if_neg (by omega)]
        exact ih h3

/-- Reading another key gives what it gave before. -/
theorem cellGet_cellSet_ne {d : Nat → α} {l : List (Nat × α)} (h : cellWf d l = true) {k j : Nat} (hj : j ≠ k) (v e : α) :
    cellGet (cellSet l k v (d k)) j e = cellGet l j e := by
  induction l with
  | nil => simp only [cellSet]; split <;> simp_all [cellGet] <;> omega
  | cons y t ih =>
    obtain ⟨k', v'⟩ := y
    obtain ⟨h1, h2, h3⟩ := cellWf_cons.mp h
    simp only [cellSet]
    split
    · split
      · rfl
      · simp only [cellGet]
        rw [if_neg (by simp; omega)]
        split
        · rename_i hlt hjk
          rw [if_neg (by simp; omega), if_pos (by omega)]
        · rfl
    · split
      · rename_i _ heq
        subst heq
        have hn : KeysFrom (k + 1) t := h2
        split
        · simp only [cellGet]
          rw [if_neg (by simp; omega)]
          split
          · rename_i hlt
            exact cellGet_of_keysFrom fun x hx => by have := hn x hx; omega
          · rfl
        · have hne : ¬(k == j) = true := by simp; omega
          simp only [cellGet]
          rw [if_neg hne, if_neg hne]
      · simp only [cellGet]
        rw [ih h3]

/-- A write keeps the canonical form. -/
theorem cellSet_wf {d : Nat → α} {l : List (Nat × α)} (h : cellWf d l = true) (k : Nat) (v : α) :
    cellWf d (cellSet l k v (d k)) = true := by
  induction l with
  | nil => simp only [cellSet]; split <;> simp_all [cellWf]
  | cons y t ih =>
    obtain ⟨k', v'⟩ := y
    obtain ⟨h1, h2, h3⟩ := cellWf_cons.mp h
    simp only [cellSet]
    split
    · split
      · exact h
      · rename_i hlt hv
        refine cellWf_cons.mpr ⟨hv, ?_, h⟩
        intro x hx
        rcases List.mem_cons.mp hx with rfl | hx
        · exact hlt
        · have := h2 x hx; omega
    · split
      · rename_i _ heq
        subst heq
        split
        · exact h3
        · rename_i hv
          exact cellWf_cons.mpr ⟨hv, h2, h3⟩
      · exact cellWf_cons.mpr ⟨h1, cellSet_keysFrom h2 (by omega), ih h3⟩

/-- Removing entries keeps the canonical form. -/
theorem cellWf_filter {d : Nat → α} {l : List (Nat × α)} (h : cellWf d l = true) (p : Nat × α → Bool) :
    cellWf d (l.filter p) = true := by
  induction l with
  | nil => rfl
  | cons y t ih =>
    obtain ⟨k', v'⟩ := y
    obtain ⟨h1, h2, h3⟩ := cellWf_cons.mp h
    rw [List.filter_cons]
    split
    · exact cellWf_cons.mpr ⟨h1, fun x hx => h2 x (List.mem_of_mem_filter hx), ih h3⟩
    · exact ih h3

end Sys2Proof.Machine
end

