-- ==== Sys2Proof/Laws/Fields.lean ====
section
/-! SUPPORT. Each field of the state through a choice and through a fold whose step keeps it. -/

namespace Sys2Proof.Machine

@[simp] theorem ite_pending (c : Prop) [Decidable c] (a b : State) : (if c then a else b).pending = if c then a.pending else b.pending := by split <;> rfl

@[simp] theorem forEach_pending {α : Type} (l : List α) (f : State → α → State) (s : State) (h : ∀ s a, (f s a).pending = s.pending) :
    (forEach l f s).pending = s.pending := by
  unfold forEach; induction l generalizing s with
  | nil => rfl
  | cons a l ih => rw [List.foldl_cons, ih, h]

@[simp] theorem foldl_pending {α : Type} (l : List α) (f : State → α → State) (s : State) (h : ∀ s a, (f s a).pending = s.pending) :
    (l.foldl f s).pending = s.pending := by
  induction l generalizing s with
  | nil => rfl
  | cons a l ih => rw [List.foldl_cons, ih, h]

@[simp] theorem ite_freeCtr (c : Prop) [Decidable c] (a b : State) : (if c then a else b).freeCtr = if c then a.freeCtr else b.freeCtr := by split <;> rfl

@[simp] theorem forEach_freeCtr {α : Type} (l : List α) (f : State → α → State) (s : State) (h : ∀ s a, (f s a).freeCtr = s.freeCtr) :
    (forEach l f s).freeCtr = s.freeCtr := by
  unfold forEach; induction l generalizing s with
  | nil => rfl
  | cons a l ih => rw [List.foldl_cons, ih, h]

@[simp] theorem foldl_freeCtr {α : Type} (l : List α) (f : State → α → State) (s : State) (h : ∀ s a, (f s a).freeCtr = s.freeCtr) :
    (l.foldl f s).freeCtr = s.freeCtr := by
  induction l generalizing s with
  | nil => rfl
  | cons a l ih => rw [List.foldl_cons, ih, h]

@[simp] theorem ite_out (c : Prop) [Decidable c] (a b : State) : (if c then a else b).out = if c then a.out else b.out := by split <;> rfl

@[simp] theorem forEach_out {α : Type} (l : List α) (f : State → α → State) (s : State) (h : ∀ s a, (f s a).out = s.out) :
    (forEach l f s).out = s.out := by
  unfold forEach; induction l generalizing s with
  | nil => rfl
  | cons a l ih => rw [List.foldl_cons, ih, h]

@[simp] theorem foldl_out {α : Type} (l : List α) (f : State → α → State) (s : State) (h : ∀ s a, (f s a).out = s.out) :
    (l.foldl f s).out = s.out := by
  induction l generalizing s with
  | nil => rfl
  | cons a l ih => rw [List.foldl_cons, ih, h]

@[simp] theorem ite_sclk (c : Prop) [Decidable c] (a b : State) : (if c then a else b).sclk = if c then a.sclk else b.sclk := by split <;> rfl

@[simp] theorem forEach_sclk {α : Type} (l : List α) (f : State → α → State) (s : State) (h : ∀ s a, (f s a).sclk = s.sclk) :
    (forEach l f s).sclk = s.sclk := by
  unfold forEach; induction l generalizing s with
  | nil => rfl
  | cons a l ih => rw [List.foldl_cons, ih, h]

@[simp] theorem foldl_sclk {α : Type} (l : List α) (f : State → α → State) (s : State) (h : ∀ s a, (f s a).sclk = s.sclk) :
    (l.foldl f s).sclk = s.sclk := by
  induction l generalizing s with
  | nil => rfl
  | cons a l ih => rw [List.foldl_cons, ih, h]

@[simp] theorem ite_boot (c : Prop) [Decidable c] (a b : State) : (if c then a else b).boot = if c then a.boot else b.boot := by split <;> rfl

@[simp] theorem forEach_boot {α : Type} (l : List α) (f : State → α → State) (s : State) (h : ∀ s a, (f s a).boot = s.boot) :
    (forEach l f s).boot = s.boot := by
  unfold forEach; induction l generalizing s with
  | nil => rfl
  | cons a l ih => rw [List.foldl_cons, ih, h]

@[simp] theorem foldl_boot {α : Type} (l : List α) (f : State → α → State) (s : State) (h : ∀ s a, (f s a).boot = s.boot) :
    (l.foldl f s).boot = s.boot := by
  induction l generalizing s with
  | nil => rfl
  | cons a l ih => rw [List.foldl_cons, ih, h]

@[simp] theorem ite_nv (c : Prop) [Decidable c] (a b : State) : (if c then a else b).nv = if c then a.nv else b.nv := by split <;> rfl

@[simp] theorem forEach_nv {α : Type} (l : List α) (f : State → α → State) (s : State) (h : ∀ s a, (f s a).nv = s.nv) :
    (forEach l f s).nv = s.nv := by
  unfold forEach; induction l generalizing s with
  | nil => rfl
  | cons a l ih => rw [List.foldl_cons, ih, h]

@[simp] theorem foldl_nv {α : Type} (l : List α) (f : State → α → State) (s : State) (h : ∀ s a, (f s a).nv = s.nv) :
    (l.foldl f s).nv = s.nv := by
  induction l generalizing s with
  | nil => rfl
  | cons a l ih => rw [List.foldl_cons, ih, h]

@[simp] theorem ite_sec (c : Prop) [Decidable c] (a b : State) : (if c then a else b).sec = if c then a.sec else b.sec := by split <;> rfl

@[simp] theorem forEach_sec {α : Type} (l : List α) (f : State → α → State) (s : State) (h : ∀ s a, (f s a).sec = s.sec) :
    (forEach l f s).sec = s.sec := by
  unfold forEach; induction l generalizing s with
  | nil => rfl
  | cons a l ih => rw [List.foldl_cons, ih, h]

@[simp] theorem foldl_sec {α : Type} (l : List α) (f : State → α → State) (s : State) (h : ∀ s a, (f s a).sec = s.sec) :
    (l.foldl f s).sec = s.sec := by
  induction l generalizing s with
  | nil => rfl
  | cons a l ih => rw [List.foldl_cons, ih, h]

@[simp] theorem ite_regs (c : Prop) [Decidable c] (a b : State) : (if c then a else b).regs = if c then a.regs else b.regs := by split <;> rfl

@[simp] theorem forEach_regs {α : Type} (l : List α) (f : State → α → State) (s : State) (h : ∀ s a, (f s a).regs = s.regs) :
    (forEach l f s).regs = s.regs := by
  unfold forEach; induction l generalizing s with
  | nil => rfl
  | cons a l ih => rw [List.foldl_cons, ih, h]

@[simp] theorem foldl_regs {α : Type} (l : List α) (f : State → α → State) (s : State) (h : ∀ s a, (f s a).regs = s.regs) :
    (l.foldl f s).regs = s.regs := by
  induction l generalizing s with
  | nil => rfl
  | cons a l ih => rw [List.foldl_cons, ih, h]

@[simp] theorem ite_mem (c : Prop) [Decidable c] (a b : State) : (if c then a else b).mem = if c then a.mem else b.mem := by split <;> rfl

@[simp] theorem forEach_mem {α : Type} (l : List α) (f : State → α → State) (s : State) (h : ∀ s a, (f s a).mem = s.mem) :
    (forEach l f s).mem = s.mem := by
  unfold forEach; induction l generalizing s with
  | nil => rfl
  | cons a l ih => rw [List.foldl_cons, ih, h]

@[simp] theorem foldl_mem {α : Type} (l : List α) (f : State → α → State) (s : State) (h : ∀ s a, (f s a).mem = s.mem) :
    (l.foldl f s).mem = s.mem := by
  induction l generalizing s with
  | nil => rfl
  | cons a l ih => rw [List.foldl_cons, ih, h]

@[simp] theorem ite_pool (c : Prop) [Decidable c] (a b : State) : (if c then a else b).pool = if c then a.pool else b.pool := by split <;> rfl

@[simp] theorem forEach_pool {α : Type} (l : List α) (f : State → α → State) (s : State) (h : ∀ s a, (f s a).pool = s.pool) :
    (forEach l f s).pool = s.pool := by
  unfold forEach; induction l generalizing s with
  | nil => rfl
  | cons a l ih => rw [List.foldl_cons, ih, h]

@[simp] theorem foldl_pool {α : Type} (l : List α) (f : State → α → State) (s : State) (h : ∀ s a, (f s a).pool = s.pool) :
    (l.foldl f s).pool = s.pool := by
  induction l generalizing s with
  | nil => rfl
  | cons a l ih => rw [List.foldl_cons, ih, h]

@[simp] theorem ite_ctxs (c : Prop) [Decidable c] (a b : State) : (if c then a else b).ctxs = if c then a.ctxs else b.ctxs := by split <;> rfl

@[simp] theorem forEach_ctxs {α : Type} (l : List α) (f : State → α → State) (s : State) (h : ∀ s a, (f s a).ctxs = s.ctxs) :
    (forEach l f s).ctxs = s.ctxs := by
  unfold forEach; induction l generalizing s with
  | nil => rfl
  | cons a l ih => rw [List.foldl_cons, ih, h]

@[simp] theorem foldl_ctxs {α : Type} (l : List α) (f : State → α → State) (s : State) (h : ∀ s a, (f s a).ctxs = s.ctxs) :
    (l.foldl f s).ctxs = s.ctxs := by
  induction l generalizing s with
  | nil => rfl
  | cons a l ih => rw [List.foldl_cons, ih, h]

@[simp] theorem ite_video (c : Prop) [Decidable c] (a b : State) : (if c then a else b).video = if c then a.video else b.video := by split <;> rfl

@[simp] theorem forEach_video {α : Type} (l : List α) (f : State → α → State) (s : State) (h : ∀ s a, (f s a).video = s.video) :
    (forEach l f s).video = s.video := by
  unfold forEach; induction l generalizing s with
  | nil => rfl
  | cons a l ih => rw [List.foldl_cons, ih, h]

@[simp] theorem foldl_video {α : Type} (l : List α) (f : State → α → State) (s : State) (h : ∀ s a, (f s a).video = s.video) :
    (l.foldl f s).video = s.video := by
  induction l generalizing s with
  | nil => rfl
  | cons a l ih => rw [List.foldl_cons, ih, h]

@[simp] theorem ite_fab (c : Prop) [Decidable c] (a b : State) : (if c then a else b).fab = if c then a.fab else b.fab := by split <;> rfl

@[simp] theorem forEach_fab {α : Type} (l : List α) (f : State → α → State) (s : State) (h : ∀ s a, (f s a).fab = s.fab) :
    (forEach l f s).fab = s.fab := by
  unfold forEach; induction l generalizing s with
  | nil => rfl
  | cons a l ih => rw [List.foldl_cons, ih, h]

@[simp] theorem foldl_fab {α : Type} (l : List α) (f : State → α → State) (s : State) (h : ∀ s a, (f s a).fab = s.fab) :
    (l.foldl f s).fab = s.fab := by
  induction l generalizing s with
  | nil => rfl
  | cons a l ih => rw [List.foldl_cons, ih, h]

@[simp] theorem ite_sched (c : Prop) [Decidable c] (a b : State) : (if c then a else b).sched = if c then a.sched else b.sched := by split <;> rfl

@[simp] theorem forEach_sched {α : Type} (l : List α) (f : State → α → State) (s : State) (h : ∀ s a, (f s a).sched = s.sched) :
    (forEach l f s).sched = s.sched := by
  unfold forEach; induction l generalizing s with
  | nil => rfl
  | cons a l ih => rw [List.foldl_cons, ih, h]

@[simp] theorem foldl_sched {α : Type} (l : List α) (f : State → α → State) (s : State) (h : ∀ s a, (f s a).sched = s.sched) :
    (l.foldl f s).sched = s.sched := by
  induction l generalizing s with
  | nil => rfl
  | cons a l ih => rw [List.foldl_cons, ih, h]

@[simp] theorem ite_power (c : Prop) [Decidable c] (a b : State) : (if c then a else b).power = if c then a.power else b.power := by split <;> rfl

@[simp] theorem forEach_power {α : Type} (l : List α) (f : State → α → State) (s : State) (h : ∀ s a, (f s a).power = s.power) :
    (forEach l f s).power = s.power := by
  unfold forEach; induction l generalizing s with
  | nil => rfl
  | cons a l ih => rw [List.foldl_cons, ih, h]

@[simp] theorem foldl_power {α : Type} (l : List α) (f : State → α → State) (s : State) (h : ∀ s a, (f s a).power = s.power) :
    (l.foldl f s).power = s.power := by
  induction l generalizing s with
  | nil => rfl
  | cons a l ih => rw [List.foldl_cons, ih, h]

@[simp] theorem ite_host (c : Prop) [Decidable c] (a b : State) : (if c then a else b).host = if c then a.host else b.host := by split <;> rfl

@[simp] theorem forEach_host {α : Type} (l : List α) (f : State → α → State) (s : State) (h : ∀ s a, (f s a).host = s.host) :
    (forEach l f s).host = s.host := by
  unfold forEach; induction l generalizing s with
  | nil => rfl
  | cons a l ih => rw [List.foldl_cons, ih, h]

@[simp] theorem foldl_host {α : Type} (l : List α) (f : State → α → State) (s : State) (h : ∀ s a, (f s a).host = s.host) :
    (l.foldl f s).host = s.host := by
  induction l generalizing s with
  | nil => rfl
  | cons a l ih => rw [List.foldl_cons, ih, h]

@[simp] theorem ite_links (c : Prop) [Decidable c] (a b : State) : (if c then a else b).links = if c then a.links else b.links := by split <;> rfl

@[simp] theorem forEach_links {α : Type} (l : List α) (f : State → α → State) (s : State) (h : ∀ s a, (f s a).links = s.links) :
    (forEach l f s).links = s.links := by
  unfold forEach; induction l generalizing s with
  | nil => rfl
  | cons a l ih => rw [List.foldl_cons, ih, h]

@[simp] theorem foldl_links {α : Type} (l : List α) (f : State → α → State) (s : State) (h : ∀ s a, (f s a).links = s.links) :
    (l.foldl f s).links = s.links := by
  induction l generalizing s with
  | nil => rfl
  | cons a l ih => rw [List.foldl_cons, ih, h]

@[simp] theorem ite_inp (c : Prop) [Decidable c] (a b : State) : (if c then a else b).inp = if c then a.inp else b.inp := by split <;> rfl

@[simp] theorem forEach_inp {α : Type} (l : List α) (f : State → α → State) (s : State) (h : ∀ s a, (f s a).inp = s.inp) :
    (forEach l f s).inp = s.inp := by
  unfold forEach; induction l generalizing s with
  | nil => rfl
  | cons a l ih => rw [List.foldl_cons, ih, h]

@[simp] theorem foldl_inp {α : Type} (l : List α) (f : State → α → State) (s : State) (h : ∀ s a, (f s a).inp = s.inp) :
    (l.foldl f s).inp = s.inp := by
  induction l generalizing s with
  | nil => rfl
  | cons a l ih => rw [List.foldl_cons, ih, h]

@[simp] theorem ite_ctl (c : Prop) [Decidable c] (a b : State) : (if c then a else b).ctl = if c then a.ctl else b.ctl := by split <;> rfl

@[simp] theorem forEach_ctl {α : Type} (l : List α) (f : State → α → State) (s : State) (h : ∀ s a, (f s a).ctl = s.ctl) :
    (forEach l f s).ctl = s.ctl := by
  unfold forEach; induction l generalizing s with
  | nil => rfl
  | cons a l ih => rw [List.foldl_cons, ih, h]

@[simp] theorem foldl_ctl {α : Type} (l : List α) (f : State → α → State) (s : State) (h : ∀ s a, (f s a).ctl = s.ctl) :
    (l.foldl f s).ctl = s.ctl := by
  induction l generalizing s with
  | nil => rfl
  | cons a l ih => rw [List.foldl_cons, ih, h]

end Sys2Proof.Machine
end

