-- ==== Sys2Proof/Laws/Frames.lean ====
section
/-! SUPPORT. The frame of each shared operation that answers a state: the fields that it leaves as they were. -/

namespace Sys2Proof.Machine

/-- What `setReg` leaves as it was. -/
@[simp] theorem setReg_frame (s : State) (page off v : Nat) :
    (setReg s page off v).pending = s.pending ∧ (setReg s page off v).freeCtr = s.freeCtr ∧ (setReg s page off v).out = s.out
      ∧ (setReg s page off v).sclk = s.sclk ∧ (setReg s page off v).boot = s.boot ∧ (setReg s page off v).nv = s.nv
      ∧ (setReg s page off v).sec = s.sec ∧ (setReg s page off v).mem = s.mem ∧ (setReg s page off v).pool = s.pool
      ∧ (setReg s page off v).ctxs = s.ctxs ∧ (setReg s page off v).video = s.video ∧ (setReg s page off v).fab = s.fab
      ∧ (setReg s page off v).sched = s.sched ∧ (setReg s page off v).power = s.power ∧ (setReg s page off v).host = s.host
      ∧ (setReg s page off v).links = s.links ∧ (setReg s page off v).inp = s.inp ∧ (setReg s page off v).ctl = s.ctl := by
  simp [setReg]

/-- What `bump` leaves as it was. -/
@[simp] theorem bump_frame (s : State) (page off n : Nat) :
    (bump s page off n).pending = s.pending ∧ (bump s page off n).freeCtr = s.freeCtr ∧ (bump s page off n).out = s.out
      ∧ (bump s page off n).sclk = s.sclk ∧ (bump s page off n).boot = s.boot ∧ (bump s page off n).nv = s.nv
      ∧ (bump s page off n).sec = s.sec ∧ (bump s page off n).mem = s.mem ∧ (bump s page off n).pool = s.pool
      ∧ (bump s page off n).ctxs = s.ctxs ∧ (bump s page off n).video = s.video ∧ (bump s page off n).fab = s.fab
      ∧ (bump s page off n).sched = s.sched ∧ (bump s page off n).power = s.power ∧ (bump s page off n).host = s.host
      ∧ (bump s page off n).links = s.links ∧ (bump s page off n).inp = s.inp ∧ (bump s page off n).ctl = s.ctl := by
  simp [bump]

/-- What `winRefuse` leaves as it was. -/
@[simp] theorem winRefuse_frame (s : State) (pa : Nat) :
    (winRefuse s pa).pending = s.pending ∧ (winRefuse s pa).freeCtr = s.freeCtr ∧ (winRefuse s pa).out = s.out
      ∧ (winRefuse s pa).sclk = s.sclk ∧ (winRefuse s pa).boot = s.boot ∧ (winRefuse s pa).nv = s.nv ∧ (winRefuse s pa).sec = s.sec
      ∧ (winRefuse s pa).mem = s.mem ∧ (winRefuse s pa).pool = s.pool ∧ (winRefuse s pa).ctxs = s.ctxs ∧ (winRefuse s pa).video = s.video
      ∧ (winRefuse s pa).fab = s.fab ∧ (winRefuse s pa).sched = s.sched ∧ (winRefuse s pa).power = s.power
      ∧ (winRefuse s pa).host = s.host ∧ (winRefuse s pa).links = s.links ∧ (winRefuse s pa).inp = s.inp
      ∧ (winRefuse s pa).ctl = s.ctl := by
  unfold winRefuse; (repeat' split) <;> simp

/-- What `winNext` leaves as it was. -/
@[simp] theorem winNext_frame (s : State) (pa : Nat) :
    (winNext s pa).pending = s.pending ∧ (winNext s pa).freeCtr = s.freeCtr ∧ (winNext s pa).out = s.out ∧ (winNext s pa).sclk = s.sclk
      ∧ (winNext s pa).boot = s.boot ∧ (winNext s pa).nv = s.nv ∧ (winNext s pa).sec = s.sec ∧ (winNext s pa).mem = s.mem
      ∧ (winNext s pa).pool = s.pool ∧ (winNext s pa).ctxs = s.ctxs ∧ (winNext s pa).video = s.video ∧ (winNext s pa).fab = s.fab
      ∧ (winNext s pa).sched = s.sched ∧ (winNext s pa).power = s.power ∧ (winNext s pa).host = s.host ∧ (winNext s pa).links = s.links
      ∧ (winNext s pa).inp = s.inp ∧ (winNext s pa).ctl = s.ctl := by
  simp [winNext]

/-- What `memSet` leaves as it was. -/
@[simp] theorem memSet_frame (s : State) (pa : Nat) (b : Byte) :
    (memSet s pa b).pending = s.pending ∧ (memSet s pa b).freeCtr = s.freeCtr ∧ (memSet s pa b).out = s.out
      ∧ (memSet s pa b).sclk = s.sclk ∧ (memSet s pa b).boot = s.boot ∧ (memSet s pa b).nv = s.nv ∧ (memSet s pa b).sec = s.sec
      ∧ (memSet s pa b).regs = s.regs ∧ (memSet s pa b).pool = s.pool ∧ (memSet s pa b).ctxs = s.ctxs ∧ (memSet s pa b).video = s.video
      ∧ (memSet s pa b).fab = s.fab ∧ (memSet s pa b).sched = s.sched ∧ (memSet s pa b).power = s.power ∧ (memSet s pa b).host = s.host
      ∧ (memSet s pa b).links = s.links ∧ (memSet s pa b).inp = s.inp ∧ (memSet s pa b).ctl = s.ctl := by
  simp [memSet]

/-- What `emit` leaves as it was. -/
@[simp] theorem emit_frame (s : State) (o : Out) :
    (emit s o).pending = s.pending ∧ (emit s o).freeCtr = s.freeCtr ∧ (emit s o).sclk = s.sclk ∧ (emit s o).boot = s.boot
      ∧ (emit s o).nv = s.nv ∧ (emit s o).sec = s.sec ∧ (emit s o).regs = s.regs ∧ (emit s o).mem = s.mem ∧ (emit s o).pool = s.pool
      ∧ (emit s o).ctxs = s.ctxs ∧ (emit s o).video = s.video ∧ (emit s o).fab = s.fab ∧ (emit s o).sched = s.sched
      ∧ (emit s o).power = s.power ∧ (emit s o).host = s.host ∧ (emit s o).links = s.links ∧ (emit s o).inp = s.inp
      ∧ (emit s o).ctl = s.ctl := by
  simp [emit]

/-- What `bumpFree` leaves as it was. -/
@[simp] theorem bumpFree_frame (s : State) :
    (bumpFree s).pending = s.pending ∧ (bumpFree s).out = s.out ∧ (bumpFree s).sclk = s.sclk ∧ (bumpFree s).boot = s.boot
      ∧ (bumpFree s).nv = s.nv ∧ (bumpFree s).sec = s.sec ∧ (bumpFree s).regs = s.regs ∧ (bumpFree s).mem = s.mem
      ∧ (bumpFree s).pool = s.pool ∧ (bumpFree s).ctxs = s.ctxs ∧ (bumpFree s).video = s.video ∧ (bumpFree s).fab = s.fab
      ∧ (bumpFree s).sched = s.sched ∧ (bumpFree s).power = s.power ∧ (bumpFree s).host = s.host ∧ (bumpFree s).links = s.links
      ∧ (bumpFree s).inp = s.inp ∧ (bumpFree s).ctl = s.ctl := by
  simp [bumpFree]

/-- What `traceRec` leaves as it was. -/
@[simp] theorem traceRec_frame (s : State) (kind part page tag idx op status code data : Nat) :
    (traceRec s kind part page tag idx op status code data).pending = s.pending
      ∧ (traceRec s kind part page tag idx op status code data).freeCtr = s.freeCtr
      ∧ (traceRec s kind part page tag idx op status code data).out = s.out
      ∧ (traceRec s kind part page tag idx op status code data).sclk = s.sclk
      ∧ (traceRec s kind part page tag idx op status code data).boot = s.boot
      ∧ (traceRec s kind part page tag idx op status code data).nv = s.nv
      ∧ (traceRec s kind part page tag idx op status code data).sec = s.sec
      ∧ (traceRec s kind part page tag idx op status code data).mem = s.mem
      ∧ (traceRec s kind part page tag idx op status code data).pool = s.pool
      ∧ (traceRec s kind part page tag idx op status code data).ctxs = s.ctxs
      ∧ (traceRec s kind part page tag idx op status code data).video = s.video
      ∧ (traceRec s kind part page tag idx op status code data).fab = s.fab
      ∧ (traceRec s kind part page tag idx op status code data).sched = s.sched
      ∧ (traceRec s kind part page tag idx op status code data).power = s.power
      ∧ (traceRec s kind part page tag idx op status code data).host = s.host
      ∧ (traceRec s kind part page tag idx op status code data).links = s.links
      ∧ (traceRec s kind part page tag idx op status code data).inp = s.inp := by
  simp [traceRec]

/-- What `modSess` leaves as it was. -/
@[simp] theorem modSess_frame (s : State) (i : Nat) (f : Sess → Sess) :
    (modSess s i f).pending = s.pending ∧ (modSess s i f).freeCtr = s.freeCtr ∧ (modSess s i f).out = s.out
      ∧ (modSess s i f).sclk = s.sclk ∧ (modSess s i f).boot = s.boot ∧ (modSess s i f).nv = s.nv ∧ (modSess s i f).sec = s.sec
      ∧ (modSess s i f).regs = s.regs ∧ (modSess s i f).mem = s.mem ∧ (modSess s i f).pool = s.pool ∧ (modSess s i f).ctxs = s.ctxs
      ∧ (modSess s i f).video = s.video ∧ (modSess s i f).fab = s.fab ∧ (modSess s i f).sched = s.sched ∧ (modSess s i f).power = s.power
      ∧ (modSess s i f).links = s.links ∧ (modSess s i f).inp = s.inp ∧ (modSess s i f).ctl = s.ctl := by
  simp [modSess]

/-- What `eventToSess` leaves as it was. -/
@[simp] theorem eventToSess_frame (page n : Nat) (s : State) (i : Nat) :
    (eventToSess page n s i).pending = s.pending ∧ (eventToSess page n s i).freeCtr = s.freeCtr ∧ (eventToSess page n s i).out = s.out
      ∧ (eventToSess page n s i).sclk = s.sclk ∧ (eventToSess page n s i).boot = s.boot ∧ (eventToSess page n s i).nv = s.nv
      ∧ (eventToSess page n s i).sec = s.sec ∧ (eventToSess page n s i).mem = s.mem ∧ (eventToSess page n s i).pool = s.pool
      ∧ (eventToSess page n s i).ctxs = s.ctxs ∧ (eventToSess page n s i).video = s.video ∧ (eventToSess page n s i).fab = s.fab
      ∧ (eventToSess page n s i).sched = s.sched ∧ (eventToSess page n s i).power = s.power ∧ (eventToSess page n s i).links = s.links
      ∧ (eventToSess page n s i).inp = s.inp ∧ (eventToSess page n s i).ctl = s.ctl := by
  simp [eventToSess]

/-- What `raise` leaves as it was. -/
@[simp] theorem raise_frame (s : State) (page n : Nat) :
    (raise s page n).pending = s.pending ∧ (raise s page n).freeCtr = s.freeCtr ∧ (raise s page n).out = s.out
      ∧ (raise s page n).sclk = s.sclk ∧ (raise s page n).boot = s.boot ∧ (raise s page n).nv = s.nv ∧ (raise s page n).sec = s.sec
      ∧ (raise s page n).mem = s.mem ∧ (raise s page n).pool = s.pool ∧ (raise s page n).ctxs = s.ctxs ∧ (raise s page n).video = s.video
      ∧ (raise s page n).fab = s.fab ∧ (raise s page n).sched = s.sched ∧ (raise s page n).power = s.power
      ∧ (raise s page n).links = s.links ∧ (raise s page n).inp = s.inp := by
  simp [raise]

/-- What `modRgn` leaves as it was. -/
@[simp] theorem modRgn_frame (s : State) (r : Nat) (f : Region → Region) :
    (modRgn s r f).pending = s.pending ∧ (modRgn s r f).freeCtr = s.freeCtr ∧ (modRgn s r f).out = s.out ∧ (modRgn s r f).sclk = s.sclk
      ∧ (modRgn s r f).boot = s.boot ∧ (modRgn s r f).nv = s.nv ∧ (modRgn s r f).sec = s.sec ∧ (modRgn s r f).regs = s.regs
      ∧ (modRgn s r f).mem = s.mem ∧ (modRgn s r f).pool = s.pool ∧ (modRgn s r f).ctxs = s.ctxs ∧ (modRgn s r f).video = s.video
      ∧ (modRgn s r f).sched = s.sched ∧ (modRgn s r f).power = s.power ∧ (modRgn s r f).host = s.host ∧ (modRgn s r f).links = s.links
      ∧ (modRgn s r f).inp = s.inp ∧ (modRgn s r f).ctl = s.ctl := by
  simp [modRgn]

/-- What `takeRunning` leaves as it was. -/
@[simp] theorem takeRunning_frame (s : State) (r p : Nat) :
    (takeRunning s r p).pending = s.pending ∧ (takeRunning s r p).freeCtr = s.freeCtr ∧ (takeRunning s r p).out = s.out
      ∧ (takeRunning s r p).sclk = s.sclk ∧ (takeRunning s r p).boot = s.boot ∧ (takeRunning s r p).nv = s.nv
      ∧ (takeRunning s r p).sec = s.sec ∧ (takeRunning s r p).mem = s.mem ∧ (takeRunning s r p).pool = s.pool
      ∧ (takeRunning s r p).ctxs = s.ctxs ∧ (takeRunning s r p).video = s.video ∧ (takeRunning s r p).power = s.power
      ∧ (takeRunning s r p).links = s.links ∧ (takeRunning s r p).inp = s.inp := by
  simp [takeRunning]

/-- What `memZero` leaves as it was. -/
@[simp] theorem memZero_frame (s : State) (lo hi : Nat) :
    (memZero s lo hi).pending = s.pending ∧ (memZero s lo hi).freeCtr = s.freeCtr ∧ (memZero s lo hi).out = s.out
      ∧ (memZero s lo hi).sclk = s.sclk ∧ (memZero s lo hi).boot = s.boot ∧ (memZero s lo hi).nv = s.nv ∧ (memZero s lo hi).sec = s.sec
      ∧ (memZero s lo hi).regs = s.regs ∧ (memZero s lo hi).pool = s.pool ∧ (memZero s lo hi).ctxs = s.ctxs
      ∧ (memZero s lo hi).video = s.video ∧ (memZero s lo hi).fab = s.fab ∧ (memZero s lo hi).sched = s.sched
      ∧ (memZero s lo hi).power = s.power ∧ (memZero s lo hi).host = s.host ∧ (memZero s lo hi).links = s.links
      ∧ (memZero s lo hi).inp = s.inp ∧ (memZero s lo hi).ctl = s.ctl := by
  simp [memZero]

/-- What `clearRgnMem` leaves as it was. -/
@[simp] theorem clearRgnMem_frame (s : State) (r : Nat) :
    (clearRgnMem s r).pending = s.pending ∧ (clearRgnMem s r).freeCtr = s.freeCtr ∧ (clearRgnMem s r).out = s.out
      ∧ (clearRgnMem s r).sclk = s.sclk ∧ (clearRgnMem s r).boot = s.boot ∧ (clearRgnMem s r).nv = s.nv ∧ (clearRgnMem s r).sec = s.sec
      ∧ (clearRgnMem s r).regs = s.regs ∧ (clearRgnMem s r).pool = s.pool ∧ (clearRgnMem s r).ctxs = s.ctxs
      ∧ (clearRgnMem s r).video = s.video ∧ (clearRgnMem s r).sched = s.sched ∧ (clearRgnMem s r).power = s.power
      ∧ (clearRgnMem s r).host = s.host ∧ (clearRgnMem s r).links = s.links ∧ (clearRgnMem s r).inp = s.inp
      ∧ (clearRgnMem s r).ctl = s.ctl := by
  simp [clearRgnMem]

/-- What `giveRegion` leaves as it was. -/
@[simp] theorem giveRegion_frame (s : State) (r p : Nat) :
    (giveRegion s r p).pending = s.pending ∧ (giveRegion s r p).freeCtr = s.freeCtr ∧ (giveRegion s r p).out = s.out
      ∧ (giveRegion s r p).sclk = s.sclk ∧ (giveRegion s r p).boot = s.boot ∧ (giveRegion s r p).nv = s.nv
      ∧ (giveRegion s r p).sec = s.sec ∧ (giveRegion s r p).regs = s.regs ∧ (giveRegion s r p).pool = s.pool
      ∧ (giveRegion s r p).ctxs = s.ctxs ∧ (giveRegion s r p).video = s.video ∧ (giveRegion s r p).sched = s.sched
      ∧ (giveRegion s r p).power = s.power ∧ (giveRegion s r p).host = s.host ∧ (giveRegion s r p).links = s.links
      ∧ (giveRegion s r p).inp = s.inp ∧ (giveRegion s r p).ctl = s.ctl := by
  simp [giveRegion]

/-- What `beginRestore` leaves as it was. -/
@[simp] theorem beginRestore_frame (s : State) (r : Nat) (v : Saved) :
    (beginRestore s r v).pending = s.pending ∧ (beginRestore s r v).freeCtr = s.freeCtr ∧ (beginRestore s r v).out = s.out
      ∧ (beginRestore s r v).sclk = s.sclk ∧ (beginRestore s r v).boot = s.boot ∧ (beginRestore s r v).nv = s.nv
      ∧ (beginRestore s r v).sec = s.sec ∧ (beginRestore s r v).regs = s.regs ∧ (beginRestore s r v).pool = s.pool
      ∧ (beginRestore s r v).ctxs = s.ctxs ∧ (beginRestore s r v).video = s.video ∧ (beginRestore s r v).sched = s.sched
      ∧ (beginRestore s r v).power = s.power ∧ (beginRestore s r v).host = s.host ∧ (beginRestore s r v).links = s.links
      ∧ (beginRestore s r v).inp = s.inp ∧ (beginRestore s r v).ctl = s.ctl := by
  simp [beginRestore]

/-- What `assignRgn` leaves as it was. -/
@[simp] theorem assignRgn_frame (s : State) (r : Nat) :
    (assignRgn s r).pending = s.pending ∧ (assignRgn s r).freeCtr = s.freeCtr ∧ (assignRgn s r).out = s.out
      ∧ (assignRgn s r).sclk = s.sclk ∧ (assignRgn s r).boot = s.boot ∧ (assignRgn s r).nv = s.nv ∧ (assignRgn s r).sec = s.sec
      ∧ (assignRgn s r).pool = s.pool ∧ (assignRgn s r).ctxs = s.ctxs ∧ (assignRgn s r).video = s.video ∧ (assignRgn s r).power = s.power
      ∧ (assignRgn s r).links = s.links ∧ (assignRgn s r).inp = s.inp := by
  unfold assignRgn; (repeat' split) <;> simp <;> (repeat' split) <;> simp

/-- What `assign` leaves as it was. -/
@[simp] theorem assign_frame (s : State) :
    (assign s).pending = s.pending ∧ (assign s).freeCtr = s.freeCtr ∧ (assign s).out = s.out ∧ (assign s).sclk = s.sclk
      ∧ (assign s).boot = s.boot ∧ (assign s).nv = s.nv ∧ (assign s).sec = s.sec ∧ (assign s).pool = s.pool ∧ (assign s).ctxs = s.ctxs
      ∧ (assign s).video = s.video ∧ (assign s).power = s.power ∧ (assign s).links = s.links ∧ (assign s).inp = s.inp := by
  simp [assign]

/-- What `bellFlood` leaves as it was. -/
@[simp] theorem bellFlood_frame (s : State) (p : Nat) (from_ : Option Nat) (kind a b : Nat) (vals : List W32) :
    (bellFlood s p from_ kind a b vals).pending = s.pending ∧ (bellFlood s p from_ kind a b vals).freeCtr = s.freeCtr
      ∧ (bellFlood s p from_ kind a b vals).sclk = s.sclk ∧ (bellFlood s p from_ kind a b vals).boot = s.boot
      ∧ (bellFlood s p from_ kind a b vals).nv = s.nv ∧ (bellFlood s p from_ kind a b vals).sec = s.sec
      ∧ (bellFlood s p from_ kind a b vals).mem = s.mem ∧ (bellFlood s p from_ kind a b vals).pool = s.pool
      ∧ (bellFlood s p from_ kind a b vals).ctxs = s.ctxs ∧ (bellFlood s p from_ kind a b vals).video = s.video
      ∧ (bellFlood s p from_ kind a b vals).fab = s.fab ∧ (bellFlood s p from_ kind a b vals).sched = s.sched
      ∧ (bellFlood s p from_ kind a b vals).power = s.power ∧ (bellFlood s p from_ kind a b vals).host = s.host
      ∧ (bellFlood s p from_ kind a b vals).links = s.links ∧ (bellFlood s p from_ kind a b vals).inp = s.inp
      ∧ (bellFlood s p from_ kind a b vals).ctl = s.ctl := by
  simp [bellFlood]

/-- What `announceHeld` leaves as it was. -/
@[simp] theorem announceHeld_frame (s : State) :
    (announceHeld s).pending = s.pending ∧ (announceHeld s).freeCtr = s.freeCtr ∧ (announceHeld s).sclk = s.sclk
      ∧ (announceHeld s).boot = s.boot ∧ (announceHeld s).nv = s.nv ∧ (announceHeld s).sec = s.sec ∧ (announceHeld s).mem = s.mem
      ∧ (announceHeld s).pool = s.pool ∧ (announceHeld s).ctxs = s.ctxs ∧ (announceHeld s).video = s.video ∧ (announceHeld s).fab = s.fab
      ∧ (announceHeld s).sched = s.sched ∧ (announceHeld s).power = s.power ∧ (announceHeld s).host = s.host
      ∧ (announceHeld s).inp = s.inp ∧ (announceHeld s).ctl = s.ctl := by
  simp [announceHeld]

/-- What `refreshLeaves` leaves as it was. -/
@[simp] theorem refreshLeaves_frame (s : State) :
    (refreshLeaves s).pending = s.pending ∧ (refreshLeaves s).freeCtr = s.freeCtr ∧ (refreshLeaves s).out = s.out
      ∧ (refreshLeaves s).sclk = s.sclk ∧ (refreshLeaves s).boot = s.boot ∧ (refreshLeaves s).nv = s.nv ∧ (refreshLeaves s).sec = s.sec
      ∧ (refreshLeaves s).regs = s.regs ∧ (refreshLeaves s).mem = s.mem ∧ (refreshLeaves s).pool = s.pool
      ∧ (refreshLeaves s).ctxs = s.ctxs ∧ (refreshLeaves s).video = s.video ∧ (refreshLeaves s).fab = s.fab
      ∧ (refreshLeaves s).sched = s.sched ∧ (refreshLeaves s).host = s.host ∧ (refreshLeaves s).links = s.links
      ∧ (refreshLeaves s).inp = s.inp ∧ (refreshLeaves s).ctl = s.ctl := by
  simp [refreshLeaves]

/-- What `settle` leaves as it was. -/
@[simp] theorem settle_frame (s : State) :
    (settle s).pending = s.pending ∧ (settle s).freeCtr = s.freeCtr ∧ (settle s).sclk = s.sclk ∧ (settle s).boot = s.boot
      ∧ (settle s).nv = s.nv ∧ (settle s).sec = s.sec ∧ (settle s).pool = s.pool ∧ (settle s).ctxs = s.ctxs ∧ (settle s).video = s.video
      ∧ (settle s).inp = s.inp := by
  simp [settle]

/-- What `countFinal` leaves as it was. -/
@[simp] theorem countFinal_frame (s : State) (qs : List Pos) :
    (countFinal s qs).pending = s.pending ∧ (countFinal s qs).freeCtr = s.freeCtr ∧ (countFinal s qs).out = s.out
      ∧ (countFinal s qs).sclk = s.sclk ∧ (countFinal s qs).boot = s.boot ∧ (countFinal s qs).nv = s.nv ∧ (countFinal s qs).sec = s.sec
      ∧ (countFinal s qs).mem = s.mem ∧ (countFinal s qs).pool = s.pool ∧ (countFinal s qs).ctxs = s.ctxs
      ∧ (countFinal s qs).video = s.video ∧ (countFinal s qs).fab = s.fab ∧ (countFinal s qs).sched = s.sched
      ∧ (countFinal s qs).power = s.power ∧ (countFinal s qs).links = s.links ∧ (countFinal s qs).inp = s.inp := by
  simp [countFinal]

/-- What `memCopy` leaves as it was. -/
@[simp] theorem memCopy_frame (s : State) (src dst n : Nat) :
    (memCopy s src dst n).pending = s.pending ∧ (memCopy s src dst n).freeCtr = s.freeCtr ∧ (memCopy s src dst n).out = s.out
      ∧ (memCopy s src dst n).sclk = s.sclk ∧ (memCopy s src dst n).boot = s.boot ∧ (memCopy s src dst n).nv = s.nv
      ∧ (memCopy s src dst n).sec = s.sec ∧ (memCopy s src dst n).regs = s.regs ∧ (memCopy s src dst n).pool = s.pool
      ∧ (memCopy s src dst n).ctxs = s.ctxs ∧ (memCopy s src dst n).video = s.video ∧ (memCopy s src dst n).fab = s.fab
      ∧ (memCopy s src dst n).sched = s.sched ∧ (memCopy s src dst n).power = s.power ∧ (memCopy s src dst n).host = s.host
      ∧ (memCopy s src dst n).links = s.links ∧ (memCopy s src dst n).inp = s.inp ∧ (memCopy s src dst n).ctl = s.ctl := by
  simp [memCopy]

/-- What `modPte` leaves as it was. -/
@[simp] theorem modPte_frame (s : State) (sp : Space) (va : Nat) (f : Pte → Pte) :
    (modPte s sp va f).pending = s.pending ∧ (modPte s sp va f).freeCtr = s.freeCtr ∧ (modPte s sp va f).out = s.out
      ∧ (modPte s sp va f).sclk = s.sclk ∧ (modPte s sp va f).boot = s.boot ∧ (modPte s sp va f).nv = s.nv
      ∧ (modPte s sp va f).sec = s.sec ∧ (modPte s sp va f).regs = s.regs ∧ (modPte s sp va f).mem = s.mem
      ∧ (modPte s sp va f).ctxs = s.ctxs ∧ (modPte s sp va f).video = s.video ∧ (modPte s sp va f).fab = s.fab
      ∧ (modPte s sp va f).sched = s.sched ∧ (modPte s sp va f).power = s.power ∧ (modPte s sp va f).host = s.host
      ∧ (modPte s sp va f).links = s.links ∧ (modPte s sp va f).inp = s.inp ∧ (modPte s sp va f).ctl = s.ctl := by
  simp [modPte]

/-- What `freeFrame` leaves as it was. -/
@[simp] theorem freeFrame_frame (s : State) (e : Pte) :
    (freeFrame s e).pending = s.pending ∧ (freeFrame s e).freeCtr = s.freeCtr ∧ (freeFrame s e).out = s.out
      ∧ (freeFrame s e).sclk = s.sclk ∧ (freeFrame s e).boot = s.boot ∧ (freeFrame s e).nv = s.nv ∧ (freeFrame s e).sec = s.sec
      ∧ (freeFrame s e).regs = s.regs ∧ (freeFrame s e).mem = s.mem ∧ (freeFrame s e).ctxs = s.ctxs ∧ (freeFrame s e).video = s.video
      ∧ (freeFrame s e).fab = s.fab ∧ (freeFrame s e).sched = s.sched ∧ (freeFrame s e).power = s.power ∧ (freeFrame s e).host = s.host
      ∧ (freeFrame s e).links = s.links ∧ (freeFrame s e).inp = s.inp ∧ (freeFrame s e).ctl = s.ctl := by
  simp [freeFrame]

/-- What `modReq` leaves as it was. -/
@[simp] theorem modReq_frame (s : State) (id : Nat) (f : Request → Request) :
    (modReq s id f).pending = s.pending ∧ (modReq s id f).freeCtr = s.freeCtr ∧ (modReq s id f).out = s.out
      ∧ (modReq s id f).sclk = s.sclk ∧ (modReq s id f).boot = s.boot ∧ (modReq s id f).nv = s.nv ∧ (modReq s id f).sec = s.sec
      ∧ (modReq s id f).regs = s.regs ∧ (modReq s id f).mem = s.mem ∧ (modReq s id f).pool = s.pool ∧ (modReq s id f).ctxs = s.ctxs
      ∧ (modReq s id f).video = s.video ∧ (modReq s id f).fab = s.fab ∧ (modReq s id f).power = s.power ∧ (modReq s id f).host = s.host
      ∧ (modReq s id f).links = s.links ∧ (modReq s id f).inp = s.inp ∧ (modReq s id f).ctl = s.ctl := by
  simp [modReq]

/-- What `vset` leaves as it was. -/
@[simp] theorem vset_frame (p : Nat) (s : State) (va : Nat) (b : Byte) :
    (vset p s va b).pending = s.pending ∧ (vset p s va b).freeCtr = s.freeCtr ∧ (vset p s va b).out = s.out
      ∧ (vset p s va b).sclk = s.sclk ∧ (vset p s va b).boot = s.boot ∧ (vset p s va b).nv = s.nv ∧ (vset p s va b).sec = s.sec
      ∧ (vset p s va b).regs = s.regs ∧ (vset p s va b).pool = s.pool ∧ (vset p s va b).ctxs = s.ctxs ∧ (vset p s va b).video = s.video
      ∧ (vset p s va b).fab = s.fab ∧ (vset p s va b).sched = s.sched ∧ (vset p s va b).power = s.power ∧ (vset p s va b).host = s.host
      ∧ (vset p s va b).links = s.links ∧ (vset p s va b).inp = s.inp ∧ (vset p s va b).ctl = s.ctl := by
  unfold vset; (repeat' split) <;> simp

/-- What `vstore` leaves as it was. -/
@[simp] theorem vstore_frame (p : Nat) (bs : List (Nat × Byte)) (s : State) :
    (vstore p bs s).pending = s.pending ∧ (vstore p bs s).freeCtr = s.freeCtr ∧ (vstore p bs s).out = s.out
      ∧ (vstore p bs s).sclk = s.sclk ∧ (vstore p bs s).boot = s.boot ∧ (vstore p bs s).nv = s.nv ∧ (vstore p bs s).sec = s.sec
      ∧ (vstore p bs s).regs = s.regs ∧ (vstore p bs s).pool = s.pool ∧ (vstore p bs s).ctxs = s.ctxs ∧ (vstore p bs s).video = s.video
      ∧ (vstore p bs s).fab = s.fab ∧ (vstore p bs s).sched = s.sched ∧ (vstore p bs s).power = s.power ∧ (vstore p bs s).host = s.host
      ∧ (vstore p bs s).links = s.links ∧ (vstore p bs s).inp = s.inp ∧ (vstore p bs s).ctl = s.ctl := by
  simp [vstore]

/-- What `countWait` leaves as it was. -/
@[simp] theorem countWait_frame (s : State) (l : Leave) :
    (countWait s l).pending = s.pending ∧ (countWait s l).freeCtr = s.freeCtr ∧ (countWait s l).out = s.out
      ∧ (countWait s l).sclk = s.sclk ∧ (countWait s l).boot = s.boot ∧ (countWait s l).nv = s.nv ∧ (countWait s l).sec = s.sec
      ∧ (countWait s l).mem = s.mem ∧ (countWait s l).pool = s.pool ∧ (countWait s l).ctxs = s.ctxs ∧ (countWait s l).video = s.video
      ∧ (countWait s l).fab = s.fab ∧ (countWait s l).sched = s.sched ∧ (countWait s l).power = s.power ∧ (countWait s l).host = s.host
      ∧ (countWait s l).links = s.links ∧ (countWait s l).inp = s.inp ∧ (countWait s l).ctl = s.ctl := by
  simp [countWait]

/-- What `dropLeaves` leaves as it was. -/
@[simp] theorem dropLeaves_frame (s : State) (gone : Leave → Bool) :
    (dropLeaves s gone).pending = s.pending ∧ (dropLeaves s gone).freeCtr = s.freeCtr ∧ (dropLeaves s gone).out = s.out
      ∧ (dropLeaves s gone).sclk = s.sclk ∧ (dropLeaves s gone).boot = s.boot ∧ (dropLeaves s gone).nv = s.nv
      ∧ (dropLeaves s gone).sec = s.sec ∧ (dropLeaves s gone).mem = s.mem ∧ (dropLeaves s gone).pool = s.pool
      ∧ (dropLeaves s gone).ctxs = s.ctxs ∧ (dropLeaves s gone).video = s.video ∧ (dropLeaves s gone).fab = s.fab
      ∧ (dropLeaves s gone).sched = s.sched ∧ (dropLeaves s gone).host = s.host ∧ (dropLeaves s gone).links = s.links
      ∧ (dropLeaves s gone).inp = s.inp ∧ (dropLeaves s gone).ctl = s.ctl := by
  simp [dropLeaves]

/-- What `discardSaved` leaves as it was. -/
@[simp] theorem discardSaved_frame (s : State) (p : Nat) :
    (discardSaved s p).pending = s.pending ∧ (discardSaved s p).freeCtr = s.freeCtr ∧ (discardSaved s p).out = s.out
      ∧ (discardSaved s p).sclk = s.sclk ∧ (discardSaved s p).boot = s.boot ∧ (discardSaved s p).nv = s.nv
      ∧ (discardSaved s p).sec = s.sec ∧ (discardSaved s p).regs = s.regs ∧ (discardSaved s p).mem = s.mem
      ∧ (discardSaved s p).pool = s.pool ∧ (discardSaved s p).ctxs = s.ctxs ∧ (discardSaved s p).video = s.video
      ∧ (discardSaved s p).sched = s.sched ∧ (discardSaved s p).power = s.power ∧ (discardSaved s p).host = s.host
      ∧ (discardSaved s p).links = s.links ∧ (discardSaved s p).inp = s.inp ∧ (discardSaved s p).ctl = s.ctl := by
  simp [discardSaved]

/-- What `fldSet` leaves as it was. -/
@[simp] theorem fldSet_frame (s : State) (page off hi lo x : Nat) :
    (fldSet s page off hi lo x).pending = s.pending ∧ (fldSet s page off hi lo x).freeCtr = s.freeCtr
      ∧ (fldSet s page off hi lo x).out = s.out ∧ (fldSet s page off hi lo x).sclk = s.sclk ∧ (fldSet s page off hi lo x).boot = s.boot
      ∧ (fldSet s page off hi lo x).nv = s.nv ∧ (fldSet s page off hi lo x).sec = s.sec ∧ (fldSet s page off hi lo x).mem = s.mem
      ∧ (fldSet s page off hi lo x).pool = s.pool ∧ (fldSet s page off hi lo x).ctxs = s.ctxs
      ∧ (fldSet s page off hi lo x).video = s.video ∧ (fldSet s page off hi lo x).fab = s.fab
      ∧ (fldSet s page off hi lo x).sched = s.sched ∧ (fldSet s page off hi lo x).power = s.power
      ∧ (fldSet s page off hi lo x).host = s.host ∧ (fldSet s page off hi lo x).links = s.links ∧ (fldSet s page off hi lo x).inp = s.inp
      ∧ (fldSet s page off hi lo x).ctl = s.ctl := by
  simp [fldSet]

/-- What `clearRc` leaves as it was. -/
@[simp] theorem clearRc_frame (s : State) (page off : Nat) :
    (clearRc s page off).pending = s.pending ∧ (clearRc s page off).freeCtr = s.freeCtr ∧ (clearRc s page off).out = s.out
      ∧ (clearRc s page off).sclk = s.sclk ∧ (clearRc s page off).boot = s.boot ∧ (clearRc s page off).nv = s.nv
      ∧ (clearRc s page off).sec = s.sec ∧ (clearRc s page off).mem = s.mem ∧ (clearRc s page off).pool = s.pool
      ∧ (clearRc s page off).ctxs = s.ctxs ∧ (clearRc s page off).video = s.video ∧ (clearRc s page off).fab = s.fab
      ∧ (clearRc s page off).sched = s.sched ∧ (clearRc s page off).power = s.power ∧ (clearRc s page off).host = s.host
      ∧ (clearRc s page off).links = s.links ∧ (clearRc s page off).inp = s.inp ∧ (clearRc s page off).ctl = s.ctl := by
  unfold clearRc; (repeat' split) <;> simp

/-- What `schReject` leaves as it was. -/
@[simp] theorem schReject_frame (s : State) :
    (schReject s).pending = s.pending ∧ (schReject s).freeCtr = s.freeCtr ∧ (schReject s).out = s.out ∧ (schReject s).sclk = s.sclk
      ∧ (schReject s).boot = s.boot ∧ (schReject s).nv = s.nv ∧ (schReject s).sec = s.sec ∧ (schReject s).mem = s.mem
      ∧ (schReject s).pool = s.pool ∧ (schReject s).ctxs = s.ctxs ∧ (schReject s).video = s.video ∧ (schReject s).fab = s.fab
      ∧ (schReject s).sched = s.sched ∧ (schReject s).power = s.power ∧ (schReject s).links = s.links ∧ (schReject s).inp = s.inp := by
  simp [schReject]

/-- What `dropPte` leaves as it was. -/
@[simp] theorem dropPte_frame (s : State) (e : Pte) :
    (dropPte s e).pending = s.pending ∧ (dropPte s e).freeCtr = s.freeCtr ∧ (dropPte s e).out = s.out ∧ (dropPte s e).sclk = s.sclk
      ∧ (dropPte s e).boot = s.boot ∧ (dropPte s e).nv = s.nv ∧ (dropPte s e).sec = s.sec ∧ (dropPte s e).regs = s.regs
      ∧ (dropPte s e).mem = s.mem ∧ (dropPte s e).ctxs = s.ctxs ∧ (dropPte s e).video = s.video ∧ (dropPte s e).fab = s.fab
      ∧ (dropPte s e).sched = s.sched ∧ (dropPte s e).power = s.power ∧ (dropPte s e).host = s.host ∧ (dropPte s e).links = s.links
      ∧ (dropPte s e).inp = s.inp ∧ (dropPte s e).ctl = s.ctl := by
  simp [dropPte]

/-- What `dropPtes` leaves as it was. -/
@[simp] theorem dropPtes_frame (s : State) (p : Pte → Bool) :
    (dropPtes s p).pending = s.pending ∧ (dropPtes s p).freeCtr = s.freeCtr ∧ (dropPtes s p).out = s.out ∧ (dropPtes s p).sclk = s.sclk
      ∧ (dropPtes s p).boot = s.boot ∧ (dropPtes s p).nv = s.nv ∧ (dropPtes s p).sec = s.sec ∧ (dropPtes s p).regs = s.regs
      ∧ (dropPtes s p).mem = s.mem ∧ (dropPtes s p).ctxs = s.ctxs ∧ (dropPtes s p).video = s.video ∧ (dropPtes s p).fab = s.fab
      ∧ (dropPtes s p).sched = s.sched ∧ (dropPtes s p).power = s.power ∧ (dropPtes s p).host = s.host ∧ (dropPtes s p).links = s.links
      ∧ (dropPtes s p).inp = s.inp ∧ (dropPtes s p).ctl = s.ctl := by
  simp [dropPtes]

/-- What `closeCtx` leaves as it was. -/
@[simp] theorem closeCtx_frame (s : State) (i : Nat) :
    (closeCtx s i).pending = s.pending ∧ (closeCtx s i).freeCtr = s.freeCtr ∧ (closeCtx s i).out = s.out ∧ (closeCtx s i).sclk = s.sclk
      ∧ (closeCtx s i).boot = s.boot ∧ (closeCtx s i).nv = s.nv ∧ (closeCtx s i).sec = s.sec ∧ (closeCtx s i).regs = s.regs
      ∧ (closeCtx s i).mem = s.mem ∧ (closeCtx s i).video = s.video ∧ (closeCtx s i).fab = s.fab ∧ (closeCtx s i).sched = s.sched
      ∧ (closeCtx s i).power = s.power ∧ (closeCtx s i).host = s.host ∧ (closeCtx s i).links = s.links ∧ (closeCtx s i).inp = s.inp
      ∧ (closeCtx s i).ctl = s.ctl := by
  simp [closeCtx]

/-- What `traceCheck` leaves as it was. -/
@[simp] theorem traceCheck_frame (s : State) :
    (traceCheck s).pending = s.pending ∧ (traceCheck s).freeCtr = s.freeCtr ∧ (traceCheck s).out = s.out ∧ (traceCheck s).sclk = s.sclk
      ∧ (traceCheck s).boot = s.boot ∧ (traceCheck s).nv = s.nv ∧ (traceCheck s).sec = s.sec ∧ (traceCheck s).mem = s.mem
      ∧ (traceCheck s).pool = s.pool ∧ (traceCheck s).ctxs = s.ctxs ∧ (traceCheck s).video = s.video ∧ (traceCheck s).fab = s.fab
      ∧ (traceCheck s).sched = s.sched ∧ (traceCheck s).power = s.power ∧ (traceCheck s).links = s.links ∧ (traceCheck s).inp = s.inp := by
  simp [traceCheck]

/-- What `endPartition` leaves as it was. -/
@[simp] theorem endPartition_frame (s : State) (p : Nat) :
    (endPartition s p).pending = s.pending ∧ (endPartition s p).freeCtr = s.freeCtr ∧ (endPartition s p).out = s.out
      ∧ (endPartition s p).sclk = s.sclk ∧ (endPartition s p).boot = s.boot ∧ (endPartition s p).nv = s.nv
      ∧ (endPartition s p).sec = s.sec ∧ (endPartition s p).sched = s.sched ∧ (endPartition s p).power = s.power
      ∧ (endPartition s p).inp = s.inp := by
  simp [endPartition]

/-- What `schPartWrite` leaves as it was. -/
@[simp] theorem schPartWrite_frame (s : State) (p new : Nat) :
    (schPartWrite s p new).pending = s.pending ∧ (schPartWrite s p new).freeCtr = s.freeCtr ∧ (schPartWrite s p new).out = s.out
      ∧ (schPartWrite s p new).sclk = s.sclk ∧ (schPartWrite s p new).boot = s.boot ∧ (schPartWrite s p new).nv = s.nv
      ∧ (schPartWrite s p new).sec = s.sec ∧ (schPartWrite s p new).sched = s.sched ∧ (schPartWrite s p new).power = s.power
      ∧ (schPartWrite s p new).inp = s.inp := by
  simp [schPartWrite]

/-- What `clearTallies` leaves as it was. -/
@[simp] theorem clearTallies_frame (s : State) (base count : Nat) :
    (clearTallies s base count).pending = s.pending ∧ (clearTallies s base count).freeCtr = s.freeCtr
      ∧ (clearTallies s base count).out = s.out ∧ (clearTallies s base count).sclk = s.sclk ∧ (clearTallies s base count).boot = s.boot
      ∧ (clearTallies s base count).nv = s.nv ∧ (clearTallies s base count).sec = s.sec ∧ (clearTallies s base count).regs = s.regs
      ∧ (clearTallies s base count).mem = s.mem ∧ (clearTallies s base count).pool = s.pool ∧ (clearTallies s base count).ctxs = s.ctxs
      ∧ (clearTallies s base count).video = s.video ∧ (clearTallies s base count).sched = s.sched
      ∧ (clearTallies s base count).power = s.power ∧ (clearTallies s base count).host = s.host
      ∧ (clearTallies s base count).links = s.links ∧ (clearTallies s base count).inp = s.inp
      ∧ (clearTallies s base count).ctl = s.ctl := by
  simp [clearTallies]

/-- What `schTallyWrite` leaves as it was. -/
@[simp] theorem schTallyWrite_frame (s : State) (p new : Nat) :
    (schTallyWrite s p new).pending = s.pending ∧ (schTallyWrite s p new).freeCtr = s.freeCtr ∧ (schTallyWrite s p new).out = s.out
      ∧ (schTallyWrite s p new).sclk = s.sclk ∧ (schTallyWrite s p new).boot = s.boot ∧ (schTallyWrite s p new).nv = s.nv
      ∧ (schTallyWrite s p new).sec = s.sec ∧ (schTallyWrite s p new).mem = s.mem ∧ (schTallyWrite s p new).pool = s.pool
      ∧ (schTallyWrite s p new).ctxs = s.ctxs ∧ (schTallyWrite s p new).video = s.video ∧ (schTallyWrite s p new).sched = s.sched
      ∧ (schTallyWrite s p new).power = s.power ∧ (schTallyWrite s p new).links = s.links ∧ (schTallyWrite s p new).inp = s.inp := by
  simp [schTallyWrite]

/-- What `quotaWrite` leaves as it was. -/
@[simp] theorem quotaWrite_frame (s : State) (p new : Nat) :
    (quotaWrite s p new).pending = s.pending ∧ (quotaWrite s p new).freeCtr = s.freeCtr ∧ (quotaWrite s p new).out = s.out
      ∧ (quotaWrite s p new).sclk = s.sclk ∧ (quotaWrite s p new).boot = s.boot ∧ (quotaWrite s p new).nv = s.nv
      ∧ (quotaWrite s p new).sec = s.sec ∧ (quotaWrite s p new).mem = s.mem ∧ (quotaWrite s p new).pool = s.pool
      ∧ (quotaWrite s p new).ctxs = s.ctxs ∧ (quotaWrite s p new).video = s.video ∧ (quotaWrite s p new).fab = s.fab
      ∧ (quotaWrite s p new).sched = s.sched ∧ (quotaWrite s p new).power = s.power ∧ (quotaWrite s p new).host = s.host
      ∧ (quotaWrite s p new).links = s.links ∧ (quotaWrite s p new).inp = s.inp ∧ (quotaWrite s p new).ctl = s.ctl := by
  simp [quotaWrite]

/-- What `setHalts` leaves as it was. -/
@[simp] theorem setHalts_frame (s : State) (m : Nat) :
    (setHalts s m).pending = s.pending ∧ (setHalts s m).freeCtr = s.freeCtr ∧ (setHalts s m).sclk = s.sclk ∧ (setHalts s m).boot = s.boot
      ∧ (setHalts s m).nv = s.nv ∧ (setHalts s m).sec = s.sec ∧ (setHalts s m).pool = s.pool ∧ (setHalts s m).ctxs = s.ctxs
      ∧ (setHalts s m).video = s.video ∧ (setHalts s m).inp = s.inp := by
  simp [setHalts]

/-- What `dbgCtrlWrite` leaves as it was. -/
@[simp] theorem dbgCtrlWrite_frame (s : State) (old new : Nat) :
    (dbgCtrlWrite s old new).pending = s.pending ∧ (dbgCtrlWrite s old new).freeCtr = s.freeCtr ∧ (dbgCtrlWrite s old new).sclk = s.sclk
      ∧ (dbgCtrlWrite s old new).boot = s.boot ∧ (dbgCtrlWrite s old new).nv = s.nv ∧ (dbgCtrlWrite s old new).sec = s.sec
      ∧ (dbgCtrlWrite s old new).pool = s.pool ∧ (dbgCtrlWrite s old new).ctxs = s.ctxs ∧ (dbgCtrlWrite s old new).video = s.video
      ∧ (dbgCtrlWrite s old new).inp = s.inp := by
  simp [dbgCtrlWrite]

/-- What `rankJobs` leaves as it was. -/
@[simp] theorem rankJobs_frame (s : State) :
    (rankJobs s).pending = s.pending ∧ (rankJobs s).freeCtr = s.freeCtr ∧ (rankJobs s).out = s.out ∧ (rankJobs s).sclk = s.sclk
      ∧ (rankJobs s).boot = s.boot ∧ (rankJobs s).nv = s.nv ∧ (rankJobs s).sec = s.sec ∧ (rankJobs s).regs = s.regs
      ∧ (rankJobs s).mem = s.mem ∧ (rankJobs s).pool = s.pool ∧ (rankJobs s).ctxs = s.ctxs ∧ (rankJobs s).video = s.video
      ∧ (rankJobs s).fab = s.fab ∧ (rankJobs s).sched = s.sched ∧ (rankJobs s).power = s.power ∧ (rankJobs s).host = s.host
      ∧ (rankJobs s).links = s.links ∧ (rankJobs s).ctl = s.ctl := by
  simp [rankJobs]

/-- What `setTally` leaves as it was. -/
@[simp] theorem setTally_frame (s : State) (t : Nat) (v : W32) :
    (setTally s t v).pending = s.pending ∧ (setTally s t v).freeCtr = s.freeCtr ∧ (setTally s t v).out = s.out
      ∧ (setTally s t v).sclk = s.sclk ∧ (setTally s t v).boot = s.boot ∧ (setTally s t v).nv = s.nv ∧ (setTally s t v).sec = s.sec
      ∧ (setTally s t v).regs = s.regs ∧ (setTally s t v).mem = s.mem ∧ (setTally s t v).pool = s.pool ∧ (setTally s t v).ctxs = s.ctxs
      ∧ (setTally s t v).video = s.video ∧ (setTally s t v).sched = s.sched ∧ (setTally s t v).power = s.power
      ∧ (setTally s t v).host = s.host ∧ (setTally s t v).links = s.links ∧ (setTally s t v).ctl = s.ctl := by
  simp [setTally]

/-- What `addTally` leaves as it was. -/
@[simp] theorem addTally_frame (s : State) (t : Nat) (v : W32) :
    (addTally s t v).pending = s.pending ∧ (addTally s t v).freeCtr = s.freeCtr ∧ (addTally s t v).out = s.out
      ∧ (addTally s t v).sclk = s.sclk ∧ (addTally s t v).boot = s.boot ∧ (addTally s t v).nv = s.nv ∧ (addTally s t v).sec = s.sec
      ∧ (addTally s t v).regs = s.regs ∧ (addTally s t v).mem = s.mem ∧ (addTally s t v).pool = s.pool ∧ (addTally s t v).ctxs = s.ctxs
      ∧ (addTally s t v).video = s.video ∧ (addTally s t v).sched = s.sched ∧ (addTally s t v).power = s.power
      ∧ (addTally s t v).host = s.host ∧ (addTally s t v).links = s.links ∧ (addTally s t v).ctl = s.ctl := by
  simp [addTally]

/-- What `raiseLead` leaves as it was. -/
@[simp] theorem raiseLead_frame (s : State) (p n : Nat) :
    (raiseLead s p n).pending = s.pending ∧ (raiseLead s p n).freeCtr = s.freeCtr ∧ (raiseLead s p n).out = s.out
      ∧ (raiseLead s p n).sclk = s.sclk ∧ (raiseLead s p n).boot = s.boot ∧ (raiseLead s p n).nv = s.nv ∧ (raiseLead s p n).sec = s.sec
      ∧ (raiseLead s p n).mem = s.mem ∧ (raiseLead s p n).pool = s.pool ∧ (raiseLead s p n).ctxs = s.ctxs
      ∧ (raiseLead s p n).video = s.video ∧ (raiseLead s p n).fab = s.fab ∧ (raiseLead s p n).sched = s.sched
      ∧ (raiseLead s p n).power = s.power ∧ (raiseLead s p n).links = s.links ∧ (raiseLead s p n).inp = s.inp := by
  unfold raiseLead; (repeat' split) <;> simp

/-- What `setSftStat` leaves as it was. -/
@[simp] theorem setSftStat_frame (s : State) (p check seg : Nat) :
    (setSftStat s p check seg).pending = s.pending ∧ (setSftStat s p check seg).freeCtr = s.freeCtr
      ∧ (setSftStat s p check seg).out = s.out ∧ (setSftStat s p check seg).sclk = s.sclk ∧ (setSftStat s p check seg).boot = s.boot
      ∧ (setSftStat s p check seg).nv = s.nv ∧ (setSftStat s p check seg).sec = s.sec ∧ (setSftStat s p check seg).mem = s.mem
      ∧ (setSftStat s p check seg).pool = s.pool ∧ (setSftStat s p check seg).ctxs = s.ctxs ∧ (setSftStat s p check seg).video = s.video
      ∧ (setSftStat s p check seg).fab = s.fab ∧ (setSftStat s p check seg).sched = s.sched ∧ (setSftStat s p check seg).power = s.power
      ∧ (setSftStat s p check seg).host = s.host ∧ (setSftStat s p check seg).links = s.links ∧ (setSftStat s p check seg).inp = s.inp
      ∧ (setSftStat s p check seg).ctl = s.ctl := by
  simp [setSftStat]

/-- What `modUser` leaves as it was. -/
@[simp] theorem modUser_frame (s : State) (p : Nat) (f : UserTab → UserTab) :
    (modUser s p f).pending = s.pending ∧ (modUser s p f).freeCtr = s.freeCtr ∧ (modUser s p f).out = s.out
      ∧ (modUser s p f).sclk = s.sclk ∧ (modUser s p f).boot = s.boot ∧ (modUser s p f).nv = s.nv ∧ (modUser s p f).sec = s.sec
      ∧ (modUser s p f).regs = s.regs ∧ (modUser s p f).mem = s.mem ∧ (modUser s p f).pool = s.pool ∧ (modUser s p f).ctxs = s.ctxs
      ∧ (modUser s p f).video = s.video ∧ (modUser s p f).sched = s.sched ∧ (modUser s p f).power = s.power
      ∧ (modUser s p f).host = s.host ∧ (modUser s p f).links = s.links ∧ (modUser s p f).inp = s.inp ∧ (modUser s p f).ctl = s.ctl := by
  simp [modUser]

/-- What `armUser` leaves as it was. -/
@[simp] theorem armUser_frame (s : State) (p : Nat) :
    (armUser s p).pending = s.pending ∧ (armUser s p).out = s.out ∧ (armUser s p).sclk = s.sclk ∧ (armUser s p).boot = s.boot
      ∧ (armUser s p).nv = s.nv ∧ (armUser s p).sec = s.sec ∧ (armUser s p).mem = s.mem ∧ (armUser s p).pool = s.pool
      ∧ (armUser s p).ctxs = s.ctxs ∧ (armUser s p).video = s.video ∧ (armUser s p).sched = s.sched ∧ (armUser s p).power = s.power
      ∧ (armUser s p).links = s.links ∧ (armUser s p).inp = s.inp := by
  simp [armUser]

/-- What `sftArm` leaves as it was. -/
@[simp] theorem sftArm_frame (s : State) (r v : Nat) :
    (sftArm s r v).pending = s.pending ∧ (sftArm s r v).out = s.out ∧ (sftArm s r v).sclk = s.sclk ∧ (sftArm s r v).boot = s.boot
      ∧ (sftArm s r v).nv = s.nv ∧ (sftArm s r v).sec = s.sec ∧ (sftArm s r v).mem = s.mem ∧ (sftArm s r v).pool = s.pool
      ∧ (sftArm s r v).ctxs = s.ctxs ∧ (sftArm s r v).video = s.video ∧ (sftArm s r v).sched = s.sched ∧ (sftArm s r v).power = s.power
      ∧ (sftArm s r v).links = s.links ∧ (sftArm s r v).inp = s.inp := by
  unfold sftArm; (repeat' split) <;> simp

/-- What `newJob` leaves as it was. -/
@[simp] theorem newJob_frame (s : State) (p : Nat) (hauls : List Nat) :
    (newJob s p hauls).pending = s.pending ∧ (newJob s p hauls).freeCtr = s.freeCtr ∧ (newJob s p hauls).out = s.out
      ∧ (newJob s p hauls).sclk = s.sclk ∧ (newJob s p hauls).boot = s.boot ∧ (newJob s p hauls).nv = s.nv
      ∧ (newJob s p hauls).sec = s.sec ∧ (newJob s p hauls).regs = s.regs ∧ (newJob s p hauls).mem = s.mem
      ∧ (newJob s p hauls).pool = s.pool ∧ (newJob s p hauls).ctxs = s.ctxs ∧ (newJob s p hauls).video = s.video
      ∧ (newJob s p hauls).fab = s.fab ∧ (newJob s p hauls).sched = s.sched ∧ (newJob s p hauls).power = s.power
      ∧ (newJob s p hauls).host = s.host ∧ (newJob s p hauls).inp = s.inp ∧ (newJob s p hauls).ctl = s.ctl := by
  simp [newJob]

/-- What `sliceWrite` leaves as it was. -/
@[simp] theorem sliceWrite_frame (s : State) (p v : Nat) :
    (sliceWrite s p v).pending = s.pending ∧ (sliceWrite s p v).freeCtr = s.freeCtr ∧ (sliceWrite s p v).out = s.out
      ∧ (sliceWrite s p v).sclk = s.sclk ∧ (sliceWrite s p v).boot = s.boot ∧ (sliceWrite s p v).nv = s.nv
      ∧ (sliceWrite s p v).sec = s.sec ∧ (sliceWrite s p v).mem = s.mem ∧ (sliceWrite s p v).pool = s.pool
      ∧ (sliceWrite s p v).ctxs = s.ctxs ∧ (sliceWrite s p v).video = s.video ∧ (sliceWrite s p v).fab = s.fab
      ∧ (sliceWrite s p v).sched = s.sched ∧ (sliceWrite s p v).power = s.power ∧ (sliceWrite s p v).inp = s.inp := by
  simp [sliceWrite]

/-- What `secEnd` leaves as it was. -/
@[simp] theorem secEnd_frame (s : State) (op result : Nat) :
    (secEnd s op result).pending = s.pending ∧ (secEnd s op result).freeCtr = s.freeCtr ∧ (secEnd s op result).out = s.out
      ∧ (secEnd s op result).sclk = s.sclk ∧ (secEnd s op result).boot = s.boot ∧ (secEnd s op result).nv = s.nv
      ∧ (secEnd s op result).sec = s.sec ∧ (secEnd s op result).mem = s.mem ∧ (secEnd s op result).pool = s.pool
      ∧ (secEnd s op result).ctxs = s.ctxs ∧ (secEnd s op result).video = s.video ∧ (secEnd s op result).fab = s.fab
      ∧ (secEnd s op result).sched = s.sched ∧ (secEnd s op result).power = s.power ∧ (secEnd s op result).links = s.links
      ∧ (secEnd s op result).inp = s.inp := by
  simp [secEnd]

/-- What `secCmd` leaves as it was. -/
@[simp] theorem secCmd_frame (s : State) (i v : Nat) :
    (secCmd s i v).pending = s.pending ∧ (secCmd s i v).out = s.out ∧ (secCmd s i v).sclk = s.sclk ∧ (secCmd s i v).boot = s.boot
      ∧ (secCmd s i v).nv = s.nv ∧ (secCmd s i v).sec = s.sec ∧ (secCmd s i v).mem = s.mem ∧ (secCmd s i v).pool = s.pool
      ∧ (secCmd s i v).ctxs = s.ctxs ∧ (secCmd s i v).video = s.video ∧ (secCmd s i v).fab = s.fab ∧ (secCmd s i v).sched = s.sched
      ∧ (secCmd s i v).power = s.power ∧ (secCmd s i v).links = s.links ∧ (secCmd s i v).inp = s.inp := by
  simp [secCmd]

/-- What `setPortState` leaves as it was. -/
@[simp] theorem setPortState_frame (s : State) (port st : Nat) :
    (setPortState s port st).pending = s.pending ∧ (setPortState s port st).freeCtr = s.freeCtr ∧ (setPortState s port st).out = s.out
      ∧ (setPortState s port st).sclk = s.sclk ∧ (setPortState s port st).boot = s.boot ∧ (setPortState s port st).nv = s.nv
      ∧ (setPortState s port st).sec = s.sec ∧ (setPortState s port st).mem = s.mem ∧ (setPortState s port st).pool = s.pool
      ∧ (setPortState s port st).ctxs = s.ctxs ∧ (setPortState s port st).video = s.video ∧ (setPortState s port st).fab = s.fab
      ∧ (setPortState s port st).sched = s.sched ∧ (setPortState s port st).power = s.power ∧ (setPortState s port st).host = s.host
      ∧ (setPortState s port st).links = s.links ∧ (setPortState s port st).inp = s.inp ∧ (setPortState s port st).ctl = s.ctl := by
  simp [setPortState]

/-- What `linkRetrain` leaves as it was. -/
@[simp] theorem linkRetrain_frame (s : State) (port : Nat) :
    (linkRetrain s port).pending = s.pending ∧ (linkRetrain s port).freeCtr = s.freeCtr ∧ (linkRetrain s port).out = s.out
      ∧ (linkRetrain s port).sclk = s.sclk ∧ (linkRetrain s port).boot = s.boot ∧ (linkRetrain s port).nv = s.nv
      ∧ (linkRetrain s port).sec = s.sec ∧ (linkRetrain s port).mem = s.mem ∧ (linkRetrain s port).pool = s.pool
      ∧ (linkRetrain s port).ctxs = s.ctxs ∧ (linkRetrain s port).video = s.video ∧ (linkRetrain s port).fab = s.fab
      ∧ (linkRetrain s port).sched = s.sched ∧ (linkRetrain s port).power = s.power ∧ (linkRetrain s port).links = s.links
      ∧ (linkRetrain s port).inp = s.inp := by
  simp [linkRetrain]

/-- What `modPort` leaves as it was. -/
@[simp] theorem modPort_frame (s : State) (port : Nat) (f : Port → Port) :
    (modPort s port f).pending = s.pending ∧ (modPort s port f).freeCtr = s.freeCtr ∧ (modPort s port f).out = s.out
      ∧ (modPort s port f).sclk = s.sclk ∧ (modPort s port f).boot = s.boot ∧ (modPort s port f).nv = s.nv
      ∧ (modPort s port f).sec = s.sec ∧ (modPort s port f).regs = s.regs ∧ (modPort s port f).mem = s.mem
      ∧ (modPort s port f).pool = s.pool ∧ (modPort s port f).ctxs = s.ctxs ∧ (modPort s port f).video = s.video
      ∧ (modPort s port f).fab = s.fab ∧ (modPort s port f).sched = s.sched ∧ (modPort s port f).power = s.power
      ∧ (modPort s port f).host = s.host ∧ (modPort s port f).inp = s.inp ∧ (modPort s port f).ctl = s.ctl := by
  simp [modPort]

/-- What `putOut` leaves as it was. -/
@[simp] theorem putOut_frame (s : State) (port bytes : Nat) (item : Out) :
    (putOut s port bytes item).pending = s.pending ∧ (putOut s port bytes item).freeCtr = s.freeCtr
      ∧ (putOut s port bytes item).sclk = s.sclk ∧ (putOut s port bytes item).boot = s.boot ∧ (putOut s port bytes item).nv = s.nv
      ∧ (putOut s port bytes item).sec = s.sec ∧ (putOut s port bytes item).mem = s.mem ∧ (putOut s port bytes item).pool = s.pool
      ∧ (putOut s port bytes item).ctxs = s.ctxs ∧ (putOut s port bytes item).video = s.video ∧ (putOut s port bytes item).fab = s.fab
      ∧ (putOut s port bytes item).sched = s.sched ∧ (putOut s port bytes item).power = s.power
      ∧ (putOut s port bytes item).host = s.host ∧ (putOut s port bytes item).links = s.links ∧ (putOut s port bytes item).inp = s.inp
      ∧ (putOut s port bytes item).ctl = s.ctl := by
  simp [putOut]

/-- What `drainFlits` leaves as it was. -/
@[simp] theorem drainFlits_frame (port n : Nat) (s : State) :
    (drainFlits port n s).pending = s.pending ∧ (drainFlits port n s).freeCtr = s.freeCtr ∧ (drainFlits port n s).sclk = s.sclk
      ∧ (drainFlits port n s).boot = s.boot ∧ (drainFlits port n s).nv = s.nv ∧ (drainFlits port n s).sec = s.sec
      ∧ (drainFlits port n s).mem = s.mem ∧ (drainFlits port n s).pool = s.pool ∧ (drainFlits port n s).ctxs = s.ctxs
      ∧ (drainFlits port n s).video = s.video ∧ (drainFlits port n s).fab = s.fab ∧ (drainFlits port n s).sched = s.sched
      ∧ (drainFlits port n s).power = s.power ∧ (drainFlits port n s).host = s.host ∧ (drainFlits port n s).inp = s.inp
      ∧ (drainFlits port n s).ctl = s.ctl := by
  induction n generalizing s with
  | zero => simp [drainFlits]
  | succ n ih =>
    simp only [drainFlits]
    split
    · simp
    · split <;> simp [ih]

/-- What `drainPort` leaves as it was. -/
@[simp] theorem drainPort_frame (s : State) (port : Nat) :
    (drainPort s port).pending = s.pending ∧ (drainPort s port).freeCtr = s.freeCtr ∧ (drainPort s port).sclk = s.sclk
      ∧ (drainPort s port).boot = s.boot ∧ (drainPort s port).nv = s.nv ∧ (drainPort s port).sec = s.sec ∧ (drainPort s port).mem = s.mem
      ∧ (drainPort s port).pool = s.pool ∧ (drainPort s port).ctxs = s.ctxs ∧ (drainPort s port).video = s.video
      ∧ (drainPort s port).fab = s.fab ∧ (drainPort s port).sched = s.sched ∧ (drainPort s port).power = s.power
      ∧ (drainPort s port).host = s.host ∧ (drainPort s port).inp = s.inp ∧ (drainPort s port).ctl = s.ctl := by
  simp [drainPort]

/-- What `judgePort` leaves as it was. -/
@[simp] theorem judgePort_frame (s : State) (port : Nat) :
    (judgePort s port).pending = s.pending ∧ (judgePort s port).freeCtr = s.freeCtr ∧ (judgePort s port).sclk = s.sclk
      ∧ (judgePort s port).boot = s.boot ∧ (judgePort s port).nv = s.nv ∧ (judgePort s port).sec = s.sec ∧ (judgePort s port).mem = s.mem
      ∧ (judgePort s port).pool = s.pool ∧ (judgePort s port).ctxs = s.ctxs ∧ (judgePort s port).video = s.video
      ∧ (judgePort s port).fab = s.fab ∧ (judgePort s port).sched = s.sched ∧ (judgePort s port).power = s.power
      ∧ (judgePort s port).inp = s.inp := by
  simp [judgePort]

/-- What `coordWrite` leaves as it was. -/
@[simp] theorem coordWrite_frame (s : State) (plane : Bool) (v : Nat) :
    (coordWrite s plane v).pending = s.pending ∧ (coordWrite s plane v).freeCtr = s.freeCtr ∧ (coordWrite s plane v).sclk = s.sclk
      ∧ (coordWrite s plane v).boot = s.boot ∧ (coordWrite s plane v).nv = s.nv ∧ (coordWrite s plane v).sec = s.sec
      ∧ (coordWrite s plane v).mem = s.mem ∧ (coordWrite s plane v).pool = s.pool ∧ (coordWrite s plane v).ctxs = s.ctxs
      ∧ (coordWrite s plane v).video = s.video ∧ (coordWrite s plane v).fab = s.fab ∧ (coordWrite s plane v).sched = s.sched
      ∧ (coordWrite s plane v).power = s.power ∧ (coordWrite s plane v).inp = s.inp := by
  simp [coordWrite]

/-- What `setCalStat` leaves as it was. -/
@[simp] theorem setCalStat_frame (s : State) (busy : Bool) (result : Nat) :
    (setCalStat s busy result).pending = s.pending ∧ (setCalStat s busy result).freeCtr = s.freeCtr
      ∧ (setCalStat s busy result).out = s.out ∧ (setCalStat s busy result).sclk = s.sclk ∧ (setCalStat s busy result).boot = s.boot
      ∧ (setCalStat s busy result).nv = s.nv ∧ (setCalStat s busy result).sec = s.sec ∧ (setCalStat s busy result).mem = s.mem
      ∧ (setCalStat s busy result).pool = s.pool ∧ (setCalStat s busy result).ctxs = s.ctxs ∧ (setCalStat s busy result).video = s.video
      ∧ (setCalStat s busy result).fab = s.fab ∧ (setCalStat s busy result).sched = s.sched ∧ (setCalStat s busy result).power = s.power
      ∧ (setCalStat s busy result).host = s.host ∧ (setCalStat s busy result).links = s.links ∧ (setCalStat s busy result).inp = s.inp
      ∧ (setCalStat s busy result).ctl = s.ctl := by
  simp [setCalStat]

/-- What `pump` leaves as it was. -/
@[simp] theorem pump_frame (s : State) (i : Nat) :
    (pump s i).pending = s.pending ∧ (pump s i).freeCtr = s.freeCtr ∧ (pump s i).sclk = s.sclk ∧ (pump s i).boot = s.boot
      ∧ (pump s i).nv = s.nv ∧ (pump s i).sec = s.sec ∧ (pump s i).mem = s.mem ∧ (pump s i).pool = s.pool ∧ (pump s i).ctxs = s.ctxs
      ∧ (pump s i).video = s.video ∧ (pump s i).fab = s.fab ∧ (pump s i).sched = s.sched ∧ (pump s i).power = s.power
      ∧ (pump s i).links = s.links ∧ (pump s i).inp = s.inp ∧ (pump s i).ctl = s.ctl := by
  simp [pump]

/-- What `pumpAll` leaves as it was. -/
@[simp] theorem pumpAll_frame (s : State) :
    (pumpAll s).pending = s.pending ∧ (pumpAll s).freeCtr = s.freeCtr ∧ (pumpAll s).sclk = s.sclk ∧ (pumpAll s).boot = s.boot
      ∧ (pumpAll s).nv = s.nv ∧ (pumpAll s).sec = s.sec ∧ (pumpAll s).mem = s.mem ∧ (pumpAll s).pool = s.pool ∧ (pumpAll s).ctxs = s.ctxs
      ∧ (pumpAll s).video = s.video ∧ (pumpAll s).fab = s.fab ∧ (pumpAll s).sched = s.sched ∧ (pumpAll s).power = s.power
      ∧ (pumpAll s).links = s.links ∧ (pumpAll s).inp = s.inp ∧ (pumpAll s).ctl = s.ctl := by
  simp [pumpAll]

/-- What `setPort` leaves as it was. -/
@[simp] theorem setPort_frame (s : State) (st lanes : Nat) :
    (setPort s st lanes).pending = s.pending ∧ (setPort s st lanes).freeCtr = s.freeCtr ∧ (setPort s st lanes).sclk = s.sclk
      ∧ (setPort s st lanes).nv = s.nv ∧ (setPort s st lanes).sec = s.sec ∧ (setPort s st lanes).mem = s.mem
      ∧ (setPort s st lanes).pool = s.pool ∧ (setPort s st lanes).ctxs = s.ctxs ∧ (setPort s st lanes).video = s.video
      ∧ (setPort s st lanes).fab = s.fab ∧ (setPort s st lanes).sched = s.sched ∧ (setPort s st lanes).power = s.power
      ∧ (setPort s st lanes).links = s.links ∧ (setPort s st lanes).inp = s.inp := by
  simp [setPort]

/-- What `modStack` leaves as it was. -/
@[simp] theorem modStack_frame (s : State) (d : Nat) (f : Stack → Stack) :
    (modStack s d f).pending = s.pending ∧ (modStack s d f).freeCtr = s.freeCtr ∧ (modStack s d f).out = s.out
      ∧ (modStack s d f).sclk = s.sclk ∧ (modStack s d f).boot = s.boot ∧ (modStack s d f).nv = s.nv ∧ (modStack s d f).sec = s.sec
      ∧ (modStack s d f).regs = s.regs ∧ (modStack s d f).mem = s.mem ∧ (modStack s d f).ctxs = s.ctxs ∧ (modStack s d f).video = s.video
      ∧ (modStack s d f).fab = s.fab ∧ (modStack s d f).sched = s.sched ∧ (modStack s d f).power = s.power
      ∧ (modStack s d f).host = s.host ∧ (modStack s d f).links = s.links ∧ (modStack s d f).inp = s.inp
      ∧ (modStack s d f).ctl = s.ctl := by
  simp [modStack]

/-- What `retrainPort` leaves as it was. -/
@[simp] theorem retrainPort_frame (s : State) (port : Nat) :
    (retrainPort s port).pending = s.pending ∧ (retrainPort s port).freeCtr = s.freeCtr ∧ (retrainPort s port).out = s.out
      ∧ (retrainPort s port).sclk = s.sclk ∧ (retrainPort s port).boot = s.boot ∧ (retrainPort s port).nv = s.nv
      ∧ (retrainPort s port).sec = s.sec ∧ (retrainPort s port).mem = s.mem ∧ (retrainPort s port).pool = s.pool
      ∧ (retrainPort s port).ctxs = s.ctxs ∧ (retrainPort s port).video = s.video ∧ (retrainPort s port).fab = s.fab
      ∧ (retrainPort s port).sched = s.sched ∧ (retrainPort s port).power = s.power ∧ (retrainPort s port).links = s.links
      ∧ (retrainPort s port).inp = s.inp := by
  simp [retrainPort]

/-- What `beginSelfCal` leaves as it was. -/
@[simp] theorem beginSelfCal_frame (s : State) :
    (beginSelfCal s).pending = s.pending ∧ (beginSelfCal s).freeCtr = s.freeCtr ∧ (beginSelfCal s).sclk = s.sclk
      ∧ (beginSelfCal s).nv = s.nv ∧ (beginSelfCal s).sec = s.sec ∧ (beginSelfCal s).mem = s.mem ∧ (beginSelfCal s).ctxs = s.ctxs
      ∧ (beginSelfCal s).video = s.video ∧ (beginSelfCal s).fab = s.fab ∧ (beginSelfCal s).sched = s.sched
      ∧ (beginSelfCal s).power = s.power ∧ (beginSelfCal s).links = s.links ∧ (beginSelfCal s).inp = s.inp := by
  simp [beginSelfCal]

/-- What `calFail` leaves as it was. -/
@[simp] theorem calFail_frame (s : State) (result : Nat) :
    (calFail s result).pending = s.pending ∧ (calFail s result).freeCtr = s.freeCtr ∧ (calFail s result).out = s.out
      ∧ (calFail s result).sclk = s.sclk ∧ (calFail s result).boot = s.boot ∧ (calFail s result).nv = s.nv
      ∧ (calFail s result).sec = s.sec ∧ (calFail s result).mem = s.mem ∧ (calFail s result).pool = s.pool
      ∧ (calFail s result).ctxs = s.ctxs ∧ (calFail s result).video = s.video ∧ (calFail s result).fab = s.fab
      ∧ (calFail s result).sched = s.sched ∧ (calFail s result).power = s.power ∧ (calFail s result).links = s.links
      ∧ (calFail s result).inp = s.inp := by
  simp [calFail]

/-- What `calCmd` leaves as it was. -/
@[simp] theorem calCmd_frame (s : State) (i v : Nat) :
    (calCmd s i v).pending = s.pending ∧ (calCmd s i v).freeCtr = s.freeCtr ∧ (calCmd s i v).sclk = s.sclk ∧ (calCmd s i v).nv = s.nv
      ∧ (calCmd s i v).sec = s.sec ∧ (calCmd s i v).mem = s.mem ∧ (calCmd s i v).ctxs = s.ctxs ∧ (calCmd s i v).video = s.video
      ∧ (calCmd s i v).fab = s.fab ∧ (calCmd s i v).sched = s.sched ∧ (calCmd s i v).power = s.power ∧ (calCmd s i v).links = s.links
      ∧ (calCmd s i v).inp = s.inp := by
  simp [calCmd]

/-- What `reSecure` leaves as it was. -/
@[simp] theorem reSecure_frame (s : State) :
    (reSecure s).pending = s.pending ∧ (reSecure s).freeCtr = s.freeCtr ∧ (reSecure s).sclk = s.sclk ∧ (reSecure s).nv = s.nv
      ∧ (reSecure s).sec = s.sec ∧ (reSecure s).mem = s.mem ∧ (reSecure s).pool = s.pool ∧ (reSecure s).ctxs = s.ctxs
      ∧ (reSecure s).video = s.video ∧ (reSecure s).fab = s.fab ∧ (reSecure s).sched = s.sched ∧ (reSecure s).power = s.power
      ∧ (reSecure s).links = s.links ∧ (reSecure s).inp = s.inp := by
  simp [reSecure]

/-- What `setRstStat` leaves as it was. -/
@[simp] theorem setRstStat_frame (s : State) (busy : Bool) (op result : Nat) :
    (setRstStat s busy op result).pending = s.pending ∧ (setRstStat s busy op result).freeCtr = s.freeCtr
      ∧ (setRstStat s busy op result).out = s.out ∧ (setRstStat s busy op result).sclk = s.sclk
      ∧ (setRstStat s busy op result).boot = s.boot ∧ (setRstStat s busy op result).nv = s.nv ∧ (setRstStat s busy op result).sec = s.sec
      ∧ (setRstStat s busy op result).mem = s.mem ∧ (setRstStat s busy op result).pool = s.pool
      ∧ (setRstStat s busy op result).ctxs = s.ctxs ∧ (setRstStat s busy op result).video = s.video
      ∧ (setRstStat s busy op result).fab = s.fab ∧ (setRstStat s busy op result).sched = s.sched
      ∧ (setRstStat s busy op result).power = s.power ∧ (setRstStat s busy op result).host = s.host
      ∧ (setRstStat s busy op result).links = s.links ∧ (setRstStat s busy op result).inp = s.inp
      ∧ (setRstStat s busy op result).ctl = s.ctl := by
  simp [setRstStat]

/-- What `refuseReset` leaves as it was. -/
@[simp] theorem refuseReset_frame (s : State) (op result : Nat) :
    (refuseReset s op result).pending = s.pending ∧ (refuseReset s op result).freeCtr = s.freeCtr ∧ (refuseReset s op result).out = s.out
      ∧ (refuseReset s op result).sclk = s.sclk ∧ (refuseReset s op result).boot = s.boot ∧ (refuseReset s op result).nv = s.nv
      ∧ (refuseReset s op result).sec = s.sec ∧ (refuseReset s op result).mem = s.mem ∧ (refuseReset s op result).pool = s.pool
      ∧ (refuseReset s op result).ctxs = s.ctxs ∧ (refuseReset s op result).video = s.video ∧ (refuseReset s op result).fab = s.fab
      ∧ (refuseReset s op result).sched = s.sched ∧ (refuseReset s op result).power = s.power ∧ (refuseReset s op result).host = s.host
      ∧ (refuseReset s op result).links = s.links ∧ (refuseReset s op result).inp = s.inp ∧ (refuseReset s op result).ctl = s.ctl := by
  simp [refuseReset]

/-- What `swapDone` leaves as it was. -/
@[simp] theorem swapDone_frame (s : State) (p : Nat) :
    (swapDone s p).pending = s.pending ∧ (swapDone s p).freeCtr = s.freeCtr ∧ (swapDone s p).out = s.out ∧ (swapDone s p).sclk = s.sclk
      ∧ (swapDone s p).boot = s.boot ∧ (swapDone s p).nv = s.nv ∧ (swapDone s p).sec = s.sec ∧ (swapDone s p).mem = s.mem
      ∧ (swapDone s p).pool = s.pool ∧ (swapDone s p).ctxs = s.ctxs ∧ (swapDone s p).video = s.video ∧ (swapDone s p).sched = s.sched
      ∧ (swapDone s p).power = s.power ∧ (swapDone s p).links = s.links ∧ (swapDone s p).inp = s.inp := by
  simp [swapDone]

/-- What `haltsReached` leaves as it was. -/
@[simp] theorem haltsReached_frame (s : State) :
    (haltsReached s).pending = s.pending ∧ (haltsReached s).freeCtr = s.freeCtr ∧ (haltsReached s).sclk = s.sclk
      ∧ (haltsReached s).boot = s.boot ∧ (haltsReached s).nv = s.nv ∧ (haltsReached s).sec = s.sec ∧ (haltsReached s).mem = s.mem
      ∧ (haltsReached s).pool = s.pool ∧ (haltsReached s).ctxs = s.ctxs ∧ (haltsReached s).video = s.video
      ∧ (haltsReached s).sched = s.sched ∧ (haltsReached s).power = s.power ∧ (haltsReached s).inp = s.inp := by
  simp [haltsReached]

/-- What `drainTrace` leaves as it was. -/
@[simp] theorem drainTrace_frame (s : State) :
    (drainTrace s).pending = s.pending ∧ (drainTrace s).freeCtr = s.freeCtr ∧ (drainTrace s).out = s.out ∧ (drainTrace s).sclk = s.sclk
      ∧ (drainTrace s).boot = s.boot ∧ (drainTrace s).nv = s.nv ∧ (drainTrace s).sec = s.sec ∧ (drainTrace s).pool = s.pool
      ∧ (drainTrace s).ctxs = s.ctxs ∧ (drainTrace s).video = s.video ∧ (drainTrace s).fab = s.fab ∧ (drainTrace s).sched = s.sched
      ∧ (drainTrace s).power = s.power ∧ (drainTrace s).links = s.links ∧ (drainTrace s).inp = s.inp := by
  unfold drainTrace; (repeat' split) <;> simp

/-- What `noteHaul` leaves as it was. -/
@[simp] theorem noteHaul_frame (s : State) (p : Nat) (m : Mop) (grad : Bool) :
    (noteHaul s p m grad).pending = s.pending ∧ (noteHaul s p m grad).freeCtr = s.freeCtr ∧ (noteHaul s p m grad).out = s.out
      ∧ (noteHaul s p m grad).sclk = s.sclk ∧ (noteHaul s p m grad).boot = s.boot ∧ (noteHaul s p m grad).nv = s.nv
      ∧ (noteHaul s p m grad).sec = s.sec ∧ (noteHaul s p m grad).mem = s.mem ∧ (noteHaul s p m grad).pool = s.pool
      ∧ (noteHaul s p m grad).ctxs = s.ctxs ∧ (noteHaul s p m grad).video = s.video ∧ (noteHaul s p m grad).fab = s.fab
      ∧ (noteHaul s p m grad).sched = s.sched ∧ (noteHaul s p m grad).power = s.power ∧ (noteHaul s p m grad).host = s.host
      ∧ (noteHaul s p m grad).links = s.links ∧ (noteHaul s p m grad).inp = s.inp ∧ (noteHaul s p m grad).ctl = s.ctl := by
  simp [noteHaul]

/-- What `openBatches` leaves as it was. -/
@[simp] theorem openBatches_frame (s : State) (r : Request) (ms : List Mop) :
    (openBatches s r ms).pending = s.pending ∧ (openBatches s r ms).freeCtr = s.freeCtr ∧ (openBatches s r ms).out = s.out
      ∧ (openBatches s r ms).sclk = s.sclk ∧ (openBatches s r ms).boot = s.boot ∧ (openBatches s r ms).nv = s.nv
      ∧ (openBatches s r ms).sec = s.sec ∧ (openBatches s r ms).regs = s.regs ∧ (openBatches s r ms).mem = s.mem
      ∧ (openBatches s r ms).pool = s.pool ∧ (openBatches s r ms).ctxs = s.ctxs ∧ (openBatches s r ms).video = s.video
      ∧ (openBatches s r ms).fab = s.fab ∧ (openBatches s r ms).sched = s.sched ∧ (openBatches s r ms).power = s.power
      ∧ (openBatches s r ms).host = s.host ∧ (openBatches s r ms).links = s.links ∧ (openBatches s r ms).ctl = s.ctl := by
  simp [openBatches]

/-- What `takeEffect` leaves as it was. -/
@[simp] theorem takeEffect_frame (s : State) :
    (takeEffect s).pending = s.pending ∧ (takeEffect s).freeCtr = s.freeCtr ∧ (takeEffect s).out = s.out ∧ (takeEffect s).sclk = s.sclk
      ∧ (takeEffect s).boot = s.boot ∧ (takeEffect s).nv = s.nv ∧ (takeEffect s).sec = s.sec ∧ (takeEffect s).regs = s.regs
      ∧ (takeEffect s).mem = s.mem ∧ (takeEffect s).pool = s.pool ∧ (takeEffect s).ctxs = s.ctxs ∧ (takeEffect s).video = s.video
      ∧ (takeEffect s).fab = s.fab ∧ (takeEffect s).power = s.power ∧ (takeEffect s).host = s.host ∧ (takeEffect s).links = s.links
      ∧ (takeEffect s).inp = s.inp ∧ (takeEffect s).ctl = s.ctl := by
  simp [takeEffect]

/-- What `admitReq` leaves as it was. -/
@[simp] theorem admitReq_frame (s : State) (r : Request) :
    (admitReq s r).pending = s.pending ∧ (admitReq s r).freeCtr = s.freeCtr ∧ (admitReq s r).sclk = s.sclk ∧ (admitReq s r).boot = s.boot
      ∧ (admitReq s r).nv = s.nv ∧ (admitReq s r).sec = s.sec ∧ (admitReq s r).pool = s.pool ∧ (admitReq s r).ctxs = s.ctxs
      ∧ (admitReq s r).video = s.video := by
  simp [admitReq]

/-- What `loadRgn` leaves as it was. -/
@[simp] theorem loadRgn_frame (s : State) (r k : Nat) :
    (loadRgn s r k).pending = s.pending ∧ (loadRgn s r k).freeCtr = s.freeCtr ∧ (loadRgn s r k).out = s.out
      ∧ (loadRgn s r k).sclk = s.sclk ∧ (loadRgn s r k).boot = s.boot ∧ (loadRgn s r k).nv = s.nv ∧ (loadRgn s r k).sec = s.sec
      ∧ (loadRgn s r k).regs = s.regs ∧ (loadRgn s r k).pool = s.pool ∧ (loadRgn s r k).ctxs = s.ctxs ∧ (loadRgn s r k).video = s.video
      ∧ (loadRgn s r k).fab = s.fab ∧ (loadRgn s r k).sched = s.sched ∧ (loadRgn s r k).power = s.power ∧ (loadRgn s r k).host = s.host
      ∧ (loadRgn s r k).links = s.links ∧ (loadRgn s r k).inp = s.inp ∧ (loadRgn s r k).ctl = s.ctl := by
  simp [loadRgn]

/-- What `restoreState` leaves as it was. -/
@[simp] theorem restoreState_frame (s : State) (r : Nat) (v : Saved) :
    (restoreState s r v).pending = s.pending ∧ (restoreState s r v).freeCtr = s.freeCtr ∧ (restoreState s r v).out = s.out
      ∧ (restoreState s r v).sclk = s.sclk ∧ (restoreState s r v).boot = s.boot ∧ (restoreState s r v).nv = s.nv
      ∧ (restoreState s r v).sec = s.sec ∧ (restoreState s r v).pool = s.pool ∧ (restoreState s r v).ctxs = s.ctxs
      ∧ (restoreState s r v).video = s.video ∧ (restoreState s r v).sched = s.sched ∧ (restoreState s r v).power = s.power
      ∧ (restoreState s r v).links = s.links ∧ (restoreState s r v).inp = s.inp := by
  simp [restoreState]

/-- What `passRegion` leaves as it was. -/
@[simp] theorem passRegion_frame (s : State) (r p : Nat) :
    (passRegion s r p).pending = s.pending ∧ (passRegion s r p).freeCtr = s.freeCtr ∧ (passRegion s r p).out = s.out
      ∧ (passRegion s r p).sclk = s.sclk ∧ (passRegion s r p).boot = s.boot ∧ (passRegion s r p).nv = s.nv
      ∧ (passRegion s r p).sec = s.sec ∧ (passRegion s r p).pool = s.pool ∧ (passRegion s r p).ctxs = s.ctxs
      ∧ (passRegion s r p).video = s.video ∧ (passRegion s r p).sched = s.sched ∧ (passRegion s r p).power = s.power
      ∧ (passRegion s r p).links = s.links ∧ (passRegion s r p).inp = s.inp := by
  unfold passRegion; (repeat' split) <;> simp <;> (repeat' split) <;> simp

/-- What `saveRgn` leaves as it was. -/
@[simp] theorem saveRgn_frame (s : State) (r k : Nat) :
    (saveRgn s r k).pending = s.pending ∧ (saveRgn s r k).freeCtr = s.freeCtr ∧ (saveRgn s r k).out = s.out
      ∧ (saveRgn s r k).sclk = s.sclk ∧ (saveRgn s r k).boot = s.boot ∧ (saveRgn s r k).nv = s.nv ∧ (saveRgn s r k).sec = s.sec
      ∧ (saveRgn s r k).regs = s.regs ∧ (saveRgn s r k).pool = s.pool ∧ (saveRgn s r k).ctxs = s.ctxs ∧ (saveRgn s r k).video = s.video
      ∧ (saveRgn s r k).fab = s.fab ∧ (saveRgn s r k).sched = s.sched ∧ (saveRgn s r k).power = s.power ∧ (saveRgn s r k).host = s.host
      ∧ (saveRgn s r k).links = s.links ∧ (saveRgn s r k).inp = s.inp ∧ (saveRgn s r k).ctl = s.ctl := by
  simp [saveRgn]

/-- What `saveState` leaves as it was. -/
@[simp] theorem saveState_frame (s : State) (r : Nat) :
    (saveState s r).pending = s.pending ∧ (saveState s r).freeCtr = s.freeCtr ∧ (saveState s r).out = s.out
      ∧ (saveState s r).sclk = s.sclk ∧ (saveState s r).boot = s.boot ∧ (saveState s r).nv = s.nv ∧ (saveState s r).sec = s.sec
      ∧ (saveState s r).pool = s.pool ∧ (saveState s r).ctxs = s.ctxs ∧ (saveState s r).video = s.video ∧ (saveState s r).sched = s.sched
      ∧ (saveState s r).host = s.host ∧ (saveState s r).links = s.links ∧ (saveState s r).inp = s.inp ∧ (saveState s r).ctl = s.ctl := by
  unfold saveState; (repeat' split) <;> simp <;> (repeat' split) <;> simp

/-- What `modMop` leaves as it was. -/
@[simp] theorem modMop_frame (s : State) (id i : Nat) (f : MopSt → MopSt) :
    (modMop s id i f).pending = s.pending ∧ (modMop s id i f).freeCtr = s.freeCtr ∧ (modMop s id i f).out = s.out
      ∧ (modMop s id i f).sclk = s.sclk ∧ (modMop s id i f).boot = s.boot ∧ (modMop s id i f).nv = s.nv ∧ (modMop s id i f).sec = s.sec
      ∧ (modMop s id i f).regs = s.regs ∧ (modMop s id i f).mem = s.mem ∧ (modMop s id i f).pool = s.pool
      ∧ (modMop s id i f).ctxs = s.ctxs ∧ (modMop s id i f).video = s.video ∧ (modMop s id i f).fab = s.fab
      ∧ (modMop s id i f).power = s.power ∧ (modMop s id i f).host = s.host ∧ (modMop s id i f).links = s.links
      ∧ (modMop s id i f).inp = s.inp ∧ (modMop s id i f).ctl = s.ctl := by
  simp [modMop]

/-- What `dropEmptyGrants` leaves as it was. -/
@[simp] theorem dropEmptyGrants_frame (s : State) :
    (dropEmptyGrants s).pending = s.pending ∧ (dropEmptyGrants s).freeCtr = s.freeCtr ∧ (dropEmptyGrants s).out = s.out
      ∧ (dropEmptyGrants s).sclk = s.sclk ∧ (dropEmptyGrants s).boot = s.boot ∧ (dropEmptyGrants s).nv = s.nv
      ∧ (dropEmptyGrants s).sec = s.sec ∧ (dropEmptyGrants s).regs = s.regs ∧ (dropEmptyGrants s).mem = s.mem
      ∧ (dropEmptyGrants s).pool = s.pool ∧ (dropEmptyGrants s).ctxs = s.ctxs ∧ (dropEmptyGrants s).video = s.video
      ∧ (dropEmptyGrants s).fab = s.fab ∧ (dropEmptyGrants s).host = s.host ∧ (dropEmptyGrants s).links = s.links
      ∧ (dropEmptyGrants s).inp = s.inp ∧ (dropEmptyGrants s).ctl = s.ctl := by
  simp [dropEmptyGrants]

/-- What `preempt` leaves as it was. -/
@[simp] theorem preempt_frame (s : State) (p : Nat) :
    (preempt s p).pending = s.pending ∧ (preempt s p).freeCtr = s.freeCtr ∧ (preempt s p).sclk = s.sclk ∧ (preempt s p).boot = s.boot
      ∧ (preempt s p).nv = s.nv ∧ (preempt s p).sec = s.sec ∧ (preempt s p).pool = s.pool ∧ (preempt s p).ctxs = s.ctxs
      ∧ (preempt s p).video = s.video ∧ (preempt s p).inp = s.inp := by
  simp [preempt]

/-- What `restoreRegion` leaves as it was. -/
@[simp] theorem restoreRegion_frame (s : State) (r : Nat) :
    (restoreRegion s r).pending = s.pending ∧ (restoreRegion s r).freeCtr = s.freeCtr ∧ (restoreRegion s r).sclk = s.sclk
      ∧ (restoreRegion s r).boot = s.boot ∧ (restoreRegion s r).nv = s.nv ∧ (restoreRegion s r).sec = s.sec
      ∧ (restoreRegion s r).pool = s.pool ∧ (restoreRegion s r).ctxs = s.ctxs ∧ (restoreRegion s r).video = s.video
      ∧ (restoreRegion s r).inp = s.inp := by
  unfold restoreRegion; (repeat' split) <;> simp <;> (repeat' split) <;> simp

/-- What `modPass` leaves as it was. -/
@[simp] theorem modPass_frame (s : State) (id start : Nat) (f : PassW → PassW) :
    (modPass s id start f).pending = s.pending ∧ (modPass s id start f).freeCtr = s.freeCtr ∧ (modPass s id start f).out = s.out
      ∧ (modPass s id start f).sclk = s.sclk ∧ (modPass s id start f).boot = s.boot ∧ (modPass s id start f).nv = s.nv
      ∧ (modPass s id start f).sec = s.sec ∧ (modPass s id start f).regs = s.regs ∧ (modPass s id start f).mem = s.mem
      ∧ (modPass s id start f).pool = s.pool ∧ (modPass s id start f).ctxs = s.ctxs ∧ (modPass s id start f).video = s.video
      ∧ (modPass s id start f).fab = s.fab ∧ (modPass s id start f).power = s.power ∧ (modPass s id start f).host = s.host
      ∧ (modPass s id start f).links = s.links ∧ (modPass s id start f).inp = s.inp ∧ (modPass s id start f).ctl = s.ctl := by
  simp [modPass]

/-- What `modLayer` leaves as it was. -/
@[simp] theorem modLayer_frame (s : State) (id start : Nat) (f : LayerW → LayerW) :
    (modLayer s id start f).pending = s.pending ∧ (modLayer s id start f).freeCtr = s.freeCtr ∧ (modLayer s id start f).out = s.out
      ∧ (modLayer s id start f).sclk = s.sclk ∧ (modLayer s id start f).boot = s.boot ∧ (modLayer s id start f).nv = s.nv
      ∧ (modLayer s id start f).sec = s.sec ∧ (modLayer s id start f).regs = s.regs ∧ (modLayer s id start f).mem = s.mem
      ∧ (modLayer s id start f).pool = s.pool ∧ (modLayer s id start f).ctxs = s.ctxs ∧ (modLayer s id start f).video = s.video
      ∧ (modLayer s id start f).fab = s.fab ∧ (modLayer s id start f).power = s.power ∧ (modLayer s id start f).host = s.host
      ∧ (modLayer s id start f).links = s.links ∧ (modLayer s id start f).inp = s.inp ∧ (modLayer s id start f).ctl = s.ctl := by
  simp [modLayer]

/-- What `watchEff` leaves as it was. -/
@[simp] theorem watchEff_frame (s : State) (x : Run) (e : Eff) :
    (watchEff s x e).pending = s.pending ∧ (watchEff s x e).freeCtr = s.freeCtr ∧ (watchEff s x e).out = s.out
      ∧ (watchEff s x e).sclk = s.sclk ∧ (watchEff s x e).boot = s.boot ∧ (watchEff s x e).nv = s.nv ∧ (watchEff s x e).sec = s.sec
      ∧ (watchEff s x e).regs = s.regs ∧ (watchEff s x e).mem = s.mem ∧ (watchEff s x e).pool = s.pool ∧ (watchEff s x e).ctxs = s.ctxs
      ∧ (watchEff s x e).video = s.video ∧ (watchEff s x e).fab = s.fab ∧ (watchEff s x e).power = s.power
      ∧ (watchEff s x e).host = s.host ∧ (watchEff s x e).links = s.links ∧ (watchEff s x e).inp = s.inp
      ∧ (watchEff s x e).ctl = s.ctl := by
  simp [watchEff]

/-- What `bumpMiss` leaves as it was. -/
@[simp] theorem bumpMiss_frame (s : State) (pg off n : Nat) :
    (bumpMiss s pg off n).pending = s.pending ∧ (bumpMiss s pg off n).freeCtr = s.freeCtr ∧ (bumpMiss s pg off n).out = s.out
      ∧ (bumpMiss s pg off n).sclk = s.sclk ∧ (bumpMiss s pg off n).boot = s.boot ∧ (bumpMiss s pg off n).nv = s.nv
      ∧ (bumpMiss s pg off n).sec = s.sec ∧ (bumpMiss s pg off n).mem = s.mem ∧ (bumpMiss s pg off n).pool = s.pool
      ∧ (bumpMiss s pg off n).ctxs = s.ctxs ∧ (bumpMiss s pg off n).video = s.video ∧ (bumpMiss s pg off n).fab = s.fab
      ∧ (bumpMiss s pg off n).sched = s.sched ∧ (bumpMiss s pg off n).power = s.power ∧ (bumpMiss s pg off n).host = s.host
      ∧ (bumpMiss s pg off n).links = s.links ∧ (bumpMiss s pg off n).inp = s.inp ∧ (bumpMiss s pg off n).ctl = s.ctl := by
  simp [bumpMiss]

/-- What `bumpOpen` leaves as it was. -/
@[simp] theorem bumpOpen_frame (cs : List (Nat × Nat)) (s : State) :
    (bumpOpen cs s).pending = s.pending ∧ (bumpOpen cs s).out = s.out ∧ (bumpOpen cs s).sclk = s.sclk ∧ (bumpOpen cs s).boot = s.boot
      ∧ (bumpOpen cs s).nv = s.nv ∧ (bumpOpen cs s).sec = s.sec ∧ (bumpOpen cs s).mem = s.mem ∧ (bumpOpen cs s).pool = s.pool
      ∧ (bumpOpen cs s).ctxs = s.ctxs ∧ (bumpOpen cs s).video = s.video ∧ (bumpOpen cs s).fab = s.fab ∧ (bumpOpen cs s).sched = s.sched
      ∧ (bumpOpen cs s).power = s.power ∧ (bumpOpen cs s).host = s.host ∧ (bumpOpen cs s).links = s.links ∧ (bumpOpen cs s).inp = s.inp
      ∧ (bumpOpen cs s).ctl = s.ctl := by
  simp [bumpOpen]

/-- What `latchRgns` leaves as it was. -/
@[simp] theorem latchRgns_frame (s : State) (p : Nat) :
    (latchRgns s p).pending = s.pending ∧ (latchRgns s p).freeCtr = s.freeCtr ∧ (latchRgns s p).out = s.out
      ∧ (latchRgns s p).sclk = s.sclk ∧ (latchRgns s p).boot = s.boot ∧ (latchRgns s p).nv = s.nv ∧ (latchRgns s p).sec = s.sec
      ∧ (latchRgns s p).regs = s.regs ∧ (latchRgns s p).mem = s.mem ∧ (latchRgns s p).pool = s.pool ∧ (latchRgns s p).ctxs = s.ctxs
      ∧ (latchRgns s p).video = s.video ∧ (latchRgns s p).sched = s.sched ∧ (latchRgns s p).power = s.power
      ∧ (latchRgns s p).host = s.host ∧ (latchRgns s p).links = s.links ∧ (latchRgns s p).inp = s.inp ∧ (latchRgns s p).ctl = s.ctl := by
  simp [latchRgns]

/-- What `countGroup` leaves as it was. -/
@[simp] theorem countGroup_frame (s : State) (r : Nat) (g : Group) :
    (countGroup s r g).pending = s.pending ∧ (countGroup s r g).freeCtr = s.freeCtr ∧ (countGroup s r g).out = s.out
      ∧ (countGroup s r g).sclk = s.sclk ∧ (countGroup s r g).boot = s.boot ∧ (countGroup s r g).nv = s.nv
      ∧ (countGroup s r g).sec = s.sec ∧ (countGroup s r g).mem = s.mem ∧ (countGroup s r g).pool = s.pool
      ∧ (countGroup s r g).ctxs = s.ctxs ∧ (countGroup s r g).video = s.video ∧ (countGroup s r g).fab = s.fab
      ∧ (countGroup s r g).sched = s.sched ∧ (countGroup s r g).power = s.power ∧ (countGroup s r g).host = s.host
      ∧ (countGroup s r g).links = s.links ∧ (countGroup s r g).inp = s.inp ∧ (countGroup s r g).ctl = s.ctl := by
  simp [countGroup]

/-- What `countTake` leaves as it was. -/
@[simp] theorem countTake_frame (s : State) (r : Nat) (g : Group) :
    (countTake s r g).pending = s.pending ∧ (countTake s r g).freeCtr = s.freeCtr ∧ (countTake s r g).out = s.out
      ∧ (countTake s r g).sclk = s.sclk ∧ (countTake s r g).boot = s.boot ∧ (countTake s r g).nv = s.nv
      ∧ (countTake s r g).sec = s.sec ∧ (countTake s r g).mem = s.mem ∧ (countTake s r g).pool = s.pool
      ∧ (countTake s r g).ctxs = s.ctxs ∧ (countTake s r g).video = s.video ∧ (countTake s r g).fab = s.fab
      ∧ (countTake s r g).sched = s.sched ∧ (countTake s r g).power = s.power ∧ (countTake s r g).host = s.host
      ∧ (countTake s r g).links = s.links ∧ (countTake s r g).inp = s.inp ∧ (countTake s r g).ctl = s.ctl := by
  unfold countTake; split <;> simp

/-- What `drainGroups` leaves as it was. -/
@[simp] theorem drainGroups_frame (s : State) (x : Run) :
    (drainGroups s x).pending = s.pending ∧ (drainGroups s x).freeCtr = s.freeCtr ∧ (drainGroups s x).out = s.out
      ∧ (drainGroups s x).sclk = s.sclk ∧ (drainGroups s x).boot = s.boot ∧ (drainGroups s x).nv = s.nv ∧ (drainGroups s x).sec = s.sec
      ∧ (drainGroups s x).mem = s.mem ∧ (drainGroups s x).pool = s.pool ∧ (drainGroups s x).ctxs = s.ctxs
      ∧ (drainGroups s x).video = s.video ∧ (drainGroups s x).sched = s.sched ∧ (drainGroups s x).power = s.power
      ∧ (drainGroups s x).host = s.host ∧ (drainGroups s x).links = s.links ∧ (drainGroups s x).inp = s.inp
      ∧ (drainGroups s x).ctl = s.ctl := by
  simp [drainGroups]

/-- What `markWorked` leaves as it was. -/
@[simp] theorem markWorked_frame (s : State) (x : Run) :
    (markWorked s x).pending = s.pending ∧ (markWorked s x).out = s.out ∧ (markWorked s x).sclk = s.sclk ∧ (markWorked s x).boot = s.boot
      ∧ (markWorked s x).nv = s.nv ∧ (markWorked s x).sec = s.sec ∧ (markWorked s x).mem = s.mem ∧ (markWorked s x).pool = s.pool
      ∧ (markWorked s x).ctxs = s.ctxs ∧ (markWorked s x).video = s.video ∧ (markWorked s x).power = s.power
      ∧ (markWorked s x).host = s.host ∧ (markWorked s x).links = s.links ∧ (markWorked s x).inp = s.inp
      ∧ (markWorked s x).ctl = s.ctl := by
  simp [markWorked]

/-- What `bumpLead` leaves as it was. -/
@[simp] theorem bumpLead_frame (s : State) (p off n : Nat) :
    (bumpLead s p off n).pending = s.pending ∧ (bumpLead s p off n).freeCtr = s.freeCtr ∧ (bumpLead s p off n).out = s.out
      ∧ (bumpLead s p off n).sclk = s.sclk ∧ (bumpLead s p off n).boot = s.boot ∧ (bumpLead s p off n).nv = s.nv
      ∧ (bumpLead s p off n).sec = s.sec ∧ (bumpLead s p off n).mem = s.mem ∧ (bumpLead s p off n).pool = s.pool
      ∧ (bumpLead s p off n).ctxs = s.ctxs ∧ (bumpLead s p off n).video = s.video ∧ (bumpLead s p off n).fab = s.fab
      ∧ (bumpLead s p off n).sched = s.sched ∧ (bumpLead s p off n).power = s.power ∧ (bumpLead s p off n).host = s.host
      ∧ (bumpLead s p off n).links = s.links ∧ (bumpLead s p off n).inp = s.inp ∧ (bumpLead s p off n).ctl = s.ctl := by
  unfold bumpLead; (repeat' split) <;> simp

/-- What `bumpRan` leaves as it was. -/
@[simp] theorem bumpRan_frame (s : State) (x : Run) (k off n : Nat) :
    (bumpRan s x k off n).pending = s.pending ∧ (bumpRan s x k off n).freeCtr = s.freeCtr ∧ (bumpRan s x k off n).out = s.out
      ∧ (bumpRan s x k off n).sclk = s.sclk ∧ (bumpRan s x k off n).boot = s.boot ∧ (bumpRan s x k off n).nv = s.nv
      ∧ (bumpRan s x k off n).sec = s.sec ∧ (bumpRan s x k off n).mem = s.mem ∧ (bumpRan s x k off n).pool = s.pool
      ∧ (bumpRan s x k off n).ctxs = s.ctxs ∧ (bumpRan s x k off n).video = s.video ∧ (bumpRan s x k off n).fab = s.fab
      ∧ (bumpRan s x k off n).sched = s.sched ∧ (bumpRan s x k off n).power = s.power ∧ (bumpRan s x k off n).host = s.host
      ∧ (bumpRan s x k off n).links = s.links ∧ (bumpRan s x k off n).inp = s.inp ∧ (bumpRan s x k off n).ctl = s.ctl := by
  simp [bumpRan]

/-- What `countEff` leaves as it was. -/
@[simp] theorem countEff_frame (s : State) (x : Run) (cnt : List (Nat × Nat)) :
    (countEff s x cnt).pending = s.pending ∧ (countEff s x cnt).out = s.out ∧ (countEff s x cnt).sclk = s.sclk
      ∧ (countEff s x cnt).boot = s.boot ∧ (countEff s x cnt).nv = s.nv ∧ (countEff s x cnt).sec = s.sec ∧ (countEff s x cnt).mem = s.mem
      ∧ (countEff s x cnt).pool = s.pool ∧ (countEff s x cnt).ctxs = s.ctxs ∧ (countEff s x cnt).video = s.video
      ∧ (countEff s x cnt).fab = s.fab ∧ (countEff s x cnt).sched = s.sched ∧ (countEff s x cnt).power = s.power
      ∧ (countEff s x cnt).host = s.host ∧ (countEff s x cnt).links = s.links ∧ (countEff s x cnt).inp = s.inp
      ∧ (countEff s x cnt).ctl = s.ctl := by
  simp [countEff]

/-- What `markWait` leaves as it was. -/
@[simp] theorem markWait_frame (s : State) (id idx : Nat) :
    (markWait s id idx).pending = s.pending ∧ (markWait s id idx).freeCtr = s.freeCtr ∧ (markWait s id idx).out = s.out
      ∧ (markWait s id idx).sclk = s.sclk ∧ (markWait s id idx).boot = s.boot ∧ (markWait s id idx).nv = s.nv
      ∧ (markWait s id idx).sec = s.sec ∧ (markWait s id idx).regs = s.regs ∧ (markWait s id idx).mem = s.mem
      ∧ (markWait s id idx).pool = s.pool ∧ (markWait s id idx).ctxs = s.ctxs ∧ (markWait s id idx).video = s.video
      ∧ (markWait s id idx).fab = s.fab ∧ (markWait s id idx).power = s.power ∧ (markWait s id idx).host = s.host
      ∧ (markWait s id idx).links = s.links ∧ (markWait s id idx).inp = s.inp ∧ (markWait s id idx).ctl = s.ctl := by
  simp [markWait]

/-- What `underFmt` leaves as it was. -/
@[simp] theorem underFmt_frame (s : State) (p : Nat) (f : Nat × Nat) :
    (underFmt s p f).pending = s.pending ∧ (underFmt s p f).freeCtr = s.freeCtr ∧ (underFmt s p f).out = s.out
      ∧ (underFmt s p f).sclk = s.sclk ∧ (underFmt s p f).boot = s.boot ∧ (underFmt s p f).nv = s.nv ∧ (underFmt s p f).sec = s.sec
      ∧ (underFmt s p f).regs = s.regs ∧ (underFmt s p f).mem = s.mem ∧ (underFmt s p f).pool = s.pool ∧ (underFmt s p f).ctxs = s.ctxs
      ∧ (underFmt s p f).video = s.video ∧ (underFmt s p f).sched = s.sched ∧ (underFmt s p f).power = s.power
      ∧ (underFmt s p f).host = s.host ∧ (underFmt s p f).links = s.links ∧ (underFmt s p f).inp = s.inp
      ∧ (underFmt s p f).ctl = s.ctl := by
  unfold underFmt; (repeat' split) <;> simp

/-- What `modCtx` leaves as it was. -/
@[simp] theorem modCtx_frame (s : State) (i : Nat) (f : Ctx → Ctx) :
    (modCtx s i f).pending = s.pending ∧ (modCtx s i f).freeCtr = s.freeCtr ∧ (modCtx s i f).out = s.out ∧ (modCtx s i f).sclk = s.sclk
      ∧ (modCtx s i f).boot = s.boot ∧ (modCtx s i f).nv = s.nv ∧ (modCtx s i f).sec = s.sec ∧ (modCtx s i f).regs = s.regs
      ∧ (modCtx s i f).mem = s.mem ∧ (modCtx s i f).pool = s.pool ∧ (modCtx s i f).video = s.video ∧ (modCtx s i f).fab = s.fab
      ∧ (modCtx s i f).sched = s.sched ∧ (modCtx s i f).power = s.power ∧ (modCtx s i f).host = s.host ∧ (modCtx s i f).links = s.links
      ∧ (modCtx s i f).inp = s.inp ∧ (modCtx s i f).ctl = s.ctl := by
  simp [modCtx]

/-- What `raiseFilled` leaves as it was. -/
@[simp] theorem raiseFilled_frame (s : State) (x : Run) :
    (raiseFilled s x).pending = s.pending ∧ (raiseFilled s x).freeCtr = s.freeCtr ∧ (raiseFilled s x).out = s.out
      ∧ (raiseFilled s x).sclk = s.sclk ∧ (raiseFilled s x).boot = s.boot ∧ (raiseFilled s x).nv = s.nv ∧ (raiseFilled s x).sec = s.sec
      ∧ (raiseFilled s x).regs = s.regs ∧ (raiseFilled s x).mem = s.mem ∧ (raiseFilled s x).pool = s.pool
      ∧ (raiseFilled s x).video = s.video ∧ (raiseFilled s x).fab = s.fab ∧ (raiseFilled s x).sched = s.sched
      ∧ (raiseFilled s x).power = s.power ∧ (raiseFilled s x).host = s.host ∧ (raiseFilled s x).links = s.links
      ∧ (raiseFilled s x).inp = s.inp ∧ (raiseFilled s x).ctl = s.ctl := by
  simp [raiseFilled]

/-- What `modSample` leaves as it was. -/
@[simp] theorem modSample_frame (s : State) (p sample : Nat) (f : Pos → Pos) :
    (modSample s p sample f).pending = s.pending ∧ (modSample s p sample f).freeCtr = s.freeCtr ∧ (modSample s p sample f).out = s.out
      ∧ (modSample s p sample f).sclk = s.sclk ∧ (modSample s p sample f).boot = s.boot ∧ (modSample s p sample f).nv = s.nv
      ∧ (modSample s p sample f).sec = s.sec ∧ (modSample s p sample f).regs = s.regs ∧ (modSample s p sample f).mem = s.mem
      ∧ (modSample s p sample f).pool = s.pool ∧ (modSample s p sample f).ctxs = s.ctxs ∧ (modSample s p sample f).video = s.video
      ∧ (modSample s p sample f).fab = s.fab ∧ (modSample s p sample f).sched = s.sched ∧ (modSample s p sample f).power = s.power
      ∧ (modSample s p sample f).host = s.host ∧ (modSample s p sample f).links = s.links ∧ (modSample s p sample f).ctl = s.ctl := by
  simp [modSample]

/-- What `noteMean` leaves as it was. -/
@[simp] theorem noteMean_frame (s : State) (p us : Nat) :
    (noteMean s p us).pending = s.pending ∧ (noteMean s p us).freeCtr = s.freeCtr ∧ (noteMean s p us).out = s.out
      ∧ (noteMean s p us).sclk = s.sclk ∧ (noteMean s p us).boot = s.boot ∧ (noteMean s p us).nv = s.nv ∧ (noteMean s p us).sec = s.sec
      ∧ (noteMean s p us).mem = s.mem ∧ (noteMean s p us).pool = s.pool ∧ (noteMean s p us).ctxs = s.ctxs
      ∧ (noteMean s p us).video = s.video ∧ (noteMean s p us).fab = s.fab ∧ (noteMean s p us).sched = s.sched
      ∧ (noteMean s p us).power = s.power ∧ (noteMean s p us).host = s.host ∧ (noteMean s p us).links = s.links
      ∧ (noteMean s p us).inp = s.inp ∧ (noteMean s p us).ctl = s.ctl := by
  simp [noteMean]

/-- What `noteSegment` leaves as it was. -/
@[simp] theorem noteSegment_frame (s : State) (p sample result frames cycles : Nat) :
    (noteSegment s p sample result frames cycles).pending = s.pending ∧ (noteSegment s p sample result frames cycles).freeCtr = s.freeCtr
      ∧ (noteSegment s p sample result frames cycles).out = s.out ∧ (noteSegment s p sample result frames cycles).sclk = s.sclk
      ∧ (noteSegment s p sample result frames cycles).boot = s.boot ∧ (noteSegment s p sample result frames cycles).nv = s.nv
      ∧ (noteSegment s p sample result frames cycles).sec = s.sec ∧ (noteSegment s p sample result frames cycles).mem = s.mem
      ∧ (noteSegment s p sample result frames cycles).pool = s.pool ∧ (noteSegment s p sample result frames cycles).ctxs = s.ctxs
      ∧ (noteSegment s p sample result frames cycles).video = s.video ∧ (noteSegment s p sample result frames cycles).fab = s.fab
      ∧ (noteSegment s p sample result frames cycles).sched = s.sched ∧ (noteSegment s p sample result frames cycles).power = s.power
      ∧ (noteSegment s p sample result frames cycles).host = s.host ∧ (noteSegment s p sample result frames cycles).links = s.links
      ∧ (noteSegment s p sample result frames cycles).ctl = s.ctl := by
  simp [noteSegment]

/-- What `darkPorts` leaves as it was. -/
@[simp] theorem darkPorts_frame (s : State) :
    (darkPorts s).pending = s.pending ∧ (darkPorts s).freeCtr = s.freeCtr ∧ (darkPorts s).out = s.out ∧ (darkPorts s).sclk = s.sclk
      ∧ (darkPorts s).boot = s.boot ∧ (darkPorts s).nv = s.nv ∧ (darkPorts s).sec = s.sec ∧ (darkPorts s).mem = s.mem
      ∧ (darkPorts s).pool = s.pool ∧ (darkPorts s).ctxs = s.ctxs ∧ (darkPorts s).video = s.video ∧ (darkPorts s).fab = s.fab
      ∧ (darkPorts s).sched = s.sched ∧ (darkPorts s).power = s.power ∧ (darkPorts s).links = s.links ∧ (darkPorts s).inp = s.inp := by
  simp only [darkPorts, setPort]; (repeat' split) <;> simp_all

/-- What `bootSlots` leaves as it was. -/
@[simp] theorem bootSlots_frame (s : State) :
    (bootSlots s).pending = s.pending ∧ (bootSlots s).freeCtr = s.freeCtr ∧ (bootSlots s).out = s.out ∧ (bootSlots s).sclk = s.sclk
      ∧ (bootSlots s).nv = s.nv ∧ (bootSlots s).sec = s.sec ∧ (bootSlots s).mem = s.mem ∧ (bootSlots s).pool = s.pool
      ∧ (bootSlots s).ctxs = s.ctxs ∧ (bootSlots s).video = s.video ∧ (bootSlots s).fab = s.fab ∧ (bootSlots s).sched = s.sched
      ∧ (bootSlots s).power = s.power ∧ (bootSlots s).links = s.links ∧ (bootSlots s).inp = s.inp := by
  simp only [bootSlots]; (repeat' split) <;> simp

/-- What `burnSvn` leaves as it was. -/
@[simp] theorem burnSvn_frame (s : State) :
    (burnSvn s).pending = s.pending ∧ (burnSvn s).freeCtr = s.freeCtr ∧ (burnSvn s).out = s.out ∧ (burnSvn s).sclk = s.sclk
      ∧ (burnSvn s).boot = s.boot ∧ (burnSvn s).sec = s.sec ∧ (burnSvn s).mem = s.mem ∧ (burnSvn s).pool = s.pool
      ∧ (burnSvn s).ctxs = s.ctxs ∧ (burnSvn s).video = s.video ∧ (burnSvn s).fab = s.fab ∧ (burnSvn s).sched = s.sched
      ∧ (burnSvn s).power = s.power ∧ (burnSvn s).links = s.links ∧ (burnSvn s).inp = s.inp := by
  simp only [burnSvn]; split <;> simp

/-- What `loadKeys` leaves as it was. -/
@[simp] theorem loadKeys_frame (s : State) :
    (loadKeys s).pending = s.pending ∧ (loadKeys s).freeCtr = s.freeCtr ∧ (loadKeys s).out = s.out ∧ (loadKeys s).sclk = s.sclk
      ∧ (loadKeys s).boot = s.boot ∧ (loadKeys s).nv = s.nv ∧ (loadKeys s).regs = s.regs ∧ (loadKeys s).mem = s.mem
      ∧ (loadKeys s).pool = s.pool ∧ (loadKeys s).ctxs = s.ctxs ∧ (loadKeys s).video = s.video ∧ (loadKeys s).fab = s.fab
      ∧ (loadKeys s).sched = s.sched ∧ (loadKeys s).power = s.power ∧ (loadKeys s).host = s.host ∧ (loadKeys s).links = s.links
      ∧ (loadKeys s).inp = s.inp ∧ (loadKeys s).ctl = s.ctl := by
  unfold loadKeys; (repeat' split) <;> simp

/-- What `loseFlash` leaves as it was. -/
@[simp] theorem loseFlash_frame (s : State) :
    (loseFlash s).pending = s.pending ∧ (loseFlash s).freeCtr = s.freeCtr ∧ (loseFlash s).out = s.out ∧ (loseFlash s).sclk = s.sclk
      ∧ (loseFlash s).boot = s.boot ∧ (loseFlash s).nv = s.nv ∧ (loseFlash s).sec = s.sec ∧ (loseFlash s).regs = s.regs
      ∧ (loseFlash s).pool = s.pool ∧ (loseFlash s).ctxs = s.ctxs ∧ (loseFlash s).video = s.video ∧ (loseFlash s).fab = s.fab
      ∧ (loseFlash s).sched = s.sched ∧ (loseFlash s).power = s.power ∧ (loseFlash s).host = s.host ∧ (loseFlash s).links = s.links
      ∧ (loseFlash s).inp = s.inp ∧ (loseFlash s).ctl = s.ctl := by
  simp [loseFlash]

/-- What `finishTransition` leaves as it was. -/
@[simp] theorem finishTransition_frame (s : State) :
    (finishTransition s).pending = s.pending ∧ (finishTransition s).out = s.out ∧ (finishTransition s).sclk = s.sclk
      ∧ (finishTransition s).boot = s.boot ∧ (finishTransition s).sec = s.sec ∧ (finishTransition s).regs = s.regs
      ∧ (finishTransition s).pool = s.pool ∧ (finishTransition s).ctxs = s.ctxs ∧ (finishTransition s).video = s.video
      ∧ (finishTransition s).fab = s.fab ∧ (finishTransition s).sched = s.sched ∧ (finishTransition s).power = s.power
      ∧ (finishTransition s).host = s.host ∧ (finishTransition s).links = s.links ∧ (finishTransition s).inp = s.inp
      ∧ (finishTransition s).ctl = s.ctl := by
  simp [finishTransition]

/-- What `closeSess` leaves as it was. -/
@[simp] theorem closeSess_frame (s : State) (i : Nat) :
    (closeSess s i).pending = s.pending ∧ (closeSess s i).freeCtr = s.freeCtr ∧ (closeSess s i).out = s.out
      ∧ (closeSess s i).sclk = s.sclk ∧ (closeSess s i).boot = s.boot ∧ (closeSess s i).nv = s.nv ∧ (closeSess s i).sec = s.sec
      ∧ (closeSess s i).regs = s.regs ∧ (closeSess s i).mem = s.mem ∧ (closeSess s i).pool = s.pool ∧ (closeSess s i).ctxs = s.ctxs
      ∧ (closeSess s i).video = s.video ∧ (closeSess s i).fab = s.fab ∧ (closeSess s i).sched = s.sched ∧ (closeSess s i).power = s.power
      ∧ (closeSess s i).links = s.links ∧ (closeSess s i).inp = s.inp ∧ (closeSess s i).ctl = s.ctl := by
  simp [closeSess]

/-- What `resetSess` leaves as it was. -/
@[simp] theorem resetSess_frame (s : State) (i : Nat) :
    (resetSess s i).pending = s.pending ∧ (resetSess s i).freeCtr = s.freeCtr ∧ (resetSess s i).out = s.out
      ∧ (resetSess s i).sclk = s.sclk ∧ (resetSess s i).boot = s.boot ∧ (resetSess s i).nv = s.nv ∧ (resetSess s i).sec = s.sec
      ∧ (resetSess s i).regs = s.regs ∧ (resetSess s i).mem = s.mem ∧ (resetSess s i).pool = s.pool ∧ (resetSess s i).ctxs = s.ctxs
      ∧ (resetSess s i).video = s.video ∧ (resetSess s i).fab = s.fab ∧ (resetSess s i).sched = s.sched ∧ (resetSess s i).power = s.power
      ∧ (resetSess s i).links = s.links ∧ (resetSess s i).inp = s.inp ∧ (resetSess s i).ctl = s.ctl := by
  simp [resetSess]

/-- What `doWarmReset` leaves as it was. -/
@[simp] theorem doWarmReset_frame (s : State) (byCmd : Bool) :
    (doWarmReset s byCmd).pending = s.pending ∧ (doWarmReset s byCmd).freeCtr = s.freeCtr ∧ (doWarmReset s byCmd).sclk = s.sclk
      ∧ (doWarmReset s byCmd).nv = s.nv ∧ (doWarmReset s byCmd).sec = s.sec := by
  simp [doWarmReset]

/-- What `warmReset` leaves as it was. -/
@[simp] theorem warmReset_frame (s : State) (byCmd : Bool) :
    (warmReset s byCmd).pending = s.pending ∧ (warmReset s byCmd).freeCtr = s.freeCtr ∧ (warmReset s byCmd).sclk = s.sclk
      ∧ (warmReset s byCmd).nv = s.nv ∧ (warmReset s byCmd).sec = s.sec := by
  simp [warmReset]

/-- What `noteAborts` leaves as it was. -/
@[simp] theorem noteAborts_frame (s : State) (p rank : Nat) (hs : List Nat) :
    (noteAborts s p rank hs).pending = s.pending ∧ (noteAborts s p rank hs).freeCtr = s.freeCtr ∧ (noteAborts s p rank hs).out = s.out
      ∧ (noteAborts s p rank hs).sclk = s.sclk ∧ (noteAborts s p rank hs).boot = s.boot ∧ (noteAborts s p rank hs).nv = s.nv
      ∧ (noteAborts s p rank hs).sec = s.sec ∧ (noteAborts s p rank hs).regs = s.regs ∧ (noteAborts s p rank hs).mem = s.mem
      ∧ (noteAborts s p rank hs).pool = s.pool ∧ (noteAborts s p rank hs).ctxs = s.ctxs ∧ (noteAborts s p rank hs).video = s.video
      ∧ (noteAborts s p rank hs).fab = s.fab ∧ (noteAborts s p rank hs).sched = s.sched ∧ (noteAborts s p rank hs).power = s.power
      ∧ (noteAborts s p rank hs).host = s.host ∧ (noteAborts s p rank hs).inp = s.inp ∧ (noteAborts s p rank hs).ctl = s.ctl := by
  simp [noteAborts]

/-- What `sendAbort` leaves as it was. -/
@[simp] theorem sendAbort_frame (s : State) (r : Request) (status : Nat) :
    (sendAbort s r status).pending = s.pending ∧ (sendAbort s r status).freeCtr = s.freeCtr ∧ (sendAbort s r status).sclk = s.sclk
      ∧ (sendAbort s r status).boot = s.boot ∧ (sendAbort s r status).nv = s.nv ∧ (sendAbort s r status).sec = s.sec
      ∧ (sendAbort s r status).mem = s.mem ∧ (sendAbort s r status).pool = s.pool ∧ (sendAbort s r status).ctxs = s.ctxs
      ∧ (sendAbort s r status).video = s.video ∧ (sendAbort s r status).fab = s.fab ∧ (sendAbort s r status).power = s.power
      ∧ (sendAbort s r status).host = s.host ∧ (sendAbort s r status).inp = s.inp ∧ (sendAbort s r status).ctl = s.ctl := by
  simp [sendAbort]

/-- What `fenceRgn` leaves as it was. -/
@[simp] theorem fenceRgn_frame (s : State) (r : Nat) :
    (fenceRgn s r).pending = s.pending ∧ (fenceRgn s r).freeCtr = s.freeCtr ∧ (fenceRgn s r).sclk = s.sclk ∧ (fenceRgn s r).boot = s.boot
      ∧ (fenceRgn s r).nv = s.nv ∧ (fenceRgn s r).sec = s.sec ∧ (fenceRgn s r).pool = s.pool ∧ (fenceRgn s r).ctxs = s.ctxs
      ∧ (fenceRgn s r).video = s.video ∧ (fenceRgn s r).inp = s.inp := by
  simp [fenceRgn]

/-- What `modColl` leaves as it was. -/
@[simp] theorem modColl_frame (s : State) (c : Coll) (f : Coll → Coll) :
    (modColl s c f).pending = s.pending ∧ (modColl s c f).freeCtr = s.freeCtr ∧ (modColl s c f).out = s.out
      ∧ (modColl s c f).sclk = s.sclk ∧ (modColl s c f).boot = s.boot ∧ (modColl s c f).nv = s.nv ∧ (modColl s c f).sec = s.sec
      ∧ (modColl s c f).regs = s.regs ∧ (modColl s c f).mem = s.mem ∧ (modColl s c f).pool = s.pool ∧ (modColl s c f).ctxs = s.ctxs
      ∧ (modColl s c f).video = s.video ∧ (modColl s c f).fab = s.fab ∧ (modColl s c f).sched = s.sched ∧ (modColl s c f).power = s.power
      ∧ (modColl s c f).host = s.host ∧ (modColl s c f).inp = s.inp ∧ (modColl s c f).ctl = s.ctl := by
  simp [modColl]

/-- What `bellSend` leaves as it was. -/
@[simp] theorem bellSend_frame (s : State) (p port kind a b : Nat) (vals : List W32) :
    (bellSend s p port kind a b vals).pending = s.pending ∧ (bellSend s p port kind a b vals).freeCtr = s.freeCtr
      ∧ (bellSend s p port kind a b vals).sclk = s.sclk ∧ (bellSend s p port kind a b vals).boot = s.boot
      ∧ (bellSend s p port kind a b vals).nv = s.nv ∧ (bellSend s p port kind a b vals).sec = s.sec
      ∧ (bellSend s p port kind a b vals).mem = s.mem ∧ (bellSend s p port kind a b vals).pool = s.pool
      ∧ (bellSend s p port kind a b vals).ctxs = s.ctxs ∧ (bellSend s p port kind a b vals).video = s.video
      ∧ (bellSend s p port kind a b vals).fab = s.fab ∧ (bellSend s p port kind a b vals).sched = s.sched
      ∧ (bellSend s p port kind a b vals).power = s.power ∧ (bellSend s p port kind a b vals).host = s.host
      ∧ (bellSend s p port kind a b vals).links = s.links ∧ (bellSend s p port kind a b vals).inp = s.inp
      ∧ (bellSend s p port kind a b vals).ctl = s.ctl := by
  simp [bellSend]

/-- What `bellTree` leaves as it was. -/
@[simp] theorem bellTree_frame (s : State) (p rank : Nat) (from_ : Option Nat) (kind a b : Nat) (vals : List W32) :
    (bellTree s p rank from_ kind a b vals).pending = s.pending ∧ (bellTree s p rank from_ kind a b vals).freeCtr = s.freeCtr
      ∧ (bellTree s p rank from_ kind a b vals).sclk = s.sclk ∧ (bellTree s p rank from_ kind a b vals).boot = s.boot
      ∧ (bellTree s p rank from_ kind a b vals).nv = s.nv ∧ (bellTree s p rank from_ kind a b vals).sec = s.sec
      ∧ (bellTree s p rank from_ kind a b vals).mem = s.mem ∧ (bellTree s p rank from_ kind a b vals).pool = s.pool
      ∧ (bellTree s p rank from_ kind a b vals).ctxs = s.ctxs ∧ (bellTree s p rank from_ kind a b vals).video = s.video
      ∧ (bellTree s p rank from_ kind a b vals).fab = s.fab ∧ (bellTree s p rank from_ kind a b vals).sched = s.sched
      ∧ (bellTree s p rank from_ kind a b vals).power = s.power ∧ (bellTree s p rank from_ kind a b vals).host = s.host
      ∧ (bellTree s p rank from_ kind a b vals).links = s.links ∧ (bellTree s p rank from_ kind a b vals).inp = s.inp
      ∧ (bellTree s p rank from_ kind a b vals).ctl = s.ctl := by
  simp [bellTree]

/-- What `settleChecks` leaves as it was. -/
@[simp] theorem settleChecks_frame (s : State) (p coll : Nat) (mine : List W32) :
    (settleChecks s p coll mine).pending = s.pending ∧ (settleChecks s p coll mine).freeCtr = s.freeCtr
      ∧ (settleChecks s p coll mine).out = s.out ∧ (settleChecks s p coll mine).sclk = s.sclk
      ∧ (settleChecks s p coll mine).boot = s.boot ∧ (settleChecks s p coll mine).nv = s.nv ∧ (settleChecks s p coll mine).sec = s.sec
      ∧ (settleChecks s p coll mine).regs = s.regs ∧ (settleChecks s p coll mine).mem = s.mem
      ∧ (settleChecks s p coll mine).pool = s.pool ∧ (settleChecks s p coll mine).ctxs = s.ctxs
      ∧ (settleChecks s p coll mine).video = s.video ∧ (settleChecks s p coll mine).fab = s.fab
      ∧ (settleChecks s p coll mine).sched = s.sched ∧ (settleChecks s p coll mine).power = s.power
      ∧ (settleChecks s p coll mine).host = s.host ∧ (settleChecks s p coll mine).inp = s.inp
      ∧ (settleChecks s p coll mine).ctl = s.ctl := by
  simp [settleChecks]

/-- What `endColl` leaves as it was. -/
@[simp] theorem endColl_frame (s : State) (x : Run) :
    (endColl s x).pending = s.pending ∧ (endColl s x).freeCtr = s.freeCtr ∧ (endColl s x).sclk = s.sclk ∧ (endColl s x).boot = s.boot
      ∧ (endColl s x).nv = s.nv ∧ (endColl s x).sec = s.sec ∧ (endColl s x).mem = s.mem ∧ (endColl s x).pool = s.pool
      ∧ (endColl s x).ctxs = s.ctxs ∧ (endColl s x).video = s.video ∧ (endColl s x).fab = s.fab ∧ (endColl s x).sched = s.sched
      ∧ (endColl s x).power = s.power ∧ (endColl s x).host = s.host ∧ (endColl s x).inp = s.inp ∧ (endColl s x).ctl = s.ctl := by
  simp [endColl]

/-- What `idle` leaves as it was. -/
@[simp] theorem idle_frame (s : State) :
    (idle s).pending = s.pending ∧ (idle s).freeCtr = s.freeCtr ∧ (idle s).out = s.out ∧ (idle s).boot = s.boot ∧ (idle s).nv = s.nv
      ∧ (idle s).sec = s.sec ∧ (idle s).regs = s.regs ∧ (idle s).mem = s.mem ∧ (idle s).pool = s.pool ∧ (idle s).ctxs = s.ctxs
      ∧ (idle s).video = s.video ∧ (idle s).fab = s.fab ∧ (idle s).sched = s.sched ∧ (idle s).power = s.power ∧ (idle s).host = s.host
      ∧ (idle s).links = s.links ∧ (idle s).inp = s.inp ∧ (idle s).ctl = s.ctl := by
  simp [idle]

/-- What `sendOn` leaves as it was. -/
@[simp] theorem sendOn_frame (s : State) (port ch tag bytes : Nat) (item : Out) :
    (sendOn s port ch tag bytes item).pending = s.pending ∧ (sendOn s port ch tag bytes item).freeCtr = s.freeCtr
      ∧ (sendOn s port ch tag bytes item).sclk = s.sclk ∧ (sendOn s port ch tag bytes item).boot = s.boot
      ∧ (sendOn s port ch tag bytes item).nv = s.nv ∧ (sendOn s port ch tag bytes item).sec = s.sec
      ∧ (sendOn s port ch tag bytes item).mem = s.mem ∧ (sendOn s port ch tag bytes item).pool = s.pool
      ∧ (sendOn s port ch tag bytes item).ctxs = s.ctxs ∧ (sendOn s port ch tag bytes item).video = s.video
      ∧ (sendOn s port ch tag bytes item).fab = s.fab ∧ (sendOn s port ch tag bytes item).sched = s.sched
      ∧ (sendOn s port ch tag bytes item).power = s.power ∧ (sendOn s port ch tag bytes item).host = s.host
      ∧ (sendOn s port ch tag bytes item).inp = s.inp ∧ (sendOn s port ch tag bytes item).ctl = s.ctl := by
  simp [sendOn]

/-- What `sendPieces` leaves as it was. -/
@[simp] theorem sendPieces_frame (s : State) (x : Run) (a phase step : Nat) (data : Bytes) :
    (sendPieces s x a phase step data).freeCtr = s.freeCtr ∧ (sendPieces s x a phase step data).boot = s.boot
      ∧ (sendPieces s x a phase step data).nv = s.nv ∧ (sendPieces s x a phase step data).sec = s.sec
      ∧ (sendPieces s x a phase step data).mem = s.mem ∧ (sendPieces s x a phase step data).pool = s.pool
      ∧ (sendPieces s x a phase step data).ctxs = s.ctxs ∧ (sendPieces s x a phase step data).video = s.video
      ∧ (sendPieces s x a phase step data).fab = s.fab ∧ (sendPieces s x a phase step data).sched = s.sched
      ∧ (sendPieces s x a phase step data).power = s.power ∧ (sendPieces s x a phase step data).host = s.host
      ∧ (sendPieces s x a phase step data).inp = s.inp ∧ (sendPieces s x a phase step data).ctl = s.ctl := by
  simp [sendPieces]

/-- What `startPhase` leaves as it was. -/
@[simp] theorem startPhase_frame (s : State) (x : Run) (c : Coll) (a : Nat) :
    (startPhase s x c a).freeCtr = s.freeCtr ∧ (startPhase s x c a).boot = s.boot ∧ (startPhase s x c a).nv = s.nv
      ∧ (startPhase s x c a).sec = s.sec ∧ (startPhase s x c a).mem = s.mem ∧ (startPhase s x c a).pool = s.pool
      ∧ (startPhase s x c a).ctxs = s.ctxs ∧ (startPhase s x c a).video = s.video ∧ (startPhase s x c a).fab = s.fab
      ∧ (startPhase s x c a).sched = s.sched ∧ (startPhase s x c a).power = s.power ∧ (startPhase s x c a).host = s.host
      ∧ (startPhase s x c a).inp = s.inp ∧ (startPhase s x c a).ctl = s.ctl := by
  simp [startPhase]

/-- What `countColl` leaves as it was. -/
@[simp] theorem countColl_frame (s : State) (x : Run) :
    (countColl s x).pending = s.pending ∧ (countColl s x).freeCtr = s.freeCtr ∧ (countColl s x).out = s.out
      ∧ (countColl s x).sclk = s.sclk ∧ (countColl s x).boot = s.boot ∧ (countColl s x).nv = s.nv ∧ (countColl s x).sec = s.sec
      ∧ (countColl s x).mem = s.mem ∧ (countColl s x).pool = s.pool ∧ (countColl s x).ctxs = s.ctxs ∧ (countColl s x).video = s.video
      ∧ (countColl s x).fab = s.fab ∧ (countColl s x).power = s.power ∧ (countColl s x).host = s.host ∧ (countColl s x).links = s.links
      ∧ (countColl s x).inp = s.inp ∧ (countColl s x).ctl = s.ctl := by
  simp [countColl]

/-- What `collDone` leaves as it was. -/
@[simp] theorem collDone_frame (s : State) (x : Run) :
    (collDone s x).pending = s.pending ∧ (collDone s x).sclk = s.sclk ∧ (collDone s x).boot = s.boot ∧ (collDone s x).nv = s.nv
      ∧ (collDone s x).sec = s.sec ∧ (collDone s x).mem = s.mem ∧ (collDone s x).pool = s.pool ∧ (collDone s x).ctxs = s.ctxs
      ∧ (collDone s x).video = s.video ∧ (collDone s x).power = s.power ∧ (collDone s x).host = s.host ∧ (collDone s x).inp = s.inp
      ∧ (collDone s x).ctl = s.ctl := by
  simp [collDone]

/-- What `lapseClaim` leaves as it was. -/
@[simp] theorem lapseClaim_frame (s : State) (req mop edge : Nat) :
    (lapseClaim s req mop edge).pending = s.pending ∧ (lapseClaim s req mop edge).freeCtr = s.freeCtr
      ∧ (lapseClaim s req mop edge).sclk = s.sclk ∧ (lapseClaim s req mop edge).boot = s.boot ∧ (lapseClaim s req mop edge).nv = s.nv
      ∧ (lapseClaim s req mop edge).sec = s.sec ∧ (lapseClaim s req mop edge).mem = s.mem ∧ (lapseClaim s req mop edge).pool = s.pool
      ∧ (lapseClaim s req mop edge).ctxs = s.ctxs ∧ (lapseClaim s req mop edge).video = s.video ∧ (lapseClaim s req mop edge).fab = s.fab
      ∧ (lapseClaim s req mop edge).sched = s.sched ∧ (lapseClaim s req mop edge).power = s.power
      ∧ (lapseClaim s req mop edge).inp = s.inp := by
  simp [lapseClaim]

/-- What `claimEdge` leaves as it was. -/
@[simp] theorem claimEdge_frame (s : State) (x : Run) (edge : Nat) :
    (claimEdge s x edge).pending = s.pending ∧ (claimEdge s x edge).freeCtr = s.freeCtr ∧ (claimEdge s x edge).sclk = s.sclk
      ∧ (claimEdge s x edge).boot = s.boot ∧ (claimEdge s x edge).nv = s.nv ∧ (claimEdge s x edge).sec = s.sec
      ∧ (claimEdge s x edge).mem = s.mem ∧ (claimEdge s x edge).pool = s.pool ∧ (claimEdge s x edge).ctxs = s.ctxs
      ∧ (claimEdge s x edge).video = s.video ∧ (claimEdge s x edge).fab = s.fab ∧ (claimEdge s x edge).sched = s.sched
      ∧ (claimEdge s x edge).power = s.power ∧ (claimEdge s x edge).inp = s.inp := by
  simp [claimEdge]

/-- What `latchLinks` leaves as it was. -/
@[simp] theorem latchLinks_frame (s : State) :
    (latchLinks s).pending = s.pending ∧ (latchLinks s).freeCtr = s.freeCtr ∧ (latchLinks s).out = s.out ∧ (latchLinks s).sclk = s.sclk
      ∧ (latchLinks s).boot = s.boot ∧ (latchLinks s).nv = s.nv ∧ (latchLinks s).sec = s.sec ∧ (latchLinks s).regs = s.regs
      ∧ (latchLinks s).mem = s.mem ∧ (latchLinks s).pool = s.pool ∧ (latchLinks s).ctxs = s.ctxs ∧ (latchLinks s).video = s.video
      ∧ (latchLinks s).fab = s.fab ∧ (latchLinks s).sched = s.sched ∧ (latchLinks s).power = s.power ∧ (latchLinks s).host = s.host
      ∧ (latchLinks s).inp = s.inp ∧ (latchLinks s).ctl = s.ctl := by
  simp [latchLinks]

/-- What `bellHop` leaves as it was. -/
@[simp] theorem bellHop_frame (s : State) (p coll a u : Nat) (up : Bool) (vals : List W32) :
    (bellHop s p coll a u up vals).pending = s.pending ∧ (bellHop s p coll a u up vals).freeCtr = s.freeCtr
      ∧ (bellHop s p coll a u up vals).sclk = s.sclk ∧ (bellHop s p coll a u up vals).boot = s.boot
      ∧ (bellHop s p coll a u up vals).nv = s.nv ∧ (bellHop s p coll a u up vals).sec = s.sec
      ∧ (bellHop s p coll a u up vals).mem = s.mem ∧ (bellHop s p coll a u up vals).pool = s.pool
      ∧ (bellHop s p coll a u up vals).ctxs = s.ctxs ∧ (bellHop s p coll a u up vals).video = s.video
      ∧ (bellHop s p coll a u up vals).fab = s.fab ∧ (bellHop s p coll a u up vals).sched = s.sched
      ∧ (bellHop s p coll a u up vals).power = s.power ∧ (bellHop s p coll a u up vals).host = s.host
      ∧ (bellHop s p coll a u up vals).links = s.links ∧ (bellHop s p coll a u up vals).inp = s.inp
      ∧ (bellHop s p coll a u up vals).ctl = s.ctl := by
  simp [bellHop]

/-- What `keepBell` leaves as it was. -/
@[simp] theorem keepBell_frame (s : State) (p coll a u : Nat) (vals : List W32) :
    (keepBell s p coll a u vals).pending = s.pending ∧ (keepBell s p coll a u vals).freeCtr = s.freeCtr
      ∧ (keepBell s p coll a u vals).out = s.out ∧ (keepBell s p coll a u vals).sclk = s.sclk
      ∧ (keepBell s p coll a u vals).boot = s.boot ∧ (keepBell s p coll a u vals).nv = s.nv ∧ (keepBell s p coll a u vals).sec = s.sec
      ∧ (keepBell s p coll a u vals).regs = s.regs ∧ (keepBell s p coll a u vals).mem = s.mem
      ∧ (keepBell s p coll a u vals).pool = s.pool ∧ (keepBell s p coll a u vals).ctxs = s.ctxs
      ∧ (keepBell s p coll a u vals).video = s.video ∧ (keepBell s p coll a u vals).fab = s.fab
      ∧ (keepBell s p coll a u vals).sched = s.sched ∧ (keepBell s p coll a u vals).power = s.power
      ∧ (keepBell s p coll a u vals).host = s.host ∧ (keepBell s p coll a u vals).inp = s.inp
      ∧ (keepBell s p coll a u vals).ctl = s.ctl := by
  simp [keepBell]

/-- What `dropLine` leaves as it was. -/
@[simp] theorem dropLine_frame (s : State) (p coll a : Nat) :
    (dropLine s p coll a).pending = s.pending ∧ (dropLine s p coll a).freeCtr = s.freeCtr ∧ (dropLine s p coll a).out = s.out
      ∧ (dropLine s p coll a).sclk = s.sclk ∧ (dropLine s p coll a).boot = s.boot ∧ (dropLine s p coll a).nv = s.nv
      ∧ (dropLine s p coll a).sec = s.sec ∧ (dropLine s p coll a).regs = s.regs ∧ (dropLine s p coll a).mem = s.mem
      ∧ (dropLine s p coll a).pool = s.pool ∧ (dropLine s p coll a).ctxs = s.ctxs ∧ (dropLine s p coll a).video = s.video
      ∧ (dropLine s p coll a).fab = s.fab ∧ (dropLine s p coll a).sched = s.sched ∧ (dropLine s p coll a).power = s.power
      ∧ (dropLine s p coll a).host = s.host ∧ (dropLine s p coll a).inp = s.inp ∧ (dropLine s p coll a).ctl = s.ctl := by
  simp [dropLine]

/-- What `startBell` leaves as it was. -/
@[simp] theorem startBell_frame (s : State) (x : Run) (c : Coll) (a : Nat) :
    (startBell s x c a).pending = s.pending ∧ (startBell s x c a).freeCtr = s.freeCtr ∧ (startBell s x c a).sclk = s.sclk
      ∧ (startBell s x c a).boot = s.boot ∧ (startBell s x c a).nv = s.nv ∧ (startBell s x c a).sec = s.sec
      ∧ (startBell s x c a).mem = s.mem ∧ (startBell s x c a).pool = s.pool ∧ (startBell s x c a).ctxs = s.ctxs
      ∧ (startBell s x c a).video = s.video ∧ (startBell s x c a).fab = s.fab ∧ (startBell s x c a).sched = s.sched
      ∧ (startBell s x c a).power = s.power ∧ (startBell s x c a).host = s.host ∧ (startBell s x c a).inp = s.inp
      ∧ (startBell s x c a).ctl = s.ctl := by
  simp [startBell]

/-- What `dropFlit` leaves as it was. -/
@[simp] theorem dropFlit_frame (s : State) :
    (dropFlit s).pending = s.pending ∧ (dropFlit s).freeCtr = s.freeCtr ∧ (dropFlit s).out = s.out ∧ (dropFlit s).sclk = s.sclk
      ∧ (dropFlit s).boot = s.boot ∧ (dropFlit s).nv = s.nv ∧ (dropFlit s).sec = s.sec ∧ (dropFlit s).mem = s.mem
      ∧ (dropFlit s).pool = s.pool ∧ (dropFlit s).ctxs = s.ctxs ∧ (dropFlit s).video = s.video ∧ (dropFlit s).fab = s.fab
      ∧ (dropFlit s).sched = s.sched ∧ (dropFlit s).power = s.power ∧ (dropFlit s).links = s.links ∧ (dropFlit s).inp = s.inp := by
  simp [dropFlit]

/-- What `earn` leaves as it was. -/
@[simp] theorem earn_frame (s : State) (id code : Nat) :
    (earn s id code).pending = s.pending ∧ (earn s id code).freeCtr = s.freeCtr ∧ (earn s id code).out = s.out
      ∧ (earn s id code).sclk = s.sclk ∧ (earn s id code).boot = s.boot ∧ (earn s id code).nv = s.nv ∧ (earn s id code).sec = s.sec
      ∧ (earn s id code).regs = s.regs ∧ (earn s id code).mem = s.mem ∧ (earn s id code).pool = s.pool ∧ (earn s id code).ctxs = s.ctxs
      ∧ (earn s id code).video = s.video ∧ (earn s id code).fab = s.fab ∧ (earn s id code).power = s.power
      ∧ (earn s id code).host = s.host ∧ (earn s id code).links = s.links ∧ (earn s id code).inp = s.inp
      ∧ (earn s id code).ctl = s.ctl := by
  simp [earn]

/-- What `countEntered` leaves as it was. -/
@[simp] theorem countEntered_frame (s : State) (gs : List Group) :
    (countEntered s gs).pending = s.pending ∧ (countEntered s gs).freeCtr = s.freeCtr ∧ (countEntered s gs).out = s.out
      ∧ (countEntered s gs).sclk = s.sclk ∧ (countEntered s gs).boot = s.boot ∧ (countEntered s gs).nv = s.nv
      ∧ (countEntered s gs).sec = s.sec ∧ (countEntered s gs).mem = s.mem ∧ (countEntered s gs).pool = s.pool
      ∧ (countEntered s gs).ctxs = s.ctxs ∧ (countEntered s gs).video = s.video ∧ (countEntered s gs).fab = s.fab
      ∧ (countEntered s gs).sched = s.sched ∧ (countEntered s gs).power = s.power ∧ (countEntered s gs).host = s.host
      ∧ (countEntered s gs).links = s.links ∧ (countEntered s gs).inp = s.inp ∧ (countEntered s gs).ctl = s.ctl := by
  simp [countEntered]

/-- What `enterGroups` leaves as it was. -/
@[simp] theorem enterGroups_frame (s : State) (x : Run) (rs : List Nat) :
    (enterGroups s x rs).pending = s.pending ∧ (enterGroups s x rs).freeCtr = s.freeCtr ∧ (enterGroups s x rs).out = s.out
      ∧ (enterGroups s x rs).sclk = s.sclk ∧ (enterGroups s x rs).boot = s.boot ∧ (enterGroups s x rs).nv = s.nv
      ∧ (enterGroups s x rs).sec = s.sec ∧ (enterGroups s x rs).mem = s.mem
      ∧ (enterGroups s x rs).pool = s.pool ∧ (enterGroups s x rs).ctxs = s.ctxs ∧ (enterGroups s x rs).video = s.video
      ∧ (enterGroups s x rs).power = s.power ∧ (enterGroups s x rs).host = s.host ∧ (enterGroups s x rs).links = s.links
      ∧ (enterGroups s x rs).inp = s.inp ∧ (enterGroups s x rs).ctl = s.ctl := by
  simp [enterGroups]

/-- What `trimKept` leaves as it was. -/
@[simp] theorem trimKept_frame (s : State) (cluster : Nat) :
    (trimKept s cluster).pending = s.pending ∧ (trimKept s cluster).freeCtr = s.freeCtr ∧ (trimKept s cluster).out = s.out
      ∧ (trimKept s cluster).sclk = s.sclk ∧ (trimKept s cluster).boot = s.boot ∧ (trimKept s cluster).nv = s.nv
      ∧ (trimKept s cluster).sec = s.sec ∧ (trimKept s cluster).regs = s.regs ∧ (trimKept s cluster).mem = s.mem
      ∧ (trimKept s cluster).pool = s.pool ∧ (trimKept s cluster).ctxs = s.ctxs ∧ (trimKept s cluster).video = s.video
      ∧ (trimKept s cluster).sched = s.sched ∧ (trimKept s cluster).power = s.power ∧ (trimKept s cluster).host = s.host
      ∧ (trimKept s cluster).links = s.links ∧ (trimKept s cluster).inp = s.inp ∧ (trimKept s cluster).ctl = s.ctl := by
  simp [trimKept]

/-- What `fetchChunk` leaves as it was. -/
@[simp] theorem fetchChunk_frame (g : Group) (cluster chunk : Nat) (s : State) (t : Strip) :
    (fetchChunk g cluster chunk s t).pending = s.pending ∧ (fetchChunk g cluster chunk s t).freeCtr = s.freeCtr
      ∧ (fetchChunk g cluster chunk s t).out = s.out ∧ (fetchChunk g cluster chunk s t).sclk = s.sclk
      ∧ (fetchChunk g cluster chunk s t).boot = s.boot ∧ (fetchChunk g cluster chunk s t).nv = s.nv
      ∧ (fetchChunk g cluster chunk s t).sec = s.sec ∧ (fetchChunk g cluster chunk s t).mem = s.mem
      ∧ (fetchChunk g cluster chunk s t).pool = s.pool ∧ (fetchChunk g cluster chunk s t).ctxs = s.ctxs
      ∧ (fetchChunk g cluster chunk s t).video = s.video ∧ (fetchChunk g cluster chunk s t).sched = s.sched
      ∧ (fetchChunk g cluster chunk s t).power = s.power ∧ (fetchChunk g cluster chunk s t).host = s.host
      ∧ (fetchChunk g cluster chunk s t).links = s.links ∧ (fetchChunk g cluster chunk s t).inp = s.inp
      ∧ (fetchChunk g cluster chunk s t).ctl = s.ctl := by
  simp [fetchChunk]

/-- What `fetchFor` leaves as it was. -/
@[simp] theorem fetchFor_frame (s : State) (u : UnitRun) :
    (fetchFor s u).pending = s.pending ∧ (fetchFor s u).freeCtr = s.freeCtr ∧ (fetchFor s u).out = s.out ∧ (fetchFor s u).sclk = s.sclk
      ∧ (fetchFor s u).boot = s.boot ∧ (fetchFor s u).nv = s.nv ∧ (fetchFor s u).sec = s.sec ∧ (fetchFor s u).mem = s.mem
      ∧ (fetchFor s u).pool = s.pool ∧ (fetchFor s u).ctxs = s.ctxs ∧ (fetchFor s u).video = s.video ∧ (fetchFor s u).sched = s.sched
      ∧ (fetchFor s u).power = s.power ∧ (fetchFor s u).host = s.host ∧ (fetchFor s u).links = s.links ∧ (fetchFor s u).inp = s.inp
      ∧ (fetchFor s u).ctl = s.ctl := by
  unfold fetchFor; (repeat' split) <;> simp

/-- What `sendChunk` leaves as it was. -/
@[simp] theorem sendChunk_frame (s : State) (p : Nat) (back : Bool) (h : TubHdr) (data : Bytes) :
    (sendChunk s p back h data).pending = s.pending ∧ (sendChunk s p back h data).freeCtr = s.freeCtr
      ∧ (sendChunk s p back h data).sclk = s.sclk ∧ (sendChunk s p back h data).boot = s.boot ∧ (sendChunk s p back h data).nv = s.nv
      ∧ (sendChunk s p back h data).sec = s.sec ∧ (sendChunk s p back h data).mem = s.mem ∧ (sendChunk s p back h data).pool = s.pool
      ∧ (sendChunk s p back h data).ctxs = s.ctxs ∧ (sendChunk s p back h data).video = s.video ∧ (sendChunk s p back h data).fab = s.fab
      ∧ (sendChunk s p back h data).sched = s.sched ∧ (sendChunk s p back h data).power = s.power
      ∧ (sendChunk s p back h data).host = s.host ∧ (sendChunk s p back h data).inp = s.inp ∧ (sendChunk s p back h data).ctl = s.ctl := by
  simp [sendChunk]

/-- What `modHaul` leaves as it was. -/
@[simp] theorem modHaul_frame (s : State) (p id : Nat) (f : Haul → Haul) :
    (modHaul s p id f).pending = s.pending ∧ (modHaul s p id f).freeCtr = s.freeCtr ∧ (modHaul s p id f).out = s.out
      ∧ (modHaul s p id f).sclk = s.sclk ∧ (modHaul s p id f).boot = s.boot ∧ (modHaul s p id f).nv = s.nv
      ∧ (modHaul s p id f).sec = s.sec ∧ (modHaul s p id f).regs = s.regs ∧ (modHaul s p id f).mem = s.mem
      ∧ (modHaul s p id f).pool = s.pool ∧ (modHaul s p id f).ctxs = s.ctxs ∧ (modHaul s p id f).video = s.video
      ∧ (modHaul s p id f).fab = s.fab ∧ (modHaul s p id f).sched = s.sched ∧ (modHaul s p id f).power = s.power
      ∧ (modHaul s p id f).host = s.host ∧ (modHaul s p id f).inp = s.inp ∧ (modHaul s p id f).ctl = s.ctl := by
  simp [modHaul]

/-- What `sendOwn` leaves as it was. -/
@[simp] theorem sendOwn_frame (s : State) (g : HaulGeo) (h : Haul) (c : Ctx) :
    (sendOwn s g h c).pending = s.pending ∧ (sendOwn s g h c).freeCtr = s.freeCtr ∧ (sendOwn s g h c).sclk = s.sclk
      ∧ (sendOwn s g h c).boot = s.boot ∧ (sendOwn s g h c).nv = s.nv ∧ (sendOwn s g h c).sec = s.sec ∧ (sendOwn s g h c).mem = s.mem
      ∧ (sendOwn s g h c).pool = s.pool ∧ (sendOwn s g h c).ctxs = s.ctxs ∧ (sendOwn s g h c).video = s.video
      ∧ (sendOwn s g h c).fab = s.fab ∧ (sendOwn s g h c).sched = s.sched ∧ (sendOwn s g h c).power = s.power
      ∧ (sendOwn s g h c).host = s.host ∧ (sendOwn s g h c).inp = s.inp ∧ (sendOwn s g h c).ctl = s.ctl := by
  simp [sendOwn]

/-- What `holdChunk` leaves as it was. -/
@[simp] theorem holdChunk_frame (s : State) (h : TubHdr) (data : Bytes) :
    (holdChunk s h data).pending = s.pending ∧ (holdChunk s h data).freeCtr = s.freeCtr ∧ (holdChunk s h data).out = s.out
      ∧ (holdChunk s h data).sclk = s.sclk ∧ (holdChunk s h data).boot = s.boot ∧ (holdChunk s h data).nv = s.nv
      ∧ (holdChunk s h data).sec = s.sec ∧ (holdChunk s h data).regs = s.regs ∧ (holdChunk s h data).mem = s.mem
      ∧ (holdChunk s h data).pool = s.pool ∧ (holdChunk s h data).ctxs = s.ctxs ∧ (holdChunk s h data).video = s.video
      ∧ (holdChunk s h data).fab = s.fab ∧ (holdChunk s h data).sched = s.sched ∧ (holdChunk s h data).power = s.power
      ∧ (holdChunk s h data).host = s.host ∧ (holdChunk s h data).inp = s.inp ∧ (holdChunk s h data).ctl = s.ctl := by
  simp [holdChunk]

/-- What `landChunk` leaves as it was. -/
@[simp] theorem landChunk_frame (s : State) (g : HaulGeo) (id : Nat) (mark : Nat × Nat × Nat) (va : Nat) (data : Bytes) :
    (landChunk s g id mark va data).pending = s.pending ∧ (landChunk s g id mark va data).freeCtr = s.freeCtr
      ∧ (landChunk s g id mark va data).out = s.out ∧ (landChunk s g id mark va data).sclk = s.sclk
      ∧ (landChunk s g id mark va data).boot = s.boot ∧ (landChunk s g id mark va data).nv = s.nv
      ∧ (landChunk s g id mark va data).sec = s.sec ∧ (landChunk s g id mark va data).pool = s.pool
      ∧ (landChunk s g id mark va data).ctxs = s.ctxs ∧ (landChunk s g id mark va data).video = s.video
      ∧ (landChunk s g id mark va data).fab = s.fab ∧ (landChunk s g id mark va data).sched = s.sched
      ∧ (landChunk s g id mark va data).power = s.power ∧ (landChunk s g id mark va data).host = s.host
      ∧ (landChunk s g id mark va data).inp = s.inp ∧ (landChunk s g id mark va data).ctl = s.ctl := by
  simp [landChunk]

/-- What `forwardChunk` leaves as it was. -/
@[simp] theorem forwardChunk_frame (s : State) (g : HaulGeo) (h : Haul) (dir j ch : Nat) :
    (forwardChunk s g h dir j ch).pending = s.pending ∧ (forwardChunk s g h dir j ch).freeCtr = s.freeCtr
      ∧ (forwardChunk s g h dir j ch).sclk = s.sclk ∧ (forwardChunk s g h dir j ch).boot = s.boot
      ∧ (forwardChunk s g h dir j ch).nv = s.nv ∧ (forwardChunk s g h dir j ch).sec = s.sec ∧ (forwardChunk s g h dir j ch).mem = s.mem
      ∧ (forwardChunk s g h dir j ch).pool = s.pool ∧ (forwardChunk s g h dir j ch).ctxs = s.ctxs
      ∧ (forwardChunk s g h dir j ch).video = s.video ∧ (forwardChunk s g h dir j ch).fab = s.fab
      ∧ (forwardChunk s g h dir j ch).sched = s.sched ∧ (forwardChunk s g h dir j ch).power = s.power
      ∧ (forwardChunk s g h dir j ch).host = s.host ∧ (forwardChunk s g h dir j ch).inp = s.inp
      ∧ (forwardChunk s g h dir j ch).ctl = s.ctl := by
  simp [forwardChunk]

/-- What `forwardDue` leaves as it was. -/
@[simp] theorem forwardDue_frame (s : State) (g : HaulGeo) (h : Haul) :
    (forwardDue s g h).freeCtr = s.freeCtr ∧ (forwardDue s g h).boot = s.boot ∧ (forwardDue s g h).nv = s.nv
      ∧ (forwardDue s g h).sec = s.sec ∧ (forwardDue s g h).mem = s.mem ∧ (forwardDue s g h).pool = s.pool
      ∧ (forwardDue s g h).ctxs = s.ctxs ∧ (forwardDue s g h).video = s.video ∧ (forwardDue s g h).fab = s.fab
      ∧ (forwardDue s g h).sched = s.sched ∧ (forwardDue s g h).power = s.power ∧ (forwardDue s g h).host = s.host
      ∧ (forwardDue s g h).inp = s.inp ∧ (forwardDue s g h).ctl = s.ctl := by
  simp [forwardDue]

/-- What `sendDone` leaves as it was. -/
@[simp] theorem sendDone_frame (s : State) (x : Run) (g : HaulGeo) :
    (sendDone s x g).pending = s.pending ∧ (sendDone s x g).out = s.out ∧ (sendDone s x g).sclk = s.sclk ∧ (sendDone s x g).boot = s.boot
      ∧ (sendDone s x g).nv = s.nv ∧ (sendDone s x g).sec = s.sec ∧ (sendDone s x g).mem = s.mem ∧ (sendDone s x g).pool = s.pool
      ∧ (sendDone s x g).ctxs = s.ctxs ∧ (sendDone s x g).video = s.video ∧ (sendDone s x g).power = s.power
      ∧ (sendDone s x g).host = s.host ∧ (sendDone s x g).links = s.links ∧ (sendDone s x g).inp = s.inp
      ∧ (sendDone s x g).ctl = s.ctl := by
  unfold sendDone; (repeat' split) <;> simp

/-- What `endHaul` leaves as it was. -/
@[simp] theorem endHaul_frame (s : State) (p id : Nat) :
    (endHaul s p id).pending = s.pending ∧ (endHaul s p id).freeCtr = s.freeCtr ∧ (endHaul s p id).out = s.out
      ∧ (endHaul s p id).sclk = s.sclk ∧ (endHaul s p id).boot = s.boot ∧ (endHaul s p id).nv = s.nv ∧ (endHaul s p id).sec = s.sec
      ∧ (endHaul s p id).mem = s.mem ∧ (endHaul s p id).pool = s.pool ∧ (endHaul s p id).ctxs = s.ctxs ∧ (endHaul s p id).video = s.video
      ∧ (endHaul s p id).fab = s.fab ∧ (endHaul s p id).sched = s.sched ∧ (endHaul s p id).power = s.power
      ∧ (endHaul s p id).host = s.host ∧ (endHaul s p id).inp = s.inp ∧ (endHaul s p id).ctl = s.ctl := by
  simp [endHaul]

/-- What `sendPfc` leaves as it was. -/
@[simp] theorem sendPfc_frame (xoff : Bool) (s : State) (p : Nat) :
    (sendPfc xoff s p).pending = s.pending ∧ (sendPfc xoff s p).freeCtr = s.freeCtr ∧ (sendPfc xoff s p).sclk = s.sclk
      ∧ (sendPfc xoff s p).boot = s.boot ∧ (sendPfc xoff s p).nv = s.nv ∧ (sendPfc xoff s p).sec = s.sec ∧ (sendPfc xoff s p).mem = s.mem
      ∧ (sendPfc xoff s p).pool = s.pool ∧ (sendPfc xoff s p).ctxs = s.ctxs ∧ (sendPfc xoff s p).video = s.video
      ∧ (sendPfc xoff s p).fab = s.fab ∧ (sendPfc xoff s p).sched = s.sched ∧ (sendPfc xoff s p).power = s.power
      ∧ (sendPfc xoff s p).links = s.links ∧ (sendPfc xoff s p).inp = s.inp ∧ (sendPfc xoff s p).ctl = s.ctl := by
  simp [sendPfc]

/-- What `pfcCheck` leaves as it was. -/
@[simp] theorem pfcCheck_frame (s : State) :
    (pfcCheck s).pending = s.pending ∧ (pfcCheck s).freeCtr = s.freeCtr ∧ (pfcCheck s).sclk = s.sclk ∧ (pfcCheck s).boot = s.boot
      ∧ (pfcCheck s).nv = s.nv ∧ (pfcCheck s).sec = s.sec ∧ (pfcCheck s).mem = s.mem ∧ (pfcCheck s).pool = s.pool
      ∧ (pfcCheck s).ctxs = s.ctxs ∧ (pfcCheck s).video = s.video ∧ (pfcCheck s).fab = s.fab ∧ (pfcCheck s).sched = s.sched
      ∧ (pfcCheck s).power = s.power ∧ (pfcCheck s).links = s.links ∧ (pfcCheck s).inp = s.inp ∧ (pfcCheck s).ctl = s.ctl := by
  simp [pfcCheck]

/-- What `takeBuf` leaves as it was. -/
@[simp] theorem takeBuf_frame (s : State) :
    (takeBuf s).pending = s.pending ∧ (takeBuf s).freeCtr = s.freeCtr ∧ (takeBuf s).sclk = s.sclk ∧ (takeBuf s).boot = s.boot
      ∧ (takeBuf s).nv = s.nv ∧ (takeBuf s).sec = s.sec ∧ (takeBuf s).mem = s.mem ∧ (takeBuf s).pool = s.pool ∧ (takeBuf s).ctxs = s.ctxs
      ∧ (takeBuf s).video = s.video ∧ (takeBuf s).fab = s.fab ∧ (takeBuf s).sched = s.sched ∧ (takeBuf s).power = s.power
      ∧ (takeBuf s).links = s.links ∧ (takeBuf s).inp = s.inp ∧ (takeBuf s).ctl = s.ctl := by
  simp [takeBuf]

/-- What `modJob` leaves as it was. -/
@[simp] theorem modJob_frame (s : State) (j : Job) (f : Job → Job) :
    (modJob s j f).pending = s.pending ∧ (modJob s j f).freeCtr = s.freeCtr ∧ (modJob s j f).out = s.out ∧ (modJob s j f).sclk = s.sclk
      ∧ (modJob s j f).boot = s.boot ∧ (modJob s j f).nv = s.nv ∧ (modJob s j f).sec = s.sec ∧ (modJob s j f).regs = s.regs
      ∧ (modJob s j f).mem = s.mem ∧ (modJob s j f).pool = s.pool ∧ (modJob s j f).ctxs = s.ctxs ∧ (modJob s j f).video = s.video
      ∧ (modJob s j f).fab = s.fab ∧ (modJob s j f).sched = s.sched ∧ (modJob s j f).power = s.power ∧ (modJob s j f).host = s.host
      ∧ (modJob s j f).links = s.links ∧ (modJob s j f).ctl = s.ctl := by
  simp [modJob]

/-- What `prepDone` leaves as it was. -/
@[simp] theorem prepDone_frame (s : State) (req mop : Nat) :
    (prepDone s req mop).pending = s.pending ∧ (prepDone s req mop).out = s.out ∧ (prepDone s req mop).sclk = s.sclk
      ∧ (prepDone s req mop).boot = s.boot ∧ (prepDone s req mop).nv = s.nv ∧ (prepDone s req mop).sec = s.sec
      ∧ (prepDone s req mop).mem = s.mem ∧ (prepDone s req mop).pool = s.pool ∧ (prepDone s req mop).ctxs = s.ctxs
      ∧ (prepDone s req mop).video = s.video ∧ (prepDone s req mop).power = s.power ∧ (prepDone s req mop).host = s.host
      ∧ (prepDone s req mop).links = s.links ∧ (prepDone s req mop).ctl = s.ctl := by
  unfold prepDone; (repeat' split) <;> simp

/-- What `modPos` leaves as it was. -/
@[simp] theorem modPos_frame (s : State) (req batch pos : Nat) (f : Pos → Pos) :
    (modPos s req batch pos f).pending = s.pending ∧ (modPos s req batch pos f).freeCtr = s.freeCtr
      ∧ (modPos s req batch pos f).out = s.out ∧ (modPos s req batch pos f).sclk = s.sclk ∧ (modPos s req batch pos f).boot = s.boot
      ∧ (modPos s req batch pos f).nv = s.nv ∧ (modPos s req batch pos f).sec = s.sec ∧ (modPos s req batch pos f).regs = s.regs
      ∧ (modPos s req batch pos f).mem = s.mem ∧ (modPos s req batch pos f).pool = s.pool ∧ (modPos s req batch pos f).ctxs = s.ctxs
      ∧ (modPos s req batch pos f).video = s.video ∧ (modPos s req batch pos f).fab = s.fab ∧ (modPos s req batch pos f).sched = s.sched
      ∧ (modPos s req batch pos f).power = s.power ∧ (modPos s req batch pos f).host = s.host
      ∧ (modPos s req batch pos f).links = s.links ∧ (modPos s req batch pos f).ctl = s.ctl := by
  simp [modPos]

/-- What `signalEntry` leaves as it was. -/
@[simp] theorem signalEntry_frame (s : State) (e : Nat) :
    (signalEntry s e).pending = s.pending ∧ (signalEntry s e).freeCtr = s.freeCtr ∧ (signalEntry s e).out = s.out
      ∧ (signalEntry s e).sclk = s.sclk ∧ (signalEntry s e).boot = s.boot ∧ (signalEntry s e).nv = s.nv ∧ (signalEntry s e).sec = s.sec
      ∧ (signalEntry s e).regs = s.regs ∧ (signalEntry s e).mem = s.mem ∧ (signalEntry s e).pool = s.pool
      ∧ (signalEntry s e).ctxs = s.ctxs ∧ (signalEntry s e).video = s.video ∧ (signalEntry s e).sched = s.sched
      ∧ (signalEntry s e).power = s.power ∧ (signalEntry s e).host = s.host ∧ (signalEntry s e).links = s.links
      ∧ (signalEntry s e).ctl = s.ctl := by
  unfold signalEntry; (repeat' split) <;> simp

/-- What `endJob` leaves as it was. -/
@[simp] theorem endJob_frame (s : State) (j : Job) :
    (endJob s j).pending = s.pending ∧ (endJob s j).out = s.out ∧ (endJob s j).sclk = s.sclk ∧ (endJob s j).boot = s.boot
      ∧ (endJob s j).nv = s.nv ∧ (endJob s j).sec = s.sec ∧ (endJob s j).mem = s.mem ∧ (endJob s j).pool = s.pool
      ∧ (endJob s j).ctxs = s.ctxs ∧ (endJob s j).video = s.video ∧ (endJob s j).power = s.power ∧ (endJob s j).links = s.links := by
  unfold endJob; (repeat' split) <;> simp <;> (repeat' split) <;> simp

/-- What `raiseLate` leaves as it was. -/
@[simp] theorem raiseLate_frame (n : Nat) (s : State) :
    (raiseLate n s).pending = s.pending ∧ (raiseLate n s).freeCtr = s.freeCtr ∧ (raiseLate n s).out = s.out
      ∧ (raiseLate n s).sclk = s.sclk ∧ (raiseLate n s).boot = s.boot ∧ (raiseLate n s).nv = s.nv ∧ (raiseLate n s).sec = s.sec
      ∧ (raiseLate n s).mem = s.mem ∧ (raiseLate n s).pool = s.pool ∧ (raiseLate n s).ctxs = s.ctxs ∧ (raiseLate n s).video = s.video
      ∧ (raiseLate n s).fab = s.fab ∧ (raiseLate n s).sched = s.sched ∧ (raiseLate n s).power = s.power ∧ (raiseLate n s).links = s.links
      ∧ (raiseLate n s).inp = s.inp := by
  simp [raiseLate]

/-- What `beginHold` leaves as it was. -/
@[simp] theorem beginHold_frame (s : State) (x : Run) :
    (beginHold s x).pending = s.pending ∧ (beginHold s x).freeCtr = s.freeCtr ∧ (beginHold s x).out = s.out
      ∧ (beginHold s x).sclk = s.sclk ∧ (beginHold s x).boot = s.boot ∧ (beginHold s x).nv = s.nv ∧ (beginHold s x).sec = s.sec
      ∧ (beginHold s x).regs = s.regs ∧ (beginHold s x).mem = s.mem ∧ (beginHold s x).pool = s.pool ∧ (beginHold s x).ctxs = s.ctxs
      ∧ (beginHold s x).video = s.video ∧ (beginHold s x).fab = s.fab ∧ (beginHold s x).sched = s.sched ∧ (beginHold s x).power = s.power
      ∧ (beginHold s x).host = s.host ∧ (beginHold s x).links = s.links ∧ (beginHold s x).ctl = s.ctl := by
  simp [beginHold]

/-- What `cancelJobs` leaves as it was. -/
@[simp] theorem cancelJobs_frame (s : State) (req batch : Nat) (qs : List Pos) :
    (cancelJobs s req batch qs).pending = s.pending ∧ (cancelJobs s req batch qs).out = s.out ∧ (cancelJobs s req batch qs).sclk = s.sclk
      ∧ (cancelJobs s req batch qs).boot = s.boot ∧ (cancelJobs s req batch qs).nv = s.nv ∧ (cancelJobs s req batch qs).sec = s.sec
      ∧ (cancelJobs s req batch qs).mem = s.mem ∧ (cancelJobs s req batch qs).pool = s.pool ∧ (cancelJobs s req batch qs).ctxs = s.ctxs
      ∧ (cancelJobs s req batch qs).video = s.video ∧ (cancelJobs s req batch qs).power = s.power
      ∧ (cancelJobs s req batch qs).host = s.host ∧ (cancelJobs s req batch qs).links = s.links
      ∧ (cancelJobs s req batch qs).ctl = s.ctl := by
  simp [cancelJobs]

/-- What `modBatch` leaves as it was. -/
@[simp] theorem modBatch_frame (s : State) (req va : Nat) (f : Batch → Batch) :
    (modBatch s req va f).pending = s.pending ∧ (modBatch s req va f).freeCtr = s.freeCtr ∧ (modBatch s req va f).out = s.out
      ∧ (modBatch s req va f).sclk = s.sclk ∧ (modBatch s req va f).boot = s.boot ∧ (modBatch s req va f).nv = s.nv
      ∧ (modBatch s req va f).sec = s.sec ∧ (modBatch s req va f).regs = s.regs ∧ (modBatch s req va f).mem = s.mem
      ∧ (modBatch s req va f).pool = s.pool ∧ (modBatch s req va f).ctxs = s.ctxs ∧ (modBatch s req va f).video = s.video
      ∧ (modBatch s req va f).fab = s.fab ∧ (modBatch s req va f).sched = s.sched ∧ (modBatch s req va f).power = s.power
      ∧ (modBatch s req va f).host = s.host ∧ (modBatch s req va f).links = s.links ∧ (modBatch s req va f).ctl = s.ctl := by
  simp [modBatch]

/-- What `settleStep` leaves as it was. -/
@[simp] theorem settleStep_frame (s : State) (x : Run) (r : BatchRec) (b : Batch) (k : Nat) (js : List (Nat × Nat)) (qs : List Pos) :
    (settleStep s x r b k js qs).out = s.out ∧ (settleStep s x r b k js qs).boot = s.boot ∧ (settleStep s x r b k js qs).nv = s.nv
      ∧ (settleStep s x r b k js qs).sec = s.sec ∧ (settleStep s x r b k js qs).mem = s.mem ∧ (settleStep s x r b k js qs).pool = s.pool
      ∧ (settleStep s x r b k js qs).video = s.video ∧ (settleStep s x r b k js qs).power = s.power
      ∧ (settleStep s x r b k js qs).links = s.links := by
  simp [settleStep]

/-- What `completeStep` leaves as it was. -/
@[simp] theorem completeStep_frame (s : State) (x : Run) :
    (completeStep s x).pending = s.pending ∧ (completeStep s x).freeCtr = s.freeCtr ∧ (completeStep s x).out = s.out
      ∧ (completeStep s x).sclk = s.sclk ∧ (completeStep s x).boot = s.boot ∧ (completeStep s x).nv = s.nv
      ∧ (completeStep s x).sec = s.sec ∧ (completeStep s x).mem = s.mem ∧ (completeStep s x).pool = s.pool
      ∧ (completeStep s x).ctxs = s.ctxs ∧ (completeStep s x).video = s.video ∧ (completeStep s x).fab = s.fab
      ∧ (completeStep s x).sched = s.sched ∧ (completeStep s x).power = s.power ∧ (completeStep s x).host = s.host
      ∧ (completeStep s x).links = s.links ∧ (completeStep s x).ctl = s.ctl := by
  simp [completeStep]

/-- What `badFrame` leaves as it was. -/
@[simp] theorem badFrame_frame (s : State) :
    (badFrame s).pending = s.pending ∧ (badFrame s).freeCtr = s.freeCtr ∧ (badFrame s).out = s.out ∧ (badFrame s).sclk = s.sclk
      ∧ (badFrame s).boot = s.boot ∧ (badFrame s).nv = s.nv ∧ (badFrame s).sec = s.sec ∧ (badFrame s).mem = s.mem
      ∧ (badFrame s).pool = s.pool ∧ (badFrame s).ctxs = s.ctxs ∧ (badFrame s).video = s.video ∧ (badFrame s).fab = s.fab
      ∧ (badFrame s).sched = s.sched ∧ (badFrame s).power = s.power ∧ (badFrame s).host = s.host ∧ (badFrame s).links = s.links
      ∧ (badFrame s).inp = s.inp ∧ (badFrame s).ctl = s.ctl := by
  simp [badFrame]

/-- What `sendAck` leaves as it was. -/
@[simp] theorem sendAck_frame (s : State) (i : Nat) :
    (sendAck s i).pending = s.pending ∧ (sendAck s i).freeCtr = s.freeCtr ∧ (sendAck s i).sclk = s.sclk ∧ (sendAck s i).boot = s.boot
      ∧ (sendAck s i).nv = s.nv ∧ (sendAck s i).sec = s.sec ∧ (sendAck s i).mem = s.mem ∧ (sendAck s i).pool = s.pool
      ∧ (sendAck s i).ctxs = s.ctxs ∧ (sendAck s i).video = s.video ∧ (sendAck s i).fab = s.fab ∧ (sendAck s i).sched = s.sched
      ∧ (sendAck s i).power = s.power ∧ (sendAck s i).links = s.links ∧ (sendAck s i).inp = s.inp ∧ (sendAck s i).ctl = s.ctl := by
  simp [sendAck]

/-- What `countRx` leaves as it was. -/
@[simp] theorem countRx_frame (s : State) (i : Nat) :
    (countRx s i).pending = s.pending ∧ (countRx s i).freeCtr = s.freeCtr ∧ (countRx s i).sclk = s.sclk ∧ (countRx s i).boot = s.boot
      ∧ (countRx s i).nv = s.nv ∧ (countRx s i).sec = s.sec ∧ (countRx s i).mem = s.mem ∧ (countRx s i).pool = s.pool
      ∧ (countRx s i).ctxs = s.ctxs ∧ (countRx s i).video = s.video ∧ (countRx s i).fab = s.fab ∧ (countRx s i).sched = s.sched
      ∧ (countRx s i).power = s.power ∧ (countRx s i).links = s.links ∧ (countRx s i).inp = s.inp ∧ (countRx s i).ctl = s.ctl := by
  simp [countRx]

/-- What `loseSess` leaves as it was. -/
@[simp] theorem loseSess_frame (s : State) (i : Nat) :
    (loseSess s i).pending = s.pending ∧ (loseSess s i).freeCtr = s.freeCtr ∧ (loseSess s i).out = s.out ∧ (loseSess s i).sclk = s.sclk
      ∧ (loseSess s i).boot = s.boot ∧ (loseSess s i).nv = s.nv ∧ (loseSess s i).sec = s.sec ∧ (loseSess s i).mem = s.mem
      ∧ (loseSess s i).pool = s.pool ∧ (loseSess s i).ctxs = s.ctxs ∧ (loseSess s i).video = s.video ∧ (loseSess s i).fab = s.fab
      ∧ (loseSess s i).sched = s.sched ∧ (loseSess s i).power = s.power ∧ (loseSess s i).links = s.links ∧ (loseSess s i).inp = s.inp := by
  simp [loseSess]

/-- What `resend` leaves as it was. -/
@[simp] theorem resend_frame (s : State) (i : Nat) (f : Sent) :
    (resend s i f).pending = s.pending ∧ (resend s i f).freeCtr = s.freeCtr ∧ (resend s i f).sclk = s.sclk ∧ (resend s i f).boot = s.boot
      ∧ (resend s i f).nv = s.nv ∧ (resend s i f).sec = s.sec ∧ (resend s i f).mem = s.mem ∧ (resend s i f).pool = s.pool
      ∧ (resend s i f).ctxs = s.ctxs ∧ (resend s i f).video = s.video ∧ (resend s i f).fab = s.fab ∧ (resend s i f).sched = s.sched
      ∧ (resend s i f).power = s.power ∧ (resend s i f).links = s.links ∧ (resend s i f).inp = s.inp := by
  simp [resend]

/-- What `takeAck` leaves as it was. -/
@[simp] theorem takeAck_frame (s : State) (i : Nat) (h : Hdr) :
    (takeAck s i h).pending = s.pending ∧ (takeAck s i h).freeCtr = s.freeCtr ∧ (takeAck s i h).sclk = s.sclk
      ∧ (takeAck s i h).boot = s.boot ∧ (takeAck s i h).nv = s.nv ∧ (takeAck s i h).sec = s.sec ∧ (takeAck s i h).mem = s.mem
      ∧ (takeAck s i h).pool = s.pool ∧ (takeAck s i h).ctxs = s.ctxs ∧ (takeAck s i h).video = s.video ∧ (takeAck s i h).fab = s.fab
      ∧ (takeAck s i h).sched = s.sched ∧ (takeAck s i h).power = s.power ∧ (takeAck s i h).links = s.links
      ∧ (takeAck s i h).inp = s.inp := by
  unfold takeAck; (repeat' split) <;> simp

/-- What `sendMsg` leaves as it was. -/
@[simp] theorem sendMsg_frame (s : State) (i type : Nat) (reply : Bool) (msg : Nat) (payload : Bytes) :
    (sendMsg s i type reply msg payload).pending = s.pending ∧ (sendMsg s i type reply msg payload).freeCtr = s.freeCtr
      ∧ (sendMsg s i type reply msg payload).sclk = s.sclk ∧ (sendMsg s i type reply msg payload).boot = s.boot
      ∧ (sendMsg s i type reply msg payload).nv = s.nv ∧ (sendMsg s i type reply msg payload).sec = s.sec
      ∧ (sendMsg s i type reply msg payload).mem = s.mem ∧ (sendMsg s i type reply msg payload).pool = s.pool
      ∧ (sendMsg s i type reply msg payload).ctxs = s.ctxs ∧ (sendMsg s i type reply msg payload).video = s.video
      ∧ (sendMsg s i type reply msg payload).fab = s.fab ∧ (sendMsg s i type reply msg payload).sched = s.sched
      ∧ (sendMsg s i type reply msg payload).power = s.power ∧ (sendMsg s i type reply msg payload).links = s.links
      ∧ (sendMsg s i type reply msg payload).inp = s.inp ∧ (sendMsg s i type reply msg payload).ctl = s.ctl := by
  simp [sendMsg]

/-- What `sendMemData` leaves as it was. -/
@[simp] theorem sendMemData_frame (s : State) (i msg part addr : Nat) (good : Bytes) (status : Nat) :
    (sendMemData s i msg part addr good status).pending = s.pending ∧ (sendMemData s i msg part addr good status).freeCtr = s.freeCtr
      ∧ (sendMemData s i msg part addr good status).sclk = s.sclk ∧ (sendMemData s i msg part addr good status).boot = s.boot
      ∧ (sendMemData s i msg part addr good status).nv = s.nv ∧ (sendMemData s i msg part addr good status).sec = s.sec
      ∧ (sendMemData s i msg part addr good status).mem = s.mem ∧ (sendMemData s i msg part addr good status).pool = s.pool
      ∧ (sendMemData s i msg part addr good status).ctxs = s.ctxs ∧ (sendMemData s i msg part addr good status).video = s.video
      ∧ (sendMemData s i msg part addr good status).fab = s.fab ∧ (sendMemData s i msg part addr good status).sched = s.sched
      ∧ (sendMemData s i msg part addr good status).power = s.power ∧ (sendMemData s i msg part addr good status).links = s.links
      ∧ (sendMemData s i msg part addr good status).inp = s.inp ∧ (sendMemData s i msg part addr good status).ctl = s.ctl := by
  simp [sendMemData]

/-- What `deliverMsg` leaves as it was. -/
@[simp] theorem deliverMsg_frame (s : State) (i : Nat) (m : Msg) :
    (deliverMsg s i m).pending = s.pending ∧ (deliverMsg s i m).freeCtr = s.freeCtr ∧ (deliverMsg s i m).sclk = s.sclk
      ∧ (deliverMsg s i m).boot = s.boot ∧ (deliverMsg s i m).nv = s.nv ∧ (deliverMsg s i m).sec = s.sec ∧ (deliverMsg s i m).mem = s.mem
      ∧ (deliverMsg s i m).pool = s.pool ∧ (deliverMsg s i m).ctxs = s.ctxs ∧ (deliverMsg s i m).video = s.video
      ∧ (deliverMsg s i m).fab = s.fab ∧ (deliverMsg s i m).sched = s.sched ∧ (deliverMsg s i m).power = s.power
      ∧ (deliverMsg s i m).links = s.links ∧ (deliverMsg s i m).inp = s.inp ∧ (deliverMsg s i m).ctl = s.ctl := by
  simp [deliverMsg]

/-- What `sendComplete` leaves as it was. -/
@[simp] theorem sendComplete_frame (s : State) (i slot : Nat) (payload : Bytes) :
    (sendComplete s i slot payload).pending = s.pending ∧ (sendComplete s i slot payload).freeCtr = s.freeCtr
      ∧ (sendComplete s i slot payload).sclk = s.sclk ∧ (sendComplete s i slot payload).boot = s.boot
      ∧ (sendComplete s i slot payload).nv = s.nv ∧ (sendComplete s i slot payload).sec = s.sec
      ∧ (sendComplete s i slot payload).mem = s.mem ∧ (sendComplete s i slot payload).pool = s.pool
      ∧ (sendComplete s i slot payload).ctxs = s.ctxs ∧ (sendComplete s i slot payload).video = s.video
      ∧ (sendComplete s i slot payload).fab = s.fab ∧ (sendComplete s i slot payload).sched = s.sched
      ∧ (sendComplete s i slot payload).power = s.power ∧ (sendComplete s i slot payload).links = s.links
      ∧ (sendComplete s i slot payload).inp = s.inp ∧ (sendComplete s i slot payload).ctl = s.ctl := by
  simp [sendComplete, takeMsg]

/-- What `submitEnds` leaves as it was. -/
@[simp] theorem submitEnds_frame (s : State) (i : Nat) (b : Bytes) (status : Nat) :
    (submitEnds s i b status).pending = s.pending ∧ (submitEnds s i b status).freeCtr = s.freeCtr
      ∧ (submitEnds s i b status).sclk = s.sclk ∧ (submitEnds s i b status).boot = s.boot ∧ (submitEnds s i b status).nv = s.nv
      ∧ (submitEnds s i b status).sec = s.sec ∧ (submitEnds s i b status).mem = s.mem ∧ (submitEnds s i b status).pool = s.pool
      ∧ (submitEnds s i b status).ctxs = s.ctxs ∧ (submitEnds s i b status).video = s.video ∧ (submitEnds s i b status).fab = s.fab
      ∧ (submitEnds s i b status).sched = s.sched ∧ (submitEnds s i b status).power = s.power ∧ (submitEnds s i b status).links = s.links
      ∧ (submitEnds s i b status).inp = s.inp ∧ (submitEnds s i b status).ctl = s.ctl := by
  simp [submitEnds]

/-- What `submitWhole` leaves as it was. -/
@[simp] theorem submitWhole_frame (s : State) (i : Nat) (a : Asm) :
    (submitWhole s i a).pending = s.pending ∧ (submitWhole s i a).freeCtr = s.freeCtr ∧ (submitWhole s i a).sclk = s.sclk
      ∧ (submitWhole s i a).boot = s.boot ∧ (submitWhole s i a).nv = s.nv ∧ (submitWhole s i a).sec = s.sec
      ∧ (submitWhole s i a).mem = s.mem ∧ (submitWhole s i a).pool = s.pool ∧ (submitWhole s i a).ctxs = s.ctxs
      ∧ (submitWhole s i a).video = s.video ∧ (submitWhole s i a).fab = s.fab ∧ (submitWhole s i a).power = s.power
      ∧ (submitWhole s i a).links = s.links ∧ (submitWhole s i a).inp = s.inp ∧ (submitWhole s i a).ctl = s.ctl := by
  simp [submitWhole]

/-- What `refuseOpen` leaves as it was. -/
@[simp] theorem refuseOpen_frame (s : State) (e : Envelope) (i reason : Nat) :
    (refuseOpen s e i reason).pending = s.pending ∧ (refuseOpen s e i reason).freeCtr = s.freeCtr
      ∧ (refuseOpen s e i reason).sclk = s.sclk ∧ (refuseOpen s e i reason).boot = s.boot ∧ (refuseOpen s e i reason).nv = s.nv
      ∧ (refuseOpen s e i reason).sec = s.sec ∧ (refuseOpen s e i reason).mem = s.mem ∧ (refuseOpen s e i reason).pool = s.pool
      ∧ (refuseOpen s e i reason).ctxs = s.ctxs ∧ (refuseOpen s e i reason).video = s.video ∧ (refuseOpen s e i reason).fab = s.fab
      ∧ (refuseOpen s e i reason).sched = s.sched ∧ (refuseOpen s e i reason).power = s.power ∧ (refuseOpen s e i reason).links = s.links
      ∧ (refuseOpen s e i reason).inp = s.inp := by
  simp [refuseOpen]

/-- What `sendChallenge` leaves as it was. -/
@[simp] theorem sendChallenge_frame (s : State) (i : Nat) (o : Opening) :
    (sendChallenge s i o).pending = s.pending ∧ (sendChallenge s i o).freeCtr = s.freeCtr ∧ (sendChallenge s i o).sclk = s.sclk
      ∧ (sendChallenge s i o).boot = s.boot ∧ (sendChallenge s i o).nv = s.nv ∧ (sendChallenge s i o).sec = s.sec
      ∧ (sendChallenge s i o).regs = s.regs ∧ (sendChallenge s i o).mem = s.mem ∧ (sendChallenge s i o).pool = s.pool
      ∧ (sendChallenge s i o).ctxs = s.ctxs ∧ (sendChallenge s i o).video = s.video ∧ (sendChallenge s i o).fab = s.fab
      ∧ (sendChallenge s i o).sched = s.sched ∧ (sendChallenge s i o).power = s.power ∧ (sendChallenge s i o).host = s.host
      ∧ (sendChallenge s i o).links = s.links ∧ (sendChallenge s i o).inp = s.inp ∧ (sendChallenge s i o).ctl = s.ctl := by
  simp [sendChallenge]

/-- What `sendAccept` leaves as it was. -/
@[simp] theorem sendAccept_frame (s : State) (i : Nat) :
    (sendAccept s i).pending = s.pending ∧ (sendAccept s i).freeCtr = s.freeCtr ∧ (sendAccept s i).sclk = s.sclk
      ∧ (sendAccept s i).boot = s.boot ∧ (sendAccept s i).nv = s.nv ∧ (sendAccept s i).sec = s.sec ∧ (sendAccept s i).regs = s.regs
      ∧ (sendAccept s i).mem = s.mem ∧ (sendAccept s i).pool = s.pool ∧ (sendAccept s i).ctxs = s.ctxs ∧ (sendAccept s i).video = s.video
      ∧ (sendAccept s i).fab = s.fab ∧ (sendAccept s i).sched = s.sched ∧ (sendAccept s i).power = s.power
      ∧ (sendAccept s i).host = s.host ∧ (sendAccept s i).links = s.links ∧ (sendAccept s i).inp = s.inp
      ∧ (sendAccept s i).ctl = s.ctl := by
  simp [sendAccept]

/-- What `acceptSess` leaves as it was. -/
@[simp] theorem acceptSess_frame (s : State) (i : Nat) (o : Opening) :
    (acceptSess s i o).pending = s.pending ∧ (acceptSess s i o).freeCtr = s.freeCtr ∧ (acceptSess s i o).sclk = s.sclk
      ∧ (acceptSess s i o).boot = s.boot ∧ (acceptSess s i o).nv = s.nv ∧ (acceptSess s i o).sec = s.sec ∧ (acceptSess s i o).mem = s.mem
      ∧ (acceptSess s i o).pool = s.pool ∧ (acceptSess s i o).ctxs = s.ctxs ∧ (acceptSess s i o).video = s.video
      ∧ (acceptSess s i o).fab = s.fab ∧ (acceptSess s i o).sched = s.sched ∧ (acceptSess s i o).power = s.power
      ∧ (acceptSess s i o).links = s.links ∧ (acceptSess s i o).inp = s.inp := by
  simp [acceptSess]

/-- What `stageCoats` leaves as it was. -/
@[simp] theorem stageCoats_frame (s : State) (x : Run) :
    (stageCoats s x).pending = s.pending ∧ (stageCoats s x).out = s.out ∧ (stageCoats s x).sclk = s.sclk ∧ (stageCoats s x).boot = s.boot
      ∧ (stageCoats s x).nv = s.nv ∧ (stageCoats s x).sec = s.sec ∧ (stageCoats s x).mem = s.mem ∧ (stageCoats s x).pool = s.pool
      ∧ (stageCoats s x).ctxs = s.ctxs ∧ (stageCoats s x).video = s.video ∧ (stageCoats s x).fab = s.fab
      ∧ (stageCoats s x).power = s.power ∧ (stageCoats s x).host = s.host ∧ (stageCoats s x).links = s.links
      ∧ (stageCoats s x).inp = s.inp ∧ (stageCoats s x).ctl = s.ctl := by
  simp [stageCoats]

/-- What `swapAt` leaves as it was. -/
@[simp] theorem swapAt_frame (s : State) (p req idx : Nat) :
    (swapAt s p req idx).pending = s.pending ∧ (swapAt s p req idx).freeCtr = s.freeCtr ∧ (swapAt s p req idx).out = s.out
      ∧ (swapAt s p req idx).sclk = s.sclk ∧ (swapAt s p req idx).boot = s.boot ∧ (swapAt s p req idx).nv = s.nv
      ∧ (swapAt s p req idx).sec = s.sec ∧ (swapAt s p req idx).regs = s.regs ∧ (swapAt s p req idx).mem = s.mem
      ∧ (swapAt s p req idx).pool = s.pool ∧ (swapAt s p req idx).ctxs = s.ctxs ∧ (swapAt s p req idx).video = s.video
      ∧ (swapAt s p req idx).sched = s.sched ∧ (swapAt s p req idx).power = s.power ∧ (swapAt s p req idx).host = s.host
      ∧ (swapAt s p req idx).links = s.links ∧ (swapAt s p req idx).inp = s.inp ∧ (swapAt s p req idx).ctl = s.ctl := by
  simp [swapAt]

/-- What `passEmpty` leaves as it was. -/
@[simp] theorem passEmpty_frame (s : State) (req i : Nat) :
    (passEmpty s req i).pending = s.pending ∧ (passEmpty s req i).freeCtr = s.freeCtr ∧ (passEmpty s req i).out = s.out
      ∧ (passEmpty s req i).sclk = s.sclk ∧ (passEmpty s req i).boot = s.boot ∧ (passEmpty s req i).nv = s.nv
      ∧ (passEmpty s req i).sec = s.sec ∧ (passEmpty s req i).regs = s.regs ∧ (passEmpty s req i).mem = s.mem
      ∧ (passEmpty s req i).pool = s.pool ∧ (passEmpty s req i).ctxs = s.ctxs ∧ (passEmpty s req i).video = s.video
      ∧ (passEmpty s req i).fab = s.fab ∧ (passEmpty s req i).power = s.power ∧ (passEmpty s req i).host = s.host
      ∧ (passEmpty s req i).links = s.links ∧ (passEmpty s req i).inp = s.inp ∧ (passEmpty s req i).ctl = s.ctl := by
  unfold passEmpty; (repeat' split) <;> simp

/-- What `askLeave` leaves as it was. -/
@[simp] theorem askLeave_frame (s : State) (r : Request) (idx : Nat) :
    (askLeave s r idx).pending = s.pending ∧ (askLeave s r idx).freeCtr = s.freeCtr ∧ (askLeave s r idx).out = s.out
      ∧ (askLeave s r idx).sclk = s.sclk ∧ (askLeave s r idx).boot = s.boot ∧ (askLeave s r idx).nv = s.nv
      ∧ (askLeave s r idx).sec = s.sec ∧ (askLeave s r idx).regs = s.regs ∧ (askLeave s r idx).mem = s.mem
      ∧ (askLeave s r idx).pool = s.pool ∧ (askLeave s r idx).ctxs = s.ctxs ∧ (askLeave s r idx).video = s.video
      ∧ (askLeave s r idx).fab = s.fab ∧ (askLeave s r idx).sched = s.sched ∧ (askLeave s r idx).host = s.host
      ∧ (askLeave s r idx).links = s.links ∧ (askLeave s r idx).inp = s.inp ∧ (askLeave s r idx).ctl = s.ctl := by
  simp [askLeave]

/-- What `modLeave` leaves as it was. -/
@[simp] theorem modLeave_frame (s : State) (req mop : Nat) (f : Leave → Leave) :
    (modLeave s req mop f).pending = s.pending ∧ (modLeave s req mop f).freeCtr = s.freeCtr ∧ (modLeave s req mop f).out = s.out
      ∧ (modLeave s req mop f).sclk = s.sclk ∧ (modLeave s req mop f).boot = s.boot ∧ (modLeave s req mop f).nv = s.nv
      ∧ (modLeave s req mop f).sec = s.sec ∧ (modLeave s req mop f).regs = s.regs ∧ (modLeave s req mop f).mem = s.mem
      ∧ (modLeave s req mop f).pool = s.pool ∧ (modLeave s req mop f).ctxs = s.ctxs ∧ (modLeave s req mop f).video = s.video
      ∧ (modLeave s req mop f).fab = s.fab ∧ (modLeave s req mop f).sched = s.sched ∧ (modLeave s req mop f).host = s.host
      ∧ (modLeave s req mop f).links = s.links ∧ (modLeave s req mop f).inp = s.inp ∧ (modLeave s req mop f).ctl = s.ctl := by
  simp [modLeave]

/-- What `grantLeave` leaves as it was. -/
@[simp] theorem grantLeave_frame (s : State) (l : Leave) (rs : List Nat) :
    (grantLeave s l rs).pending = s.pending ∧ (grantLeave s l rs).freeCtr = s.freeCtr ∧ (grantLeave s l rs).out = s.out
      ∧ (grantLeave s l rs).sclk = s.sclk ∧ (grantLeave s l rs).boot = s.boot ∧ (grantLeave s l rs).nv = s.nv
      ∧ (grantLeave s l rs).sec = s.sec ∧ (grantLeave s l rs).mem = s.mem ∧ (grantLeave s l rs).pool = s.pool
      ∧ (grantLeave s l rs).ctxs = s.ctxs ∧ (grantLeave s l rs).video = s.video ∧ (grantLeave s l rs).fab = s.fab
      ∧ (grantLeave s l rs).sched = s.sched ∧ (grantLeave s l rs).host = s.host ∧ (grantLeave s l rs).links = s.links
      ∧ (grantLeave s l rs).inp = s.inp := by
  unfold grantLeave; (repeat' split) <;> simp <;> (repeat' split) <;> simp

/-- What `endHaulOf` leaves as it was. -/
@[simp] theorem endHaulOf_frame (s : State) (x : Run) :
    (endHaulOf s x).pending = s.pending ∧ (endHaulOf s x).freeCtr = s.freeCtr ∧ (endHaulOf s x).out = s.out
      ∧ (endHaulOf s x).sclk = s.sclk ∧ (endHaulOf s x).boot = s.boot ∧ (endHaulOf s x).nv = s.nv ∧ (endHaulOf s x).sec = s.sec
      ∧ (endHaulOf s x).mem = s.mem ∧ (endHaulOf s x).pool = s.pool ∧ (endHaulOf s x).ctxs = s.ctxs ∧ (endHaulOf s x).video = s.video
      ∧ (endHaulOf s x).fab = s.fab ∧ (endHaulOf s x).sched = s.sched ∧ (endHaulOf s x).power = s.power ∧ (endHaulOf s x).host = s.host
      ∧ (endHaulOf s x).inp = s.inp ∧ (endHaulOf s x).ctl = s.ctl := by
  simp [endHaulOf]

/-- What `releaseLeave` leaves as it was. -/
@[simp] theorem releaseLeave_frame (s : State) (req mop : Nat) :
    (releaseLeave s req mop).pending = s.pending ∧ (releaseLeave s req mop).freeCtr = s.freeCtr ∧ (releaseLeave s req mop).out = s.out
      ∧ (releaseLeave s req mop).sclk = s.sclk ∧ (releaseLeave s req mop).boot = s.boot ∧ (releaseLeave s req mop).nv = s.nv
      ∧ (releaseLeave s req mop).sec = s.sec ∧ (releaseLeave s req mop).mem = s.mem ∧ (releaseLeave s req mop).pool = s.pool
      ∧ (releaseLeave s req mop).ctxs = s.ctxs ∧ (releaseLeave s req mop).video = s.video ∧ (releaseLeave s req mop).fab = s.fab
      ∧ (releaseLeave s req mop).sched = s.sched ∧ (releaseLeave s req mop).host = s.host ∧ (releaseLeave s req mop).links = s.links
      ∧ (releaseLeave s req mop).inp = s.inp ∧ (releaseLeave s req mop).ctl = s.ctl := by
  simp [releaseLeave]

/-- What `dropKept` leaves as it was. -/
@[simp] theorem dropKept_frame (s : State) (req mop : Nat) :
    (dropKept s req mop).pending = s.pending ∧ (dropKept s req mop).freeCtr = s.freeCtr ∧ (dropKept s req mop).out = s.out
      ∧ (dropKept s req mop).sclk = s.sclk ∧ (dropKept s req mop).boot = s.boot ∧ (dropKept s req mop).nv = s.nv
      ∧ (dropKept s req mop).sec = s.sec ∧ (dropKept s req mop).regs = s.regs ∧ (dropKept s req mop).mem = s.mem
      ∧ (dropKept s req mop).pool = s.pool ∧ (dropKept s req mop).ctxs = s.ctxs ∧ (dropKept s req mop).video = s.video
      ∧ (dropKept s req mop).sched = s.sched ∧ (dropKept s req mop).power = s.power ∧ (dropKept s req mop).host = s.host
      ∧ (dropKept s req mop).links = s.links ∧ (dropKept s req mop).inp = s.inp ∧ (dropKept s req mop).ctl = s.ctl := by
  simp [dropKept]

/-- What `bringup` leaves as it was. -/
@[simp] theorem bringup_frame (s : State) (port : Nat) (f : BringupFacts) :
    (bringup s port f).pending = s.pending ∧ (bringup s port f).freeCtr = s.freeCtr ∧ (bringup s port f).sclk = s.sclk
      ∧ (bringup s port f).boot = s.boot ∧ (bringup s port f).nv = s.nv ∧ (bringup s port f).sec = s.sec ∧ (bringup s port f).mem = s.mem
      ∧ (bringup s port f).pool = s.pool ∧ (bringup s port f).ctxs = s.ctxs ∧ (bringup s port f).video = s.video
      ∧ (bringup s port f).fab = s.fab ∧ (bringup s port f).sched = s.sched ∧ (bringup s port f).power = s.power
      ∧ (bringup s port f).inp = s.inp := by
  simp [bringup]

/-- What `routeFlit` leaves as it was. -/
@[simp] theorem routeFlit_frame (s : State) (port : Nat) (f : Flit) :
    (routeFlit s port f).pending = s.pending ∧ (routeFlit s port f).sclk = s.sclk ∧ (routeFlit s port f).boot = s.boot
      ∧ (routeFlit s port f).nv = s.nv ∧ (routeFlit s port f).sec = s.sec ∧ (routeFlit s port f).mem = s.mem
      ∧ (routeFlit s port f).pool = s.pool ∧ (routeFlit s port f).ctxs = s.ctxs ∧ (routeFlit s port f).video = s.video
      ∧ (routeFlit s port f).fab = s.fab ∧ (routeFlit s port f).sched = s.sched ∧ (routeFlit s port f).power = s.power
      ∧ (routeFlit s port f).inp = s.inp := by
  unfold routeFlit; (repeat' split) <;> simp

/-- What `giveCredits` leaves as it was. -/
@[simp] theorem giveCredits_frame (s : State) (port : Nat) (n : List Nat) :
    (giveCredits s port n).pending = s.pending ∧ (giveCredits s port n).freeCtr = s.freeCtr ∧ (giveCredits s port n).sclk = s.sclk
      ∧ (giveCredits s port n).boot = s.boot ∧ (giveCredits s port n).nv = s.nv ∧ (giveCredits s port n).sec = s.sec
      ∧ (giveCredits s port n).mem = s.mem ∧ (giveCredits s port n).pool = s.pool ∧ (giveCredits s port n).ctxs = s.ctxs
      ∧ (giveCredits s port n).video = s.video ∧ (giveCredits s port n).fab = s.fab ∧ (giveCredits s port n).sched = s.sched
      ∧ (giveCredits s port n).power = s.power ∧ (giveCredits s port n).host = s.host ∧ (giveCredits s port n).inp = s.inp
      ∧ (giveCredits s port n).ctl = s.ctl := by
  simp [giveCredits]

/-- What `flitCame` leaves as it was. -/
@[simp] theorem flitCame_frame (s : State) (port ch : Nat) :
    (flitCame s port ch).pending = s.pending ∧ (flitCame s port ch).freeCtr = s.freeCtr ∧ (flitCame s port ch).out = s.out
      ∧ (flitCame s port ch).sclk = s.sclk ∧ (flitCame s port ch).boot = s.boot ∧ (flitCame s port ch).nv = s.nv
      ∧ (flitCame s port ch).sec = s.sec ∧ (flitCame s port ch).regs = s.regs ∧ (flitCame s port ch).mem = s.mem
      ∧ (flitCame s port ch).pool = s.pool ∧ (flitCame s port ch).ctxs = s.ctxs ∧ (flitCame s port ch).video = s.video
      ∧ (flitCame s port ch).fab = s.fab ∧ (flitCame s port ch).sched = s.sched ∧ (flitCame s port ch).power = s.power
      ∧ (flitCame s port ch).host = s.host ∧ (flitCame s port ch).inp = s.inp ∧ (flitCame s port ch).ctl = s.ctl := by
  simp [flitCame]

/-- What `testBegins` leaves as it was. -/
@[simp] theorem testBegins_frame (s : State) (r k : Nat) :
    (testBegins s r k).pending = s.pending ∧ (testBegins s r k).freeCtr = s.freeCtr ∧ (testBegins s r k).out = s.out
      ∧ (testBegins s r k).sclk = s.sclk ∧ (testBegins s r k).boot = s.boot ∧ (testBegins s r k).nv = s.nv
      ∧ (testBegins s r k).sec = s.sec ∧ (testBegins s r k).mem = s.mem ∧ (testBegins s r k).pool = s.pool
      ∧ (testBegins s r k).ctxs = s.ctxs ∧ (testBegins s r k).video = s.video ∧ (testBegins s r k).sched = s.sched
      ∧ (testBegins s r k).power = s.power ∧ (testBegins s r k).host = s.host ∧ (testBegins s r k).links = s.links
      ∧ (testBegins s r k).inp = s.inp ∧ (testBegins s r k).ctl = s.ctl := by
  simp [testBegins]

/-- What `cancelEvictions` leaves as it was. -/
@[simp] theorem cancelEvictions_frame (s : State) (p : Nat) :
    (cancelEvictions s p).pending = s.pending ∧ (cancelEvictions s p).freeCtr = s.freeCtr ∧ (cancelEvictions s p).out = s.out
      ∧ (cancelEvictions s p).sclk = s.sclk ∧ (cancelEvictions s p).boot = s.boot ∧ (cancelEvictions s p).nv = s.nv
      ∧ (cancelEvictions s p).sec = s.sec ∧ (cancelEvictions s p).regs = s.regs ∧ (cancelEvictions s p).mem = s.mem
      ∧ (cancelEvictions s p).ctxs = s.ctxs ∧ (cancelEvictions s p).video = s.video ∧ (cancelEvictions s p).fab = s.fab
      ∧ (cancelEvictions s p).sched = s.sched ∧ (cancelEvictions s p).power = s.power ∧ (cancelEvictions s p).host = s.host
      ∧ (cancelEvictions s p).links = s.links ∧ (cancelEvictions s p).inp = s.inp ∧ (cancelEvictions s p).ctl = s.ctl := by
  simp [cancelEvictions]

/-- What `modPtes` leaves as it was. -/
@[simp] theorem modPtes_frame (es : List Pte) (f : Pte → Pte) (s : State) :
    (modPtes es f s).pending = s.pending ∧ (modPtes es f s).freeCtr = s.freeCtr ∧ (modPtes es f s).out = s.out
      ∧ (modPtes es f s).sclk = s.sclk ∧ (modPtes es f s).boot = s.boot ∧ (modPtes es f s).nv = s.nv ∧ (modPtes es f s).sec = s.sec
      ∧ (modPtes es f s).regs = s.regs ∧ (modPtes es f s).mem = s.mem ∧ (modPtes es f s).ctxs = s.ctxs ∧ (modPtes es f s).video = s.video
      ∧ (modPtes es f s).fab = s.fab ∧ (modPtes es f s).sched = s.sched ∧ (modPtes es f s).power = s.power
      ∧ (modPtes es f s).host = s.host ∧ (modPtes es f s).links = s.links ∧ (modPtes es f s).inp = s.inp
      ∧ (modPtes es f s).ctl = s.ctl := by
  simp [modPtes]

/-- What `addPte` leaves as it was. -/
@[simp] theorem addPte_frame (s : State) (e : Pte) :
    (addPte s e).pending = s.pending ∧ (addPte s e).freeCtr = s.freeCtr ∧ (addPte s e).out = s.out ∧ (addPte s e).sclk = s.sclk
      ∧ (addPte s e).boot = s.boot ∧ (addPte s e).nv = s.nv ∧ (addPte s e).sec = s.sec ∧ (addPte s e).regs = s.regs
      ∧ (addPte s e).mem = s.mem ∧ (addPte s e).ctxs = s.ctxs ∧ (addPte s e).video = s.video ∧ (addPte s e).fab = s.fab
      ∧ (addPte s e).sched = s.sched ∧ (addPte s e).power = s.power ∧ (addPte s e).host = s.host ∧ (addPte s e).links = s.links
      ∧ (addPte s e).inp = s.inp ∧ (addPte s e).ctl = s.ctl := by
  simp [addPte]

/-- What `countShoot` leaves as it was. -/
@[simp] theorem countShoot_frame (s : State) :
    (countShoot s).pending = s.pending ∧ (countShoot s).freeCtr = s.freeCtr ∧ (countShoot s).out = s.out ∧ (countShoot s).sclk = s.sclk
      ∧ (countShoot s).boot = s.boot ∧ (countShoot s).nv = s.nv ∧ (countShoot s).sec = s.sec ∧ (countShoot s).mem = s.mem
      ∧ (countShoot s).pool = s.pool ∧ (countShoot s).ctxs = s.ctxs ∧ (countShoot s).video = s.video ∧ (countShoot s).fab = s.fab
      ∧ (countShoot s).sched = s.sched ∧ (countShoot s).power = s.power ∧ (countShoot s).host = s.host ∧ (countShoot s).links = s.links
      ∧ (countShoot s).inp = s.inp ∧ (countShoot s).ctl = s.ctl := by
  simp [countShoot]

/-- What `setPaceP` leaves as it was. -/
@[simp] theorem setPaceP_frame (s : State) (d v : Nat) :
    (setPaceP s d v).pending = s.pending ∧ (setPaceP s d v).freeCtr = s.freeCtr ∧ (setPaceP s d v).out = s.out
      ∧ (setPaceP s d v).sclk = s.sclk ∧ (setPaceP s d v).boot = s.boot ∧ (setPaceP s d v).nv = s.nv ∧ (setPaceP s d v).sec = s.sec
      ∧ (setPaceP s d v).mem = s.mem ∧ (setPaceP s d v).pool = s.pool ∧ (setPaceP s d v).ctxs = s.ctxs ∧ (setPaceP s d v).video = s.video
      ∧ (setPaceP s d v).fab = s.fab ∧ (setPaceP s d v).sched = s.sched ∧ (setPaceP s d v).power = s.power
      ∧ (setPaceP s d v).host = s.host ∧ (setPaceP s d v).links = s.links ∧ (setPaceP s d v).inp = s.inp
      ∧ (setPaceP s d v).ctl = s.ctl := by
  simp [setPaceP]

/-- What `setPaceT` leaves as it was. -/
@[simp] theorem setPaceT_frame (s : State) (d v : Nat) :
    (setPaceT s d v).pending = s.pending ∧ (setPaceT s d v).freeCtr = s.freeCtr ∧ (setPaceT s d v).out = s.out
      ∧ (setPaceT s d v).sclk = s.sclk ∧ (setPaceT s d v).boot = s.boot ∧ (setPaceT s d v).nv = s.nv ∧ (setPaceT s d v).sec = s.sec
      ∧ (setPaceT s d v).mem = s.mem ∧ (setPaceT s d v).pool = s.pool ∧ (setPaceT s d v).ctxs = s.ctxs ∧ (setPaceT s d v).video = s.video
      ∧ (setPaceT s d v).fab = s.fab ∧ (setPaceT s d v).sched = s.sched ∧ (setPaceT s d v).power = s.power
      ∧ (setPaceT s d v).host = s.host ∧ (setPaceT s d v).links = s.links ∧ (setPaceT s d v).inp = s.inp
      ∧ (setPaceT s d v).ctl = s.ctl := by
  simp [setPaceT]

/-- What `floorsAfter` leaves as it was. -/
@[simp] theorem floorsAfter_frame (s : State) (u : Supply) :
    (floorsAfter s u).pending = s.pending ∧ (floorsAfter s u).freeCtr = s.freeCtr ∧ (floorsAfter s u).out = s.out
      ∧ (floorsAfter s u).sclk = s.sclk ∧ (floorsAfter s u).boot = s.boot ∧ (floorsAfter s u).nv = s.nv ∧ (floorsAfter s u).sec = s.sec
      ∧ (floorsAfter s u).regs = s.regs ∧ (floorsAfter s u).mem = s.mem ∧ (floorsAfter s u).pool = s.pool
      ∧ (floorsAfter s u).ctxs = s.ctxs ∧ (floorsAfter s u).video = s.video ∧ (floorsAfter s u).fab = s.fab
      ∧ (floorsAfter s u).sched = s.sched ∧ (floorsAfter s u).host = s.host ∧ (floorsAfter s u).links = s.links
      ∧ (floorsAfter s u).inp = s.inp ∧ (floorsAfter s u).ctl = s.ctl := by
  simp [floorsAfter]

/-- What `measure` leaves as it was. -/
@[simp] theorem measure_frame (s : State) (draw : Nat) (u : Supply) :
    (measure s draw u).pending = s.pending ∧ (measure s draw u).freeCtr = s.freeCtr ∧ (measure s draw u).out = s.out
      ∧ (measure s draw u).sclk = s.sclk ∧ (measure s draw u).boot = s.boot ∧ (measure s draw u).nv = s.nv
      ∧ (measure s draw u).sec = s.sec ∧ (measure s draw u).regs = s.regs ∧ (measure s draw u).mem = s.mem
      ∧ (measure s draw u).pool = s.pool ∧ (measure s draw u).ctxs = s.ctxs ∧ (measure s draw u).video = s.video
      ∧ (measure s draw u).fab = s.fab ∧ (measure s draw u).sched = s.sched ∧ (measure s draw u).host = s.host
      ∧ (measure s draw u).links = s.links ∧ (measure s draw u).inp = s.inp ∧ (measure s draw u).ctl = s.ctl := by
  simp [measure]

/-- What `loseSlot` leaves as it was. -/
@[simp] theorem loseSlot_frame (s : State) (k : Nat) :
    (loseSlot s k).pending = s.pending ∧ (loseSlot s k).freeCtr = s.freeCtr ∧ (loseSlot s k).out = s.out ∧ (loseSlot s k).sclk = s.sclk
      ∧ (loseSlot s k).boot = s.boot ∧ (loseSlot s k).nv = s.nv ∧ (loseSlot s k).sec = s.sec ∧ (loseSlot s k).mem = s.mem
      ∧ (loseSlot s k).pool = s.pool ∧ (loseSlot s k).ctxs = s.ctxs ∧ (loseSlot s k).video = s.video ∧ (loseSlot s k).fab = s.fab
      ∧ (loseSlot s k).sched = s.sched ∧ (loseSlot s k).power = s.power ∧ (loseSlot s k).links = s.links ∧ (loseSlot s k).inp = s.inp := by
  simp [loseSlot]

/-- What `secDone` leaves as it was. -/
@[simp] theorem secDone_frame (s : State) (flashOk : Bool) :
    (secDone s flashOk).pending = s.pending ∧ (secDone s flashOk).freeCtr = s.freeCtr ∧ (secDone s flashOk).sclk = s.sclk := by
  unfold secDone; (repeat' split) <;> simp <;> (repeat' split) <;> simp

/-- What `secFrom` leaves as it was. -/
@[simp] theorem secFrom_frame (s : State) (i op arg : Nat) :
    (secFrom s i op arg).pending = s.pending ∧ (secFrom s i op arg).out = s.out ∧ (secFrom s i op arg).sclk = s.sclk
      ∧ (secFrom s i op arg).boot = s.boot ∧ (secFrom s i op arg).nv = s.nv ∧ (secFrom s i op arg).sec = s.sec
      ∧ (secFrom s i op arg).mem = s.mem ∧ (secFrom s i op arg).pool = s.pool ∧ (secFrom s i op arg).ctxs = s.ctxs
      ∧ (secFrom s i op arg).video = s.video ∧ (secFrom s i op arg).fab = s.fab ∧ (secFrom s i op arg).sched = s.sched
      ∧ (secFrom s i op arg).power = s.power ∧ (secFrom s i op arg).links = s.links ∧ (secFrom s i op arg).inp = s.inp := by
  simp [secFrom]

/-- What `calFrom` leaves as it was. -/
@[simp] theorem calFrom_frame (s : State) (i op : Nat) :
    (calFrom s i op).pending = s.pending ∧ (calFrom s i op).freeCtr = s.freeCtr ∧ (calFrom s i op).sclk = s.sclk
      ∧ (calFrom s i op).nv = s.nv ∧ (calFrom s i op).sec = s.sec ∧ (calFrom s i op).mem = s.mem ∧ (calFrom s i op).ctxs = s.ctxs
      ∧ (calFrom s i op).video = s.video ∧ (calFrom s i op).fab = s.fab ∧ (calFrom s i op).sched = s.sched
      ∧ (calFrom s i op).power = s.power ∧ (calFrom s i op).links = s.links ∧ (calFrom s i op).inp = s.inp := by
  simp [calFrom]

/-- What `State.withFetchWord` leaves as it was. -/
@[simp] theorem State.withFetchWord_frame (s : State) (nbits w : Nat) :
    (State.withFetchWord s nbits w).freeCtr = s.freeCtr ∧ (State.withFetchWord s nbits w).out = s.out
      ∧ (State.withFetchWord s nbits w).sclk = s.sclk ∧ (State.withFetchWord s nbits w).boot = s.boot
      ∧ (State.withFetchWord s nbits w).nv = s.nv ∧ (State.withFetchWord s nbits w).sec = s.sec
      ∧ (State.withFetchWord s nbits w).regs = s.regs ∧ (State.withFetchWord s nbits w).mem = s.mem
      ∧ (State.withFetchWord s nbits w).pool = s.pool ∧ (State.withFetchWord s nbits w).ctxs = s.ctxs
      ∧ (State.withFetchWord s nbits w).video = s.video ∧ (State.withFetchWord s nbits w).fab = s.fab
      ∧ (State.withFetchWord s nbits w).sched = s.sched ∧ (State.withFetchWord s nbits w).power = s.power
      ∧ (State.withFetchWord s nbits w).host = s.host ∧ (State.withFetchWord s nbits w).links = s.links
      ∧ (State.withFetchWord s nbits w).inp = s.inp ∧ (State.withFetchWord s nbits w).ctl = s.ctl := by
  unfold State.withFetchWord; (repeat' split) <;> simp

/-- What `modVctx` leaves as it was. -/
@[simp] theorem modVctx_frame (s : State) (i : Nat) (f : VCtx → VCtx) :
    (modVctx s i f).pending = s.pending ∧ (modVctx s i f).freeCtr = s.freeCtr ∧ (modVctx s i f).out = s.out
      ∧ (modVctx s i f).sclk = s.sclk ∧ (modVctx s i f).boot = s.boot ∧ (modVctx s i f).nv = s.nv ∧ (modVctx s i f).sec = s.sec
      ∧ (modVctx s i f).regs = s.regs ∧ (modVctx s i f).mem = s.mem ∧ (modVctx s i f).pool = s.pool ∧ (modVctx s i f).ctxs = s.ctxs
      ∧ (modVctx s i f).fab = s.fab ∧ (modVctx s i f).sched = s.sched ∧ (modVctx s i f).power = s.power ∧ (modVctx s i f).host = s.host
      ∧ (modVctx s i f).links = s.links ∧ (modVctx s i f).inp = s.inp ∧ (modVctx s i f).ctl = s.ctl := by
  simp [modVctx]

/-- What `modSeg` leaves as it was. -/
@[simp] theorem modSeg_frame (s : State) (id : Nat) (f : Seg → Seg) :
    (modSeg s id f).pending = s.pending ∧ (modSeg s id f).freeCtr = s.freeCtr ∧ (modSeg s id f).out = s.out
      ∧ (modSeg s id f).sclk = s.sclk ∧ (modSeg s id f).boot = s.boot ∧ (modSeg s id f).nv = s.nv ∧ (modSeg s id f).sec = s.sec
      ∧ (modSeg s id f).regs = s.regs ∧ (modSeg s id f).mem = s.mem ∧ (modSeg s id f).pool = s.pool ∧ (modSeg s id f).ctxs = s.ctxs
      ∧ (modSeg s id f).fab = s.fab ∧ (modSeg s id f).sched = s.sched ∧ (modSeg s id f).power = s.power ∧ (modSeg s id f).host = s.host
      ∧ (modSeg s id f).links = s.links ∧ (modSeg s id f).inp = s.inp ∧ (modSeg s id f).ctl = s.ctl := by
  simp [modSeg]

/-- What `joinSegs` leaves as it was. -/
@[simp] theorem joinSegs_frame (s : State) (x : Run) :
    (joinSegs s x).pending = s.pending ∧ (joinSegs s x).freeCtr = s.freeCtr ∧ (joinSegs s x).out = s.out ∧ (joinSegs s x).sclk = s.sclk
      ∧ (joinSegs s x).boot = s.boot ∧ (joinSegs s x).nv = s.nv ∧ (joinSegs s x).sec = s.sec ∧ (joinSegs s x).regs = s.regs
      ∧ (joinSegs s x).mem = s.mem ∧ (joinSegs s x).pool = s.pool ∧ (joinSegs s x).ctxs = s.ctxs ∧ (joinSegs s x).fab = s.fab
      ∧ (joinSegs s x).power = s.power ∧ (joinSegs s x).host = s.host ∧ (joinSegs s x).links = s.links ∧ (joinSegs s x).inp = s.inp
      ∧ (joinSegs s x).ctl = s.ctl := by
  simp [joinSegs]

/-- What `vdecDone` leaves as it was. -/
@[simp] theorem vdecDone_frame (s : State) (req mop : Nat) :
    (vdecDone s req mop).pending = s.pending ∧ (vdecDone s req mop).out = s.out ∧ (vdecDone s req mop).sclk = s.sclk
      ∧ (vdecDone s req mop).boot = s.boot ∧ (vdecDone s req mop).nv = s.nv ∧ (vdecDone s req mop).sec = s.sec
      ∧ (vdecDone s req mop).mem = s.mem ∧ (vdecDone s req mop).pool = s.pool ∧ (vdecDone s req mop).ctxs = s.ctxs
      ∧ (vdecDone s req mop).video = s.video ∧ (vdecDone s req mop).host = s.host ∧ (vdecDone s req mop).links = s.links
      ∧ (vdecDone s req mop).inp = s.inp ∧ (vdecDone s req mop).ctl = s.ctl := by
  unfold vdecDone; (repeat' split) <;> simp

/-- What `runAgain` leaves as it was. -/
@[simp] theorem runAgain_frame (s : State) (x : Run) (exec : Nat) :
    (runAgain s x exec).pending = s.pending ∧ (runAgain s x exec).freeCtr = s.freeCtr ∧ (runAgain s x exec).out = s.out
      ∧ (runAgain s x exec).sclk = s.sclk ∧ (runAgain s x exec).boot = s.boot ∧ (runAgain s x exec).nv = s.nv
      ∧ (runAgain s x exec).sec = s.sec ∧ (runAgain s x exec).mem = s.mem ∧ (runAgain s x exec).pool = s.pool
      ∧ (runAgain s x exec).ctxs = s.ctxs ∧ (runAgain s x exec).power = s.power ∧ (runAgain s x exec).host = s.host
      ∧ (runAgain s x exec).ctl = s.ctl := by
  simp [runAgain]

/-- What `recordTrip` leaves as it was. -/
@[simp] theorem recordTrip_frame (s : State) (x : Run) (bits : Nat) :
    (recordTrip s x bits).pending = s.pending ∧ (recordTrip s x bits).freeCtr = s.freeCtr ∧ (recordTrip s x bits).out = s.out
      ∧ (recordTrip s x bits).sclk = s.sclk ∧ (recordTrip s x bits).boot = s.boot ∧ (recordTrip s x bits).nv = s.nv
      ∧ (recordTrip s x bits).sec = s.sec ∧ (recordTrip s x bits).mem = s.mem ∧ (recordTrip s x bits).pool = s.pool
      ∧ (recordTrip s x bits).ctxs = s.ctxs ∧ (recordTrip s x bits).video = s.video ∧ (recordTrip s x bits).fab = s.fab
      ∧ (recordTrip s x bits).power = s.power ∧ (recordTrip s x bits).links = s.links ∧ (recordTrip s x bits).inp = s.inp := by
  simp [recordTrip]

end Sys2Proof.Machine
end

