-- ==== Sys2Proof/Laws/Stores.lean ====
section
/-! SUPPORT. What making room in HBM, making pages ready and storing by virtual address leave as it was. -/

namespace Sys2Proof.Machine

/-- Everything but memory, the pool, registers, requests and the counter of free values is as before. -/
structure PageFrame (s t : State) : Prop where
  pending : t.pending = s.pending
  out : t.out = s.out
  sclk : t.sclk = s.sclk
  boot : t.boot = s.boot
  nv : t.nv = s.nv
  sec : t.sec = s.sec
  ctxs : t.ctxs = s.ctxs
  video : t.video = s.video
  fab : t.fab = s.fab
  power : t.power = s.power
  host : t.host = s.host
  links : t.links = s.links
  inp : t.inp = s.inp
  ctl : t.ctl = s.ctl

theorem PageFrame.refl (s : State) : PageFrame s s := by constructor <;> rfl

theorem PageFrame.trans {s t u : State} (h : PageFrame s t) (g : PageFrame t u) : PageFrame s u := by
  constructor
  exacts [g.pending.trans h.pending, g.out.trans h.out, g.sclk.trans h.sclk, g.boot.trans h.boot, g.nv.trans h.nv, g.sec.trans h.sec,
    g.ctxs.trans h.ctxs, g.video.trans h.video, g.fab.trans h.fab, g.power.trans h.power, g.host.trans h.host, g.links.trans h.links,
    g.inp.trans h.inp, g.ctl.trans h.ctl]

/-- An eviction moves a page to flash, or drops its HBM copy. -/
theorem evictPage_frame {s t : State} {p : Nat} {e : Pte} (h : evictPage s p e = some t) : PageFrame s t := by
  unfold evictPage at h
  (repeat' split at h) <;> first | cases h; constructor <;> simp | cases h

theorem evictOldest_frame {s t : State} {p : Nat} (h : evictOldest s p = some t) : PageFrame s t := by
  obtain ⟨l, e, _, _, h, _⟩ := List.findSome?_eq_some_iff.mp (by simpa [evictOldest] using h)
  exact evictPage_frame h

theorem makeRoom_frame {s t : State} {p bytes n : Nat} (h : makeRoom s p bytes n = some t) : PageFrame s t := by
  induction n generalizing s with
  | zero =>
    simp only [makeRoom] at h
    split at h
    · cases h; exact .refl _
    · cases h
  | succ n ih =>
    simp only [makeRoom] at h
    split at h
    · cases h; exact .refl _
    · split at h
      · rename_i hu; exact (evictOldest_frame hu).trans (ih h)
      · cases h

theorem takeHbm_frame {s t : State} {p size pa : Nat} (h : takeHbm s p size = some (t, pa)) : PageFrame s t := by
  unfold takeHbm at h
  split at h
  · cases h
  · rename_i u hu
    split at h
    · cases h
      exact (makeRoom_frame hu).trans (by constructor <;> simp)
    · cases h

/-- A page that lies in flash moves to HBM. -/
theorem promote_frame {s t : State} {p : Nat} {e : Pte} (h : promote s p e = some t) : PageFrame s t := by
  unfold promote at h
  split at h
  · cases h; exact .refl _
  · split at h
    · cases h
    · rename_i u pa hu
      cases h
      exact (takeHbm_frame hu).trans (by constructor <;> simp)

theorem readyPage_frame {s t : State} {rid : Option Nat} {p va : Nat} (h : readyPage s rid p va = .ok t) : PageFrame s t := by
  unfold readyPage at h
  dsimp only at h
  split at h
  · split at h
    · cases h
    · split at h
      · rename_i e _ _ _ u hu
        cases h
        refine PageFrame.trans (t := if e.evicting then _ else s) ?_ ((promote_frame hu).trans (by constructor <;> simp))
        split <;> constructor <;> simp
      · cases h
  · split at h
    · split at h
      · split at h
        · split at h
          · rename_i hu
            cases h
            exact (takeHbm_frame hu).trans (by constructor <;> simp)
          · cases h
        · cases h
      · cases h
    · cases h

theorem readyRange_frame {s t : State} {rid : Option Nat} {p : Nat} {as : List Nat} (h : readyRange rid p as s = .ok t) :
    PageFrame s t := by
  induction as generalizing s with
  | nil => cases h; exact .refl _
  | cons a as ih =>
    unfold readyRange at h
    split at h
    · rename_i hu; exact (readyPage_frame hu).trans (ih h)
    · rename_i hu; exact absurd h (hu t)

/-- A store by virtual address makes its pages ready, and stores the bytes (R267, R275). -/
theorem vwrite_eq_ok {s t : State} {rid : Option Nat} {p : Nat} {bs : List (Nat × Byte)} :
    vwrite s rid p bs = .ok t ↔ ∃ u, readyRange rid p (pagesOf bs) s = .ok u ∧ t = vstore p bs u := by
  unfold vwrite
  split
  · rename_i u hu
    simp [hu, eq_comm]
  · rename_i hu
    constructor
    · exact fun h => absurd h (hu t)
    · rintro ⟨u, h, _⟩; exact absurd h (hu u)

theorem vwrite_frame {s t : State} {rid : Option Nat} {p : Nat} {bs : List (Nat × Byte)} (h : vwrite s rid p bs = .ok t) :
    PageFrame s t := by
  obtain ⟨u, hu, rfl⟩ := vwrite_eq_ok.mp h
  exact (readyRange_frame hu).trans (by constructor <;> simp)

/-! ### Operations that answer a state beside something else. -/

/-- Taking a message number changes the host port alone. -/
theorem takeMsg_frame (s : State) (i : Nat) : (takeMsg s i).1 = { s with host := (takeMsg s i).1.host } := rfl

/-- A repair changes registers, the region's spares, sessions' events and the trace. -/
theorem repairWord_frame (r cap : Nat) (s : State) (bank : Nat) :
    (repairWord r cap s bank).1.mem = s.mem ∧ (repairWord r cap s bank).1.pending = s.pending ∧ (repairWord r cap s bank).1.nv = s.nv
      ∧ (repairWord r cap s bank).1.boot = s.boot ∧ (repairWord r cap s bank).1.pool = s.pool ∧ (repairWord r cap s bank).1.sched = s.sched := by
  unfold repairWord
  split <;> simp

theorem repairWords_frame (r cap : Nat) (bs : List Nat) (s : State) :
    (repairWords r cap bs s).1.mem = s.mem ∧ (repairWords r cap bs s).1.pending = s.pending ∧ (repairWords r cap bs s).1.nv = s.nv
      ∧ (repairWords r cap bs s).1.boot = s.boot ∧ (repairWords r cap bs s).1.pool = s.pool
      ∧ (repairWords r cap bs s).1.sched = s.sched := by
  induction bs generalizing s with
  | nil => simp [repairWords]
  | cons b bs ih =>
    have h := ih (repairWord r cap s b).1
    have g := repairWord_frame r cap s b
    simp only [repairWords]
    exact ⟨h.1.trans g.1, h.2.1.trans g.2.1, h.2.2.1.trans g.2.2.1, h.2.2.2.1.trans g.2.2.2.1, h.2.2.2.2.1.trans g.2.2.2.2.1,
      h.2.2.2.2.2.trans g.2.2.2.2.2⟩

/-! ### The result of a macro-op's work. -/

theorem finish_hold (s : State) (x : Run) : finish s x .hold = s := rfl
theorem finish_full (s : State) (x : Run) : finish s x .full = markWait s x.r.id x.i := rfl
theorem finish_fail {x : Run} (h : (x.st.redo && actsOnce x.m.opcode) = false) (s : State) (c : Check) :
    finish s x (.fail c) = settle (refuse s x.r.id c x.m.opcode x.i) := by simp [finish, h]
theorem finish_state (s t : State) (x : Run) : finish s x (.state t) = markWorked t x := rfl

/-- Work whose bytes can be written: they are stored, what it counts and raises is counted and raised, and the macro-op has worked. -/
theorem finish_eff {s t : State} {x : Run} {e : Eff} (h : vwrite s (some x.r.id) x.p e.bytes = .ok t) :
    finish s x (.eff e) = markWorked (watchEff (forEach e.events (fun s n => raiseLead s x.p n) (countEff t x e.cnt)) x e) x := by
  simp only [finish, h]

end Sys2Proof.Machine
end

