-- ==== Sys2Proof/Laws/Ends.lean ====
section
/-! SUPPORT. The frames of the operations that end requests, jobs and segments, and of those that rest on them. -/

namespace Sys2Proof.Machine

/-- What `endBatch` leaves as it was. -/
@[simp] theorem endBatch_frame (s : State) (b : Batch) (fault : Bool) :
    (endBatch s b fault).pending = s.pending ∧ (endBatch s b fault).out = s.out ∧ (endBatch s b fault).sclk = s.sclk
      ∧ (endBatch s b fault).boot = s.boot ∧ (endBatch s b fault).nv = s.nv ∧ (endBatch s b fault).sec = s.sec
      ∧ (endBatch s b fault).ctxs = s.ctxs ∧ (endBatch s b fault).video = s.video ∧ (endBatch s b fault).fab = s.fab
      ∧ (endBatch s b fault).power = s.power ∧ (endBatch s b fault).links = s.links ∧ (endBatch s b fault).inp = s.inp := by
  unfold endBatch; (repeat' split) <;> (try simp) <;> (repeat' split) <;> (try simp) <;> (have g := vwrite_frame ‹_›; simp [g.pending, g.out, g.sclk, g.boot, g.nv, g.sec, g.ctxs, g.video, g.fab, g.power, g.links, g.inp])

/-- What `tearRange` leaves as it was. -/
@[simp] theorem tearRange_frame (p : Nat) (s : State) (r : Nat × Nat) :
    (tearRange p s r).pending = s.pending ∧ (tearRange p s r).out = s.out ∧ (tearRange p s r).sclk = s.sclk
      ∧ (tearRange p s r).boot = s.boot ∧ (tearRange p s r).nv = s.nv ∧ (tearRange p s r).sec = s.sec ∧ (tearRange p s r).ctxs = s.ctxs
      ∧ (tearRange p s r).video = s.video ∧ (tearRange p s r).fab = s.fab ∧ (tearRange p s r).power = s.power
      ∧ (tearRange p s r).host = s.host ∧ (tearRange p s r).links = s.links ∧ (tearRange p s r).inp = s.inp
      ∧ (tearRange p s r).ctl = s.ctl := by
  unfold tearRange; (repeat' split) <;> (try simp) <;> (repeat' split) <;> (try simp) <;> (have g := vwrite_frame ‹_›; simp [g.pending, g.out, g.sclk, g.boot, g.nv, g.sec, g.ctxs, g.video, g.fab, g.power, g.host, g.links, g.inp, g.ctl])

/-- What `tearMop` leaves as it was. -/
@[simp] theorem tearMop_frame (r : Request) (s : State) (st : MopSt) :
    (tearMop r s st).pending = s.pending ∧ (tearMop r s st).out = s.out ∧ (tearMop r s st).sclk = s.sclk ∧ (tearMop r s st).boot = s.boot
      ∧ (tearMop r s st).nv = s.nv ∧ (tearMop r s st).sec = s.sec ∧ (tearMop r s st).ctxs = s.ctxs ∧ (tearMop r s st).video = s.video
      ∧ (tearMop r s st).fab = s.fab ∧ (tearMop r s st).power = s.power ∧ (tearMop r s st).host = s.host
      ∧ (tearMop r s st).links = s.links ∧ (tearMop r s st).inp = s.inp ∧ (tearMop r s st).ctl = s.ctl := by
  simp [tearMop]

/-- What `tearTiles` leaves as it was. -/
@[simp] theorem tearTiles_frame (s : State) (r : Request) :
    (tearTiles s r).pending = s.pending ∧ (tearTiles s r).out = s.out ∧ (tearTiles s r).sclk = s.sclk ∧ (tearTiles s r).boot = s.boot
      ∧ (tearTiles s r).nv = s.nv ∧ (tearTiles s r).sec = s.sec ∧ (tearTiles s r).ctxs = s.ctxs ∧ (tearTiles s r).video = s.video
      ∧ (tearTiles s r).fab = s.fab ∧ (tearTiles s r).power = s.power ∧ (tearTiles s r).host = s.host ∧ (tearTiles s r).links = s.links
      ∧ (tearTiles s r).inp = s.inp ∧ (tearTiles s r).ctl = s.ctl := by
  simp [tearTiles]

/-- What `endRequest` leaves as it was. -/
@[simp] theorem endRequest_frame (s : State) (id status idx : Nat) :
    (endRequest s id status idx).pending = s.pending ∧ (endRequest s id status idx).out = s.out
      ∧ (endRequest s id status idx).sclk = s.sclk ∧ (endRequest s id status idx).boot = s.boot ∧ (endRequest s id status idx).nv = s.nv
      ∧ (endRequest s id status idx).sec = s.sec ∧ (endRequest s id status idx).ctxs = s.ctxs := by
  unfold endRequest; (repeat' split) <;> simp

/-- What `endJobHere` leaves as it was. -/
@[simp] theorem endJobHere_frame (s : State) (p status : Nat) :
    (endJobHere s p status).pending = s.pending ∧ (endJobHere s p status).sclk = s.sclk ∧ (endJobHere s p status).boot = s.boot
      ∧ (endJobHere s p status).nv = s.nv ∧ (endJobHere s p status).sec = s.sec ∧ (endJobHere s p status).ctxs = s.ctxs := by
  simp [endJobHere]

/-- What `jobFault` leaves as it was. -/
@[simp] theorem jobFault_frame (s : State) (p : Nat) :
    (jobFault s p).pending = s.pending ∧ (jobFault s p).sclk = s.sclk ∧ (jobFault s p).boot = s.boot ∧ (jobFault s p).nv = s.nv
      ∧ (jobFault s p).sec = s.sec ∧ (jobFault s p).ctxs = s.ctxs := by
  simp [jobFault]

/-- What `sramFails` leaves as it was. -/
@[simp] theorem sramFails_frame (s : State) (r : Nat) :
    (sramFails s r).pending = s.pending ∧ (sramFails s r).sclk = s.sclk ∧ (sramFails s r).boot = s.boot ∧ (sramFails s r).nv = s.nv
      ∧ (sramFails s r).sec = s.sec ∧ (sramFails s r).ctxs = s.ctxs := by
  unfold sramFails; (repeat' split) <;> simp <;> (repeat' split) <;> simp

/-- What `failRequest` leaves as it was. -/
@[simp] theorem failRequest_frame (s : State) (id status idx : Nat) :
    (failRequest s id status idx).pending = s.pending ∧ (failRequest s id status idx).sclk = s.sclk
      ∧ (failRequest s id status idx).boot = s.boot ∧ (failRequest s id status idx).nv = s.nv ∧ (failRequest s id status idx).sec = s.sec
      ∧ (failRequest s id status idx).ctxs = s.ctxs := by
  unfold failRequest; (repeat' split) <;> simp

/-- What `refuse` leaves as it was. -/
@[simp] theorem refuse_frame (s : State) (id : Nat) (c : Check) (opcode idx : Nat) :
    (refuse s id c opcode idx).pending = s.pending ∧ (refuse s id c opcode idx).sclk = s.sclk ∧ (refuse s id c opcode idx).boot = s.boot
      ∧ (refuse s id c opcode idx).nv = s.nv ∧ (refuse s id c opcode idx).sec = s.sec ∧ (refuse s id c opcode idx).ctxs = s.ctxs := by
  unfold refuse; (repeat' split) <;> simp

/-- What `jobFaults` leaves as it was. -/
@[simp] theorem jobFaults_frame (s : State) (ps : List Nat) :
    (jobFaults s ps).pending = s.pending ∧ (jobFaults s ps).sclk = s.sclk ∧ (jobFaults s ps).boot = s.boot ∧ (jobFaults s ps).nv = s.nv
      ∧ (jobFaults s ps).sec = s.sec ∧ (jobFaults s ps).ctxs = s.ctxs := by
  simp [jobFaults]

/-- What `tampered` leaves as it was. -/
@[simp] theorem tampered_frame (s : State) :
    (tampered s).pending = s.pending ∧ (tampered s).sclk = s.sclk ∧ (tampered s).ctxs = s.ctxs := by
  simp [tampered]

/-- What `startCold` leaves as it was. -/
@[simp] theorem startCold_frame (s : State) :
    (startCold s).pending = s.pending ∧ (startCold s).ctxs = s.ctxs := by
  simp [startCold]

/-- What `blockReset` leaves as it was. -/
@[simp] theorem blockReset_frame (s : State) (page : Nat) :
    (blockReset s page).pending = s.pending ∧ (blockReset s page).sclk = s.sclk ∧ (blockReset s page).nv = s.nv
      ∧ (blockReset s page).sec = s.sec ∧ (blockReset s page).ctxs = s.ctxs := by
  simp [blockReset]

/-- What `collMismatch` leaves as it was. -/
@[simp] theorem collMismatch_frame (s : State) (p : Nat) :
    (collMismatch s p).pending = s.pending ∧ (collMismatch s p).sclk = s.sclk ∧ (collMismatch s p).boot = s.boot
      ∧ (collMismatch s p).nv = s.nv ∧ (collMismatch s p).sec = s.sec ∧ (collMismatch s p).ctxs = s.ctxs := by
  simp [collMismatch]

/-- What `checkArrives` leaves as it was. -/
@[simp] theorem checkArrives_frame (s : State) (port p coll rank : Nat) (vals : List W32) :
    (checkArrives s port p coll rank vals).pending = s.pending ∧ (checkArrives s port p coll rank vals).sclk = s.sclk
      ∧ (checkArrives s port p coll rank vals).boot = s.boot ∧ (checkArrives s port p coll rank vals).nv = s.nv
      ∧ (checkArrives s port p coll rank vals).sec = s.sec ∧ (checkArrives s port p coll rank vals).ctxs = s.ctxs := by
  unfold checkArrives; (repeat' split) <;> simp <;> (repeat' split) <;> simp

/-- What `linkError` leaves as it was. -/
@[simp] theorem linkError_frame (s : State) (port : Nat) :
    (linkError s port).pending = s.pending ∧ (linkError s port).sclk = s.sclk ∧ (linkError s port).boot = s.boot
      ∧ (linkError s port).nv = s.nv ∧ (linkError s port).sec = s.sec ∧ (linkError s port).ctxs = s.ctxs := by
  simp [linkError]

/-- What `strayChunk` leaves as it was. -/
@[simp] theorem strayChunk_frame (s : State) (p : Nat) :
    (strayChunk s p).pending = s.pending ∧ (strayChunk s p).sclk = s.sclk ∧ (strayChunk s p).boot = s.boot ∧ (strayChunk s p).nv = s.nv
      ∧ (strayChunk s p).sec = s.sec ∧ (strayChunk s p).ctxs = s.ctxs := by
  simp [strayChunk]

/-- What `tubArrives` leaves as it was. -/
@[simp] theorem tubArrives_frame (s : State) (g : HaulGeo) (x : Haul) (h : TubHdr) (data : Bytes) :
    (tubArrives s g x h data).pending = s.pending ∧ (tubArrives s g x h data).sclk = s.sclk ∧ (tubArrives s g x h data).boot = s.boot
      ∧ (tubArrives s g x h data).nv = s.nv ∧ (tubArrives s g x h data).sec = s.sec ∧ (tubArrives s g x h data).ctxs = s.ctxs := by
  unfold tubArrives; (repeat' split) <;> simp <;> (repeat' split) <;> simp

/-- What `gradArrives` leaves as it was. -/
@[simp] theorem gradArrives_frame (s : State) (g : HaulGeo) (x : Haul) (grad : Bool) (h : TubHdr) (data : Bytes) :
    (gradArrives s g x grad h data).pending = s.pending ∧ (gradArrives s g x grad h data).sclk = s.sclk
      ∧ (gradArrives s g x grad h data).boot = s.boot ∧ (gradArrives s g x grad h data).nv = s.nv
      ∧ (gradArrives s g x grad h data).sec = s.sec ∧ (gradArrives s g x grad h data).ctxs = s.ctxs := by
  unfold gradArrives; (repeat' split) <;> simp

/-- What `chunkArrives` leaves as it was. -/
@[simp] theorem chunkArrives_frame (s : State) (h : TubHdr) (data : Bytes) :
    (chunkArrives s h data).pending = s.pending ∧ (chunkArrives s h data).sclk = s.sclk ∧ (chunkArrives s h data).boot = s.boot
      ∧ (chunkArrives s h data).nv = s.nv ∧ (chunkArrives s h data).sec = s.sec ∧ (chunkArrives s h data).ctxs = s.ctxs := by
  unfold chunkArrives; (repeat' split) <;> simp

/-- What `releaseChunks` leaves as it was. -/
@[simp] theorem releaseChunks_frame (s : State) (p id : Nat) :
    (releaseChunks s p id).pending = s.pending ∧ (releaseChunks s p id).sclk = s.sclk ∧ (releaseChunks s p id).boot = s.boot
      ∧ (releaseChunks s p id).nv = s.nv ∧ (releaseChunks s p id).sec = s.sec ∧ (releaseChunks s p id).ctxs = s.ctxs := by
  simp [releaseChunks]

/-- What `sendGrads` leaves as it was. -/
@[simp] theorem sendGrads_frame (s : State) (g : HaulGeo) (h : Haul) (tubs : List ((Bool × Nat × Nat) × GradRes)) :
    (sendGrads s g h tubs).pending = s.pending ∧ (sendGrads s g h tubs).sclk = s.sclk ∧ (sendGrads s g h tubs).boot = s.boot
      ∧ (sendGrads s g h tubs).nv = s.nv ∧ (sendGrads s g h tubs).sec = s.sec ∧ (sendGrads s g h tubs).ctxs = s.ctxs := by
  simp [sendGrads]

/-- What `startJob` leaves as it was. -/
@[simp] theorem startJob_frame (s : State) (engine : Nat) (j : Job) (x : Run) :
    (startJob s engine j x).pending = s.pending ∧ (startJob s engine j x).sclk = s.sclk ∧ (startJob s engine j x).boot = s.boot
      ∧ (startJob s engine j x).nv = s.nv ∧ (startJob s engine j x).sec = s.sec ∧ (startJob s engine j x).ctxs = s.ctxs := by
  unfold startJob; (repeat' split) <;> (try simp) <;> (repeat' split) <;> (try simp) <;> (have g := vwrite_frame ‹_›; simp [g.pending, g.sclk, g.boot, g.nv, g.sec, g.ctxs])

/-- What `refuseSlot` leaves as it was. -/
@[simp] theorem refuseSlot_frame (s : State) (id i opcode : Nat) (f : LenFail) :
    (refuseSlot s id i opcode f).pending = s.pending ∧ (refuseSlot s id i opcode f).sclk = s.sclk
      ∧ (refuseSlot s id i opcode f).boot = s.boot ∧ (refuseSlot s id i opcode f).nv = s.nv ∧ (refuseSlot s id i opcode f).sec = s.sec
      ∧ (refuseSlot s id i opcode f).ctxs = s.ctxs := by
  unfold refuseSlot; (repeat' split) <;> simp

/-- What `endIfDone` leaves as it was. -/
@[simp] theorem endIfDone_frame (s : State) (id : Nat) :
    (endIfDone s id).pending = s.pending ∧ (endIfDone s id).sclk = s.sclk ∧ (endIfDone s id).boot = s.boot ∧ (endIfDone s id).nv = s.nv
      ∧ (endIfDone s id).sec = s.sec ∧ (endIfDone s id).ctxs = s.ctxs := by
  unfold endIfDone; (repeat' split) <;> simp

/-- What `laneFails` leaves as it was. -/
@[simp] theorem laneFails_frame (s : State) (port : Nat) (bellLane : Bool) :
    (laneFails s port bellLane).pending = s.pending ∧ (laneFails s port bellLane).sclk = s.sclk
      ∧ (laneFails s port bellLane).boot = s.boot ∧ (laneFails s port bellLane).nv = s.nv ∧ (laneFails s port bellLane).sec = s.sec
      ∧ (laneFails s port bellLane).ctxs = s.ctxs := by
  simp [laneFails]

/-- What `flitFails` leaves as it was. -/
@[simp] theorem flitFails_frame (s : State) (port ch : Nat) :
    (flitFails s port ch).pending = s.pending ∧ (flitFails s port ch).sclk = s.sclk ∧ (flitFails s port ch).boot = s.boot
      ∧ (flitFails s port ch).nv = s.nv ∧ (flitFails s port ch).sec = s.sec ∧ (flitFails s port ch).ctxs = s.ctxs := by
  simp [flitFails]

/-- What `resendFlits` leaves as it was. -/
@[simp] theorem resendFlits_frame (s : State) (port ch seq : Nat) :
    (resendFlits s port ch seq).pending = s.pending ∧ (resendFlits s port ch seq).sclk = s.sclk
      ∧ (resendFlits s port ch seq).boot = s.boot ∧ (resendFlits s port ch seq).nv = s.nv ∧ (resendFlits s port ch seq).sec = s.sec
      ∧ (resendFlits s port ch seq).ctxs = s.ctxs := by
  simp [resendFlits]

/-- What `tierFail` leaves as it was. -/
@[simp] theorem tierFail_frame (s : State) (id : Nat) :
    (tierFail s id).pending = s.pending ∧ (tierFail s id).sclk = s.sclk ∧ (tierFail s id).boot = s.boot ∧ (tierFail s id).nv = s.nv
      ∧ (tierFail s id).sec = s.sec ∧ (tierFail s id).ctxs = s.ctxs := by
  simp [tierFail]

/-- What `tripDie` leaves as it was. -/
@[simp] theorem tripDie_frame (s : State) (d : Nat) :
    (tripDie s d).pending = s.pending ∧ (tripDie s d).sclk = s.sclk ∧ (tripDie s d).boot = s.boot ∧ (tripDie s d).nv = s.nv
      ∧ (tripDie s d).sec = s.sec ∧ (tripDie s d).ctxs = s.ctxs := by
  simp [tripDie]

/-- What `calDone` leaves as it was. -/
@[simp] theorem calDone_frame (s : State) (sections : Bytes) :
    (calDone s sections).pending = s.pending ∧ (calDone s sections).out = s.out ∧ (calDone s sections).sclk = s.sclk
      ∧ (calDone s sections).boot = s.boot ∧ (calDone s sections).sec = s.sec ∧ (calDone s sections).ctxs = s.ctxs
      ∧ (calDone s sections).video = s.video ∧ (calDone s sections).fab = s.fab ∧ (calDone s sections).power = s.power
      ∧ (calDone s sections).links = s.links ∧ (calDone s sections).inp = s.inp := by
  unfold calDone; (repeat' split) <;> (try simp) <;> (repeat' split) <;> (try simp) <;> (have g := vwrite_frame ‹_›; simp [g.pending, g.out, g.sclk, g.boot, g.sec, g.ctxs, g.video, g.fab, g.power, g.links, g.inp])

/-- What `logPersist` leaves as it was. -/
@[simp] theorem logPersist_frame (s : State) (r : Request) :
    (logPersist s r).pending = s.pending ∧ (logPersist s r).out = s.out ∧ (logPersist s r).sclk = s.sclk ∧ (logPersist s r).boot = s.boot
      ∧ (logPersist s r).nv = s.nv ∧ (logPersist s r).sec = s.sec ∧ (logPersist s r).ctxs = s.ctxs ∧ (logPersist s r).video = s.video
      ∧ (logPersist s r).fab = s.fab ∧ (logPersist s r).power = s.power ∧ (logPersist s r).host = s.host
      ∧ (logPersist s r).links = s.links ∧ (logPersist s r).inp = s.inp ∧ (logPersist s r).ctl = s.ctl := by
  unfold logPersist; (repeat' split) <;> (try simp) <;> (repeat' split) <;> (try simp) <;> (have g := vwrite_frame ‹_›; simp [g.pending, g.out, g.sclk, g.boot, g.nv, g.sec, g.ctxs, g.video, g.fab, g.power, g.host, g.links, g.inp, g.ctl])

/-- What `abortRequest` leaves as it was. -/
@[simp] theorem abortRequest_frame (s : State) (r : Request) (status : Nat) :
    (abortRequest s r status).pending = s.pending ∧ (abortRequest s r status).sclk = s.sclk ∧ (abortRequest s r status).boot = s.boot
      ∧ (abortRequest s r status).nv = s.nv ∧ (abortRequest s r status).sec = s.sec ∧ (abortRequest s r status).ctxs = s.ctxs := by
  simp [abortRequest]

end Sys2Proof.Machine
end

