-- ==== Sys2Proof/Laws/Fixed.lean ====
section
/-! SUPPORT. Every image's coefficients, whichever firmware carries them, meet R189 and R194: the reference segments do. -/

namespace Sys2Proof.Machine

theorem Num.add_finite {a b : Num} (ha : a.finite = true) (hb : b.finite = true) : (a.add b).finite = true := by
  obtain ⟨n, m, e⟩ | _ | _ := a <;> obtain ⟨n', m', e'⟩ | _ | _ := b <;> first | exact absurd ha Bool.false_ne_true | exact absurd hb Bool.false_ne_true | skip
  rw [Num.add]
  cases h : (m == 0 && m' == 0) <;> rfl

/-- A boundary whose two values are one holds. -/
theorem stepOk_self {a : Num} (up : Bool) (h : a.finite = true) : stepOk up a a (some 1) = true := by simp [stepOk, h]

/-- A boundary of LOG2 that the next segment meets exactly holds in every binade. -/
theorem boundaryOk_log2 {c : Nat → Nat → W32} {i : Nat} (h : (Sfn.log2.boundary c i).1 = (Sfn.log2.boundary c i).2)
    (hf : (Sfn.log2.boundary c i).1.finite = true) : Sfn.log2.boundaryOk c i = true := by
  simp only [Sfn.boundaryOk, List.all_eq_true, ← h]
  exact fun _ _ => stepOk_self true (Num.add_finite rfl hf)

theorem exp2_made : Sfn.exp2.made refCoef = true := by decide +kernel
theorem rcp_made : Sfn.rcp.made refCoef = true := by decide +kernel
theorem rsqrt_made : Sfn.rsqrt.made refCoef = true := by decide +kernel

/-- The segments of LOG2 that do not meet the next in the same form of the value. -/
def log2Odd : List Nat := [0, 7, 17, 31]

theorem log2_rises : ∀ i < 32, segMonotone true (refCoef (32 + i)) = true := by decide +kernel

theorem log2_meets : ∀ i < 32, i ∉ log2Odd → (Sfn.log2.boundary refCoef i).1 = (Sfn.log2.boundary refCoef i).2 ∧
    (Sfn.log2.boundary refCoef i).1.finite = true := by decide +kernel

theorem log2_odd : ∀ i ∈ log2Odd, Sfn.log2.boundaryOk refCoef i = true := by decide +kernel

theorem log2_first : (refCoef Sfn.log2.base 0 == Sfn.log2.firstCoef) = true := by decide +kernel

theorem log2_made : Sfn.log2.made refCoef = true := by
  simp only [Sfn.made, log2_first, Bool.true_and, List.all_eq_true, List.mem_range, Bool.and_eq_true]
  intro i hi
  refine ⟨log2_rises i hi, ?_⟩
  by_cases h : i ∈ log2Odd
  · exact log2_odd i h
  · obtain ⟨h1, h2⟩ := log2_meets i hi h
    exact boundaryOk_log2 h1 h2

/-- The coefficients in force meet R189 and R194, whichever firmware carries them. -/
theorem fixedCoef_made (fw : Bytes) : fixedMade (fixedCoef fw) = true := by
  have href : fixedMade refCoef = true := by simp [fixedMade, exp2_made, log2_made, rcp_made, rsqrt_made]
  by_cases h : fixedMade (Config.fixedRaw fw) = true
  · rwa [show fixedCoef fw = Config.fixedRaw fw from funext fun i => funext fun k => by simp [fixedCoef, h]]
  · rwa [show fixedCoef fw = refCoef from funext fun i => funext fun k => by simp [fixedCoef, h]]

end Sys2Proof.Machine
end

