-- ==== Sys2Proof/Laws/State.lean ====
section
/-! SUPPORT. What each basic update writes, and what each reader of the state reads after an update that keeps its field. The fields that
an update leaves as they were are in Laws/Frames.lean. -/

namespace Sys2Proof.Machine

/-! ### What the updates write. -/

@[simp] theorem setReg_regs (s : State) (page off v : Nat) :
    (setReg s page off v).regs = cellSet s.regs (regAddr page off) (BitVec.ofNat 64 v) (coldAt (regAddr page off)) := rfl
@[simp] theorem emit_out (s : State) (o : Out) : (emit s o).out = s.out ++ [o] := rfl
@[simp] theorem bumpFree_freeCtr (s : State) : (bumpFree s).freeCtr = s.freeCtr + 1 := rfl
@[simp] theorem memSet_mem (s : State) (pa : Nat) (b : Byte) : (memSet s pa b).mem = cellSet s.mem pa b 0 := rfl
@[simp] theorem memZero_mem (s : State) (lo hi : Nat) : (memZero s lo hi).mem = s.mem.filter fun (a, _) => a < lo || hi ≤ a := rfl
@[simp] theorem modRgn_rgns (s : State) (r : Nat) (f : Region → Region) : (modRgn s r f).fab.rgns = updNth s.fab.rgns r f := rfl
@[simp] theorem modRgn_tallies (s : State) (r : Nat) (f : Region → Region) : (modRgn s r f).fab.tallies = s.fab.tallies := rfl
@[simp] theorem modRgn_users (s : State) (r : Nat) (f : Region → Region) : (modRgn s r f).fab.users = s.fab.users := rfl
@[simp] theorem modRgn_queue (s : State) (r : Nat) (f : Region → Region) : (modRgn s r f).fab.queue = s.fab.queue := rfl
@[simp] theorem modRgn_held (s : State) (r : Nat) (f : Region → Region) : (modRgn s r f).fab.held = s.fab.held := rfl
@[simp] theorem modRgn_units (s : State) (r : Nat) (f : Region → Region) : (modRgn s r f).fab.units = s.fab.units := rfl
@[simp] theorem modSess_sess (s : State) (i : Nat) (f : Sess → Sess) : (modSess s i f).host.sess = updNth s.host.sess i f := rfl
@[simp] theorem modReq_reqs (s : State) (id : Nat) (f : Request → Request) :
    (modReq s id f).sched.reqs = updFirst (·.id == id) f s.sched.reqs := rfl
@[simp] theorem modMop_reqs (s : State) (id i : Nat) (f : MopSt → MopSt) : (modMop s id i f).sched.reqs =
    updFirst (·.id == id) (fun r => { r with mops := updFirst (·.idx == i) f r.mops }) s.sched.reqs := rfl
@[simp] theorem modLayer_reqs (s : State) (id start : Nat) (f : LayerW → LayerW) : (modLayer s id start f).sched.reqs =
    updFirst (·.id == id) (fun r => { r with watch := { r.watch with layers := updFirst (·.start == start) f r.watch.layers } }) s.sched.reqs := rfl
@[simp] theorem modPte_ptes (s : State) (sp : Space) (va : Nat) (f : Pte → Pte) :
    (modPte s sp va f).pool.ptes = updFirst (fun e => e.space == sp && e.va == va) f s.pool.ptes := rfl
@[simp] theorem modPte_hbms (s : State) (sp : Space) (va : Nat) (f : Pte → Pte) : (modPte s sp va f).pool.hbms = s.pool.hbms := rfl
@[simp] theorem modStack_hbms (s : State) (d : Nat) (f : Stack → Stack) : (modStack s d f).pool.hbms = updNth s.pool.hbms d f := rfl
@[simp] theorem modStack_ptes (s : State) (d : Nat) (f : Stack → Stack) : (modStack s d f).pool.ptes = s.pool.ptes := rfl
@[simp] theorem modCtx_ctxs (s : State) (i : Nat) (f : Ctx → Ctx) : (modCtx s i f).ctxs = updFirst (·.index == i) f s.ctxs := rfl
@[simp] theorem modVctx_vctxs (s : State) (i : Nat) (f : VCtx → VCtx) : (modVctx s i f).video.vctxs = updFirst (·.index == i) f s.video.vctxs := rfl
@[simp] theorem modVctx_segs (s : State) (i : Nat) (f : VCtx → VCtx) : (modVctx s i f).video.segs = s.video.segs := rfl
@[simp] theorem modSeg_segs (s : State) (id : Nat) (f : Seg → Seg) : (modSeg s id f).video.segs = updFirst (·.id == id) f s.video.segs := rfl
@[simp] theorem modSeg_vctxs (s : State) (id : Nat) (f : Seg → Seg) : (modSeg s id f).video.vctxs = s.video.vctxs := rfl
@[simp] theorem modUser_users (s : State) (p : Nat) (f : UserTab → UserTab) : (modUser s p f).fab.users = updNth s.fab.users p f := rfl
@[simp] theorem modUser_rgns (s : State) (p : Nat) (f : UserTab → UserTab) : (modUser s p f).fab.rgns = s.fab.rgns := rfl
@[simp] theorem modLeave_leaves (s : State) (req mop : Nat) (f : Leave → Leave) :
    (modLeave s req mop f).power.leaves = updFirst (fun l => l.req == req && l.mop == mop) f s.power.leaves := rfl
@[simp] theorem modPort_ports (s : State) (port : Nat) (f : Port → Port) :
    (modPort s port f).links.ports = setNth s.links.ports port (f (portOf s port)) := rfl
@[simp] theorem modPort_hauls (s : State) (port : Nat) (f : Port → Port) : (modPort s port f).links.hauls = s.links.hauls := rfl
@[simp] theorem modPort_colls (s : State) (port : Nat) (f : Port → Port) : (modPort s port f).links.colls = s.links.colls := rfl
@[simp] theorem modHaul_hauls (s : State) (p id : Nat) (f : Haul → Haul) :
    (modHaul s p id f).links.hauls = updFirst (fun h => h.part == p && h.id == id) f s.links.hauls := rfl
@[simp] theorem modHaul_ports (s : State) (p id : Nat) (f : Haul → Haul) : (modHaul s p id f).links.ports = s.links.ports := rfl
@[simp] theorem modJob_jobs (s : State) (j : Job) (f : Job → Job) :
    (modJob s j f).inp.jobs = updFirst (fun k => k.req == j.req && k.mop == j.mop && k.entry == j.entry) f s.inp.jobs := rfl
@[simp] theorem rankJobs_fab (s : State) : (rankJobs s).fab = s.fab := by unfold rankJobs; dsimp only; split <;> rfl
@[simp] theorem setTally_fab (s : State) (t : Nat) (v : W32) :
    (setTally s t v).fab = { s.fab with tallies := cellSet s.fab.tallies t v 0 } := by simp [setTally]
@[simp] theorem clearTallies_tallies (s : State) (base count : Nat) :
    (clearTallies s base count).fab.tallies = s.fab.tallies.filter fun (t, _) => t < base || base + count ≤ t := rfl

/-! ### Readers look at one field. -/

theorem regRaw_congr {s t : State} (h : t.regs = s.regs) (page off : Nat) : regRaw t page off = regRaw s page off := by
  simp only [regRaw, h]

theorem fldGet_congr {s t : State} (h : t.regs = s.regs) (page off hi lo : Nat) : fldGet t page off hi lo = fldGet s page off hi lo := by
  simp only [fldGet, regRaw_congr h]

theorem memGet_congr {s t : State} (h : t.mem = s.mem) (pa : Nat) : memGet t pa = memGet s pa := by simp only [memGet, h]

theorem rgn_congr {s t : State} (h : t.fab.rgns = s.fab.rgns) (r : Nat) : rgn t r = rgn s r := by simp only [rgn, h]

theorem sess_congr {s t : State} (h : t.host.sess = s.host.sess) (i : Nat) : sess t i = sess s i := by simp only [sess, h]

theorem req?_congr {s t : State} (h : t.sched.reqs = s.sched.reqs) (id : Nat) : req? t id = req? s id := by simp only [req?, h]

theorem tally_congr {s t : State} (h : t.fab.tallies = s.fab.tallies) (n : Nat) : tally t n = tally s n := by simp only [tally, h]

theorem translate_congr {s t : State} (h : t.pool = s.pool) (p va : Nat) : translate t p va = translate s p va := by
  simp only [translate, findPte, h]

/-- A virtual byte depends on the pool and on memory. -/
theorem vget_congr {s t : State} (hp : t.pool = s.pool) (hm : t.mem = s.mem) (p va : Nat) : vget t p va = vget s p va := by
  simp only [vget, vbyte, translate_congr hp, pteByte, memGet_congr hm]

theorem vread_congr {s t : State} (hp : t.pool = s.pool) (hm : t.mem = s.mem) (p va n : Nat) : vread t p va n = vread s p va n := by
  induction n generalizing va with
  | zero => rfl
  | succ n ih => simp only [vread, vget_congr hp hm, ih]

theorem partValid_congr {s t : State} (h : t.regs = s.regs) (p : Nat) : partValid t p = partValid s p := by
  simp only [partValid, fldGet_congr h]

theorem partSess_congr {s t : State} (h : t.regs = s.regs) (p : Nat) : partSess t p = partSess s p := by
  simp only [partSess, fldGet_congr h]

theorem leadRgn_congr {s t : State} (h : t.fab.rgns = s.fab.rgns) (p : Nat) : leadRgn t p = leadRgn s p := by
  simp only [leadRgn, partRgns, rgn_congr h]

/-! ### Lists updated at one place. -/

theorem nth_updNth_same {α : Type} {l : List α} {i : Nat} (h : i < l.length) (f : α → α) (d : α) :
    nth (updNth l i f) i d = f (nth l i d) := by
  simp [nth, updNth, h]

theorem nth_updNth_ne {α : Type} {l : List α} {i j : Nat} (h : i ≠ j) (f : α → α) (d : α) : nth (updNth l i f) j d = nth l j d := by
  simp [nth, updNth, h]

@[simp] theorem length_updNth {α : Type} (l : List α) (i : Nat) (f : α → α) : (updNth l i f).length = l.length := by
  simp [updNth]

@[simp] theorem length_setNth {α : Type} (l : List α) (i : Nat) (a : α) : (setNth l i a).length = l.length := by simp [setNth]

theorem nth_setNth_same {α : Type} {l : List α} {i : Nat} (h : i < l.length) (a d : α) : nth (setNth l i a) i d = a := by
  simp [nth, setNth, h]

theorem nth_setNth_ne {α : Type} {l : List α} {i j : Nat} (h : i ≠ j) (a d : α) : nth (setNth l i a) j d = nth l j d := by
  simp [nth, setNth, h]

/-- The first element that satisfies `p` becomes `f` of it, where `f` keeps `p`. -/
theorem find?_updFirst_same {α : Type} {p : α → Bool} {f : α → α} (h : ∀ a, p a = true → p (f a) = true) (l : List α) :
    (updFirst p f l).find? p = (l.find? p).map f := by
  induction l with
  | nil => rfl
  | cons a l ih =>
    unfold updFirst
    by_cases ha : p a = true
    · simp [ha, h a ha]
    · simp [ha, ih]

/-- Another search finds what it found before, where the two exclude each other. -/
theorem find?_updFirst_ne {α : Type} {p q : α → Bool} {f : α → α} (h : ∀ a, p a = true → q a = false ∧ q (f a) = false) (l : List α) :
    (updFirst p f l).find? q = l.find? q := by
  induction l with
  | nil => rfl
  | cons a l ih =>
    unfold updFirst
    by_cases ha : p a = true
    · simp [ha, (h a ha).1, (h a ha).2]
    · simp [ha, List.find?_cons, ih]

/-! ### Regions, sessions and requests after an update of one. -/

theorem rgn_modRgn_same {s : State} {r : Nat} (h : r < s.fab.rgns.length) (f : Region → Region) :
    rgn (modRgn s r f) r = f (rgn s r) := nth_updNth_same h f {}

theorem rgn_modRgn_ne {s : State} {r q : Nat} (h : r ≠ q) (f : Region → Region) : rgn (modRgn s r f) q = rgn s q := nth_updNth_ne h f {}

theorem sess_modSess_same {s : State} {i : Nat} (h : i < s.host.sess.length) (f : Sess → Sess) :
    sess (modSess s i f) i = f (sess s i) := nth_updNth_same h f {}

theorem sess_modSess_ne {s : State} {i j : Nat} (h : i ≠ j) (f : Sess → Sess) : sess (modSess s i f) j = sess s j := nth_updNth_ne h f {}

theorem req?_modReq_same (s : State) (id : Nat) {f : Request → Request} (h : ∀ r, (f r).id = r.id) :
    req? (modReq s id f) id = (req? s id).map f :=
  find?_updFirst_same (p := fun r : Request => r.id == id) (fun r hr => by simpa [h r] using hr) _

theorem req?_modReq_ne (s : State) {id j : Nat} (hj : j ≠ id) {f : Request → Request} (h : ∀ r, (f r).id = r.id) :
    req? (modReq s id f) j = req? s j := by
  refine find?_updFirst_ne (p := fun r : Request => r.id == id) (q := fun r : Request => r.id == j) (fun r hr => ?_) _
  have : r.id = id := by simpa using hr
  simp [h r, this, Ne.symm hj]

end Sys2Proof.Machine
end

