-- ==== Sys2Proof/Laws/Ops.lean ====
section
/-! SUPPORT. Registers, events, tallies and memory: reading after a write, and that each operation keeps the canonical forms. -/

namespace Sys2Proof.Machine

/-! ### Registers (R568). -/

/-- Two registers at offsets within a page have one address only if they are the same register. -/
theorem regAddr_inj {page off page' off' : Nat} (h : off < 4096) (h' : off' < 4096) (e : regAddr page off = regAddr page' off') :
    page = page' ∧ off = off' := by
  unfold regAddr at e; omega

/-- Registers at different offsets have different addresses, whatever their pages. -/
theorem regAddr_ne_of_off {page off page' off' : Nat} (h : off < 4096 := by decide) (h' : off' < 4096 := by decide)
    (hne : off ≠ off' := by decide) : regAddr page off ≠ regAddr page' off' := fun e => hne (regAddr_inj h h' e).2

theorem coldAt_regAddr {page off : Nat} (h : off < 4096) : coldAt (regAddr page off) = BitVec.ofNat 64 (coldReg page off) := by
  have h1 : (page * 4096 + off) / 4096 = page := by omega
  have h2 : (page * 4096 + off) % 4096 = off := by omega
  simp only [coldAt, regAddr, h1, h2]

/-- A register file in which nothing is listed holds the cold values. -/
theorem regRaw_nil {s : State} (h : s.regs = []) {page off : Nat} (ho : off < 4096) : regRaw s page off = coldReg page off % 2 ^ 64 := by
  simp only [regRaw, h, cellGet, coldAt_regAddr ho, BitVec.toNat_ofNat]

theorem regRaw_lt (s : State) (page off : Nat) : regRaw s page off < 2 ^ 64 := BitVec.isLt _

/-- A register reads as written. -/
theorem regRaw_setReg_same {s : State} (h : cellWf coldAt s.regs = true) (page off v : Nat) :
    regRaw (setReg s page off v) page off = v % 2 ^ 64 := by
  simp only [regRaw, setReg_regs, cellGet_cellSet_same (d := coldAt) h, BitVec.toNat_ofNat]

/-- Another register reads as before. -/
theorem regRaw_setReg_ne {s : State} (h : cellWf coldAt s.regs = true) {page off page' off' : Nat}
    (hne : regAddr page' off' ≠ regAddr page off) (v : Nat) : regRaw (setReg s page off v) page' off' = regRaw s page' off' := by
  simp only [regRaw, setReg_regs, cellGet_cellSet_ne (d := coldAt) h hne]

theorem otherRegs_setReg {s : State} (h : cellWf coldAt s.regs = true) {page off : Nat} (ho : off < 4096) (v : Nat) :
    OtherRegs s (setReg s page off v) page off := fun page' off' ho' hne =>
  regRaw_setReg_ne h (fun e => hne (by obtain ⟨rfl, rfl⟩ := regAddr_inj ho' ho e; rfl)) v

theorem setReg_regsWf {s : State} (h : cellWf coldAt s.regs = true) (page off v : Nat) :
    cellWf coldAt (setReg s page off v).regs = true := cellSet_wf (d := coldAt) h _ _

theorem fldSet_regsWf {s : State} (h : cellWf coldAt s.regs = true) (page off hi lo x : Nat) :
    cellWf coldAt (fldSet s page off hi lo x).regs = true := setReg_regsWf h _ _ _

/-- A counter's update as a write of its register. -/
theorem bump_eq (s : State) (page off n : Nat) :
    bump s page off n = if n == 0 then s else setReg s page off (Nat.min (regRaw s page off + n) (2 ^ 64 - 1)) := by
  unfold bump
  split <;> rfl

theorem bump_regsWf {s : State} (h : cellWf coldAt s.regs = true) (page off n : Nat) :
    cellWf coldAt (bump s page off n).regs = true := by
  rw [bump_eq]
  split
  · exact h
  · exact setReg_regsWf h _ _ _

/-- A counter rises by `n` and stops at 2^64 - 1 (R72). -/
theorem regRaw_bump_same {s : State} (h : cellWf coldAt s.regs = true) (page off n : Nat) :
    regRaw (bump s page off n) page off = Nat.min (regRaw s page off + n) (2 ^ 64 - 1) := by
  have hl := regRaw_lt s page off
  rw [bump_eq]
  split
  · rename_i hn
    have : n = 0 := by simpa using hn
    subst this
    exact (Nat.min_eq_left (by omega)).symm
  · rw [regRaw_setReg_same h]
    exact Nat.mod_eq_of_lt (Nat.lt_of_le_of_lt (Nat.min_le_right _ _) (by decide))

theorem countedOnce_bump {s : State} (h : cellWf coldAt s.regs = true) (page off : Nat) :
    CountedOnce s (bump s page off 1) page off := regRaw_bump_same h page off 1

theorem regRaw_bump_ne {s : State} (h : cellWf coldAt s.regs = true) {page off page' off' : Nat}
    (hne : regAddr page' off' ≠ regAddr page off) (n : Nat) : regRaw (bump s page off n) page' off' = regRaw s page' off' := by
  rw [bump_eq]
  split
  · rfl
  · exact regRaw_setReg_ne h hne _

/-- The field of a number whose bits [hi:lo] were replaced. -/
theorem bits_withBits_same {v hi lo x : Nat} (h : lo ≤ hi) : bits (withBits v hi lo x) hi lo = x % 2 ^ (hi + 1 - lo) := by
  have h1 : v % 2 ^ lo < 2 ^ lo := Nat.mod_lt _ (Nat.two_pow_pos lo)
  have hp : 2 ^ (hi + 1) = 2 ^ lo * 2 ^ (hi + 1 - lo) := by rw [← Nat.pow_add]; congr 1; omega
  simp only [bits, withBits, Nat.shiftLeft_eq, Nat.shiftRight_eq_div_pow, hp]
  have e : v % 2 ^ lo + x % 2 ^ (hi + 1 - lo) * 2 ^ lo + v / (2 ^ lo * 2 ^ (hi + 1 - lo)) * (2 ^ lo * 2 ^ (hi + 1 - lo))
      = v % 2 ^ lo + 2 ^ lo * (x % 2 ^ (hi + 1 - lo) + v / (2 ^ lo * 2 ^ (hi + 1 - lo)) * 2 ^ (hi + 1 - lo)) := by ring
  rw [e, Nat.add_mul_div_left _ _ (Nat.two_pow_pos lo), Nat.div_eq_of_lt h1, Nat.zero_add, Nat.add_mul_mod_self_right, Nat.mod_mod]

/-- Replacing bits of a 64-bit number by a field within it keeps it a 64-bit number. -/
theorem withBits_lt {v hi lo x : Nat} (hv : v < 2 ^ 64) (h : lo ≤ hi) (hh : hi < 64) : withBits v hi lo x < 2 ^ 64 := by
  have h1 : v % 2 ^ lo < 2 ^ lo := Nat.mod_lt _ (Nat.two_pow_pos lo)
  have h2 : x % 2 ^ (hi + 1 - lo) < 2 ^ (hi + 1 - lo) := Nat.mod_lt _ (Nat.two_pow_pos _)
  have hp : 2 ^ (hi + 1) = 2 ^ lo * 2 ^ (hi + 1 - lo) := by rw [← Nat.pow_add]; congr 1; omega
  have hq : 2 ^ 64 = 2 ^ (hi + 1) * 2 ^ (63 - hi) := by rw [← Nat.pow_add]; congr 1; omega
  have h3 : v / 2 ^ (hi + 1) < 2 ^ (63 - hi) := Nat.div_lt_of_lt_mul (by rw [← hq]; exact hv)
  simp only [withBits, Nat.shiftLeft_eq, Nat.shiftRight_eq_div_pow]
  have h4 : v % 2 ^ lo + x % 2 ^ (hi + 1 - lo) * 2 ^ lo < 2 ^ (hi + 1) := by
    calc v % 2 ^ lo + x % 2 ^ (hi + 1 - lo) * 2 ^ lo < 2 ^ lo + x % 2 ^ (hi + 1 - lo) * 2 ^ lo := by omega
      _ = (x % 2 ^ (hi + 1 - lo) + 1) * 2 ^ lo := by ring
      _ ≤ 2 ^ (hi + 1 - lo) * 2 ^ lo := Nat.mul_le_mul_right _ h2
      _ = 2 ^ (hi + 1) := by rw [hp, Nat.mul_comm]
  calc _ < 2 ^ (hi + 1) + v / 2 ^ (hi + 1) * 2 ^ (hi + 1) := by omega
    _ = (v / 2 ^ (hi + 1) + 1) * 2 ^ (hi + 1) := by ring
    _ ≤ 2 ^ (63 - hi) * 2 ^ (hi + 1) := Nat.mul_le_mul_right _ h3
    _ = 2 ^ 64 := by rw [hq, Nat.mul_comm]

/-- A field reads as written. -/
theorem fldGet_fldSet_same {s : State} (h : cellWf coldAt s.regs = true) {hi lo : Nat} (hl : lo ≤ hi) (hh : hi < 64) (page off x : Nat) :
    fldGet (fldSet s page off hi lo x) page off hi lo = x % 2 ^ (hi + 1 - lo) := by
  rw [fldGet, fldSet, regRaw_setReg_same h, Nat.mod_eq_of_lt (withBits_lt (regRaw_lt ..) hl hh), bits_withBits_same hl]

/-- Another register of a field's write reads as before. -/
theorem regRaw_fldSet_ne {s : State} (h : cellWf coldAt s.regs = true) {page off page' off' : Nat}
    (hne : regAddr page' off' ≠ regAddr page off) (hi lo x : Nat) : regRaw (fldSet s page off hi lo x) page' off' = regRaw s page' off' :=
  regRaw_setReg_ne h hne _

/-! ### Physical memory (R29). -/

theorem memGet_memSet_same {s : State} (h : Memory.wf s.mem) (pa : Nat) (b : Byte) : memGet (memSet s pa b) pa = b :=
  cellGet_cellSet_same (d := fun _ => (0 : Byte)) h pa b

theorem memGet_memSet_ne {s : State} (h : Memory.wf s.mem) {pa a : Nat} (hne : a ≠ pa) (b : Byte) :
    memGet (memSet s pa b) a = memGet s a :=
  cellGet_cellSet_ne (d := fun _ => (0 : Byte)) h hne b 0

theorem memSet_wf {s : State} (h : Memory.wf s.mem) (pa : Nat) (b : Byte) : Memory.wf (memSet s pa b).mem :=
  cellSet_wf (d := fun _ => (0 : Byte)) h pa b

theorem memZero_wf {s : State} (h : Memory.wf s.mem) (lo hi : Nat) : Memory.wf (memZero s lo hi).mem :=
  cellWf_filter (d := fun _ => (0 : Byte)) h _

theorem memWrite_wf {s : State} (h : Memory.wf s.mem) (pa : Nat) (bs : Bytes) : Memory.wf (memWrite s pa bs).mem := by
  induction bs generalizing s pa with
  | nil => exact h
  | cons b bs ih => exact ih (memSet_wf h pa b) (pa + 1)

/-- Bytes beside a run that was written read as before. -/
theorem memGet_memWrite_out {s : State} (h : Memory.wf s.mem) {pa a : Nat} (bs : Bytes) (ha : a < pa ∨ pa + bs.length ≤ a) :
    memGet (memWrite s pa bs) a = memGet s a := by
  induction bs generalizing s pa with
  | nil => rfl
  | cons b bs ih =>
    simp only [List.length_cons] at ha
    rw [memWrite, ih (memSet_wf h pa b) (by omega), memGet_memSet_ne h (by omega)]

theorem length_memRead (s : State) (pa n : Nat) : (memRead s pa n).length = n := by
  induction n generalizing pa with
  | zero => rfl
  | succ n ih => simp [memRead, ih]

/-- A run reads as its two parts. -/
theorem memRead_add (s : State) (pa a b : Nat) : memRead s pa (a + b) = memRead s pa a ++ memRead s (pa + a) b := by
  induction a generalizing pa with
  | zero => simp [memRead]
  | succ a ih => rw [show a + 1 + b = a + b + 1 by omega, memRead, ih, memRead, show pa + 1 + a = pa + (a + 1) by omega]; rfl

/-- A run that was written reads as written. -/
theorem memGet_memWrite_in {s : State} (h : Memory.wf s.mem) {pa : Nat} (bs : Bytes) {i : Nat} (hi : i < bs.length) :
    memGet (memWrite s pa bs) (pa + i) = bs[i] := by
  induction bs generalizing s pa i with
  | nil => exact absurd hi (by simp)
  | cons b bs ih =>
    cases i with
    | zero => rw [memWrite, memGet_memWrite_out (memSet_wf h pa b) bs (by omega), Nat.add_zero, memGet_memSet_same h]; rfl
    | succ i =>
      simp only [List.length_cons] at hi
      rw [memWrite, show pa + (i + 1) = pa + 1 + i by omega, ih (memSet_wf h pa b) (by omega)]; rfl

/-- A filter of a canonical list reads as the list where it keeps the key, and as nothing elsewhere. -/
theorem cellGet_filter {α : Type} [DecidableEq α] {d : Nat → α} {l : List (Nat × α)} (h : cellWf d l = true) (p : Nat → Bool) (k : Nat)
    (e : α) : cellGet (l.filter fun x => p x.1) k e = if p k then cellGet l k e else e := by
  induction l with
  | nil => simp [cellGet]
  | cons y t ih =>
    obtain ⟨k', v⟩ := y
    obtain ⟨_, h2, h3⟩ := cellWf_cons.mp h
    have hs : ∀ {q : Nat → Bool}, k < k' → cellGet (t.filter fun x => q x.1) k e = e := fun {q} hk =>
      cellGet_of_keysFrom fun x hx => by have := h2 x (List.mem_of_mem_filter hx); omega
    rw [List.filter_cons]
    by_cases hp : p k' = true
    · simp only [hp, if_true]
      simp only [cellGet]
      by_cases hk : k' = k
      · subst hk; simp [hp]
      · by_cases hlt : k < k'
        · simp [hk, hlt]
        · simp only [beq_iff_eq, hk, if_false, hlt, ih h3]
    · simp only [hp]
      simp only [cellGet]
      by_cases hk : k' = k
      · subst hk
        have : cellGet (t.filter fun x => p x.1) k' e = e :=
          cellGet_of_keysFrom fun x hx => by have := h2 x (List.mem_of_mem_filter hx); omega
        simp [hp, this]
      · by_cases hlt : k < k'
        · simp [hk, hlt, hs hlt]
        · simp [hk, hlt, ih h3]

/-- Zeroed bytes read 0, the others as before. -/
theorem memGet_memZero {s : State} (h : Memory.wf s.mem) (lo hi a : Nat) :
    memGet (memZero s lo hi) a = if a < lo ∨ hi ≤ a then memGet s a else 0 := by
  have := cellGet_filter (d := fun _ => (0 : Byte)) h (fun a => decide (a < lo) || decide (hi ≤ a)) a 0
  simpa [memGet] using this

/-- A copy keeps the canonical form. -/
theorem memCopy_wf {s : State} (h : Memory.wf s.mem) (src dst n : Nat) : Memory.wf (memCopy s src dst n).mem := by
  have key : ∀ (l : List Host.Cell) (z : State), Memory.wf z.mem → Memory.wf (l.foldl (fun acc (x : Host.Cell) =>
      if src ≤ x.1 && x.1 < src + n then memSet acc (dst + (x.1 - src)) x.2 else acc) z).mem := by
    intro l
    induction l with
    | nil => exact fun z hz => hz
    | cons x l ih =>
      intro z hz
      refine ih _ ?_
      dsimp only
      split
      · exact memSet_wf hz _ _
      · exact hz
  exact key s.mem _ (memZero_wf h _ _)

/-! ### Virtual stores (R264, R267). -/

theorem vset_wf {s : State} (h : Memory.wf s.mem) (p va : Nat) (b : Byte) : Memory.wf (vset p s va b).mem := by
  unfold vset
  split
  · exact memSet_wf h _ _
  · exact h

theorem vstore_wf {s : State} (h : Memory.wf s.mem) (p : Nat) (bs : List (Nat × Byte)) : Memory.wf (vstore p bs s).mem := by
  unfold vstore
  induction bs generalizing s with
  | nil => exact h
  | cons x bs ih => exact ih (vset_wf h p x.1 x.2)

/-! ### Tallies (R467-R469). -/

theorem tally_setTally_same {s : State} (h : cellWf (fun _ => (0 : W32)) s.fab.tallies = true) (t : Nat) (v : W32) :
    tally (setTally s t v) t = v := by
  simp only [tally, setTally_fab]; exact cellGet_cellSet_same (d := fun _ => (0 : W32)) h t v

theorem tally_setTally_ne {s : State} (h : cellWf (fun _ => (0 : W32)) s.fab.tallies = true) {t n : Nat} (hne : n ≠ t) (v : W32) :
    tally (setTally s t v) n = tally s n := by
  simp only [tally, setTally_fab]; exact cellGet_cellSet_ne (d := fun _ => (0 : W32)) h hne v 0

theorem setTally_wf {s : State} (h : cellWf (fun _ => (0 : W32)) s.fab.tallies = true) (t : Nat) (v : W32) :
    cellWf (fun _ => (0 : W32)) (setTally s t v).fab.tallies = true := by
  simp only [setTally_fab]; exact cellSet_wf (d := fun _ => (0 : W32)) h t v

/-- A signal adds to its tally and to no other (R468). -/
theorem tally_addTally {s : State} (h : cellWf (fun _ => (0 : W32)) s.fab.tallies = true) (t n : Nat) (v : W32) :
    tally (addTally s t v) n = tally s n + if n = t then v else 0 := by
  by_cases hn : n = t
  · subst hn; simp [addTally, tally_setTally_same h]
  · simp [addTally, tally_setTally_ne h hn, hn]

/-- The tallies of an allotment read 0 after they are cleared, the others as before (R467). -/
theorem tally_clearTallies {s : State} (h : cellWf (fun _ => (0 : W32)) s.fab.tallies = true) (base count n : Nat) :
    tally (clearTallies s base count) n = if n < base ∨ base + count ≤ n then tally s n else 0 := by
  have := cellGet_filter (d := fun _ => (0 : W32)) h (fun t => decide (t < base) || decide (base + count ≤ t)) n 0
  simpa [tally, clearTallies] using this

/-! ### The invariant. -/

/-- The invariant looks at seven parts of the state. -/
theorem Inv.congr {s t : State} (h : Inv s) (hm : t.mem = s.mem) (hr : t.regs = s.regs) (hf : t.fab = s.fab) (hh : t.host = s.host)
    (hp : t.pool = s.pool) : Inv t := by
  constructor
  exacts [hm ▸ h.mem, hr ▸ h.regs, hf ▸ h.tallies, hf ▸ h.rgns, hh ▸ h.sess, hp ▸ h.hbms, hf ▸ h.users]

theorem setReg_inv {s : State} (h : Inv s) (page off v : Nat) : Inv (setReg s page off v) :=
  { h with regs := setReg_regsWf h.regs page off v }

theorem fldSet_inv {s : State} (h : Inv s) (page off hi lo x : Nat) : Inv (fldSet s page off hi lo x) := setReg_inv h _ _ _

theorem bump_inv {s : State} (h : Inv s) (page off n : Nat) : Inv (bump s page off n) := by
  rw [bump_eq]
  split
  · exact h
  · exact setReg_inv h _ _ _

theorem emit_inv {s : State} (h : Inv s) (o : Out) : Inv (emit s o) := h.congr rfl rfl rfl rfl rfl

theorem modRgn_inv {s : State} (h : Inv s) (r : Nat) (f : Region → Region) : Inv (modRgn s r f) :=
  { h with rgns := by simpa using h.rgns }

theorem modSess_inv {s : State} (h : Inv s) (i : Nat) (f : Sess → Sess) : Inv (modSess s i f) :=
  { h with sess := by simpa using h.sess }

theorem modReq_inv {s : State} (h : Inv s) (id : Nat) (f : Request → Request) : Inv (modReq s id f) := h.congr rfl rfl rfl rfl rfl

theorem memSet_inv {s : State} (h : Inv s) (pa : Nat) (b : Byte) : Inv (memSet s pa b) := { h with mem := memSet_wf h.mem pa b }

theorem memZero_inv {s : State} (h : Inv s) (lo hi : Nat) : Inv (memZero s lo hi) := { h with mem := memZero_wf h.mem lo hi }

/-- An operation that keeps the invariant keeps it when it is done for each element of a list. -/
theorem forEach_inv {α : Type} {f : State → α → State} (hf : ∀ s a, Inv s → Inv (f s a)) (l : List α) {s : State} (h : Inv s) :
    Inv (forEach l f s) := by
  unfold forEach
  induction l generalizing s with
  | nil => exact h
  | cons a l ih => exact ih (hf s a h)

theorem traceRec_inv {s : State} (h : Inv s) (kind part page tag idx op status code data : Nat) :
    Inv (traceRec s kind part page tag idx op status code data) := by
  unfold traceRec
  dsimp only
  split
  · split
    · exact bump_inv h _ _ _
    · exact h.congr rfl rfl rfl rfl rfl
  · exact h

theorem eventToSess_inv {s : State} (h : Inv s) (page n i : Nat) : Inv (eventToSess page n s i) := by
  unfold eventToSess
  split
  · split
    · exact modSess_inv h _ _
    · exact bump_inv h _ _ _
  · exact h

/-- Raising an event keeps the invariant (R573). -/
theorem raise_inv {s : State} (h : Inv s) (page n : Nat) : Inv (raise s page n) :=
  traceRec_inv (forEach_inv (fun _ a hs => eventToSess_inv hs page n a) _ (bump_inv (setReg_inv h _ _ _) _ _ _)) _ _ _ _ _ _ _ _ _

theorem setTally_inv {s : State} (h : Inv s) (t : Nat) (v : W32) : Inv (setTally s t v) := by
  have hf := setTally_fab s t v
  have hr := rankJobs_frame { s with fab := { s.fab with tallies := cellSet s.fab.tallies t v 0 } }
  constructor
  · simpa [setTally] using h.mem
  · simpa [setTally] using h.regs
  · exact setTally_wf h.tallies t v
  · rw [hf]; exact h.rgns
  · simpa [setTally] using h.sess
  · simpa [setTally] using h.hbms
  · rw [hf]; exact h.users

theorem vstore_inv {s : State} (h : Inv s) (p : Nat) (bs : List (Nat × Byte)) : Inv (vstore p bs s) := by
  constructor
  · exact vstore_wf h.mem p bs
  · simpa using h.regs
  · simpa using h.tallies
  all_goals simp [h.rgns, h.sess, h.hbms, h.users]

/-- The event is in EVT_RAW once it has been raised (R573). -/
theorem raised_setReg {s : State} (h : cellWf coldAt s.regs = true) {page n : Nat} (hn : n < 64) :
    Raised (setReg s page oEVT_RAW (Nat.lor (regRaw s page oEVT_RAW) (2 ^ n))) page n := by
  have hb : Nat.lor (regRaw s page oEVT_RAW) (2 ^ n) < 2 ^ 64 :=
    Nat.or_lt_two_pow (regRaw_lt ..) (Nat.pow_lt_pow_right (by decide) hn)
  unfold Raised
  rw [regRaw_setReg_same h, Nat.mod_eq_of_lt hb]
  simp only [bit]
  exact (Nat.testBit_or ..).trans (by simp)

/-- What a later register write does not touch stays raised. -/
theorem Raised.congr {s t : State} {page n : Nat} (h : Raised s page n) (e : regRaw t page oEVT_RAW = regRaw s page oEVT_RAW) :
    Raised t page n := by
  unfold Raised at *; rw [e]; exact h

/-- The registers of other events and counters than EVENTS_LOST are as before when an event is queued for a session (R502). -/
theorem regRaw_eventToSess {s : State} (h : Inv s) (page n i : Nat) {page' off' : Nat}
    (hne : regAddr page' off' ≠ regAddr pgIVT oIVT_EVENTS_LOST) : regRaw (eventToSess page n s i) page' off' = regRaw s page' off' := by
  unfold eventToSess
  split
  · split
    · rfl
    · exact regRaw_bump_ne h.regs hne _
  · rfl

theorem regRaw_traceRec {s : State} (h : Inv s) (kind part page tag idx op status code data : Nat) {page' off' : Nat}
    (hne : regAddr page' off' ≠ regAddr pgDBG oDBG_TRACE_DROPS) :
    regRaw (traceRec s kind part page tag idx op status code data) page' off' = regRaw s page' off' := by
  unfold traceRec
  dsimp only
  split
  · split
    · exact regRaw_bump_ne h.regs hne _
    · rfl
  · rfl

/-- Raising an event changes EVT_RAW and EVT_COUNT of its page, EVENTS_LOST and TRACE_DROPS, and no other register (R502, R573, R585). -/
theorem regRaw_raise {s : State} (h : Inv s) (page n : Nat) {page' off' : Nat} (h1 : regAddr page' off' ≠ regAddr page oEVT_RAW)
    (h2 : regAddr page' off' ≠ regAddr page oEVT_COUNT) (h3 : regAddr page' off' ≠ regAddr pgIVT oIVT_EVENTS_LOST)
    (h4 : regAddr page' off' ≠ regAddr pgDBG oDBG_TRACE_DROPS) : regRaw (raise s page n) page' off' = regRaw s page' off' := by
  have hs := bump_inv (setReg_inv h page oEVT_RAW (Nat.lor (regRaw s page oEVT_RAW) (2 ^ n))) page oEVT_COUNT 1
  have key : ∀ (l : List Nat) (z : State), Inv z → regRaw (forEach l (eventToSess page n) z) page' off' = regRaw z page' off' := by
    intro l
    induction l with
    | nil => exact fun _ _ => rfl
    | cons i l ih => exact fun z hz => (ih _ (eventToSess_inv hz page n i)).trans (regRaw_eventToSess hz page n i h3)
  exact (regRaw_traceRec (forEach_inv (fun _ a hz => eventToSess_inv hz page n a) _ hs) _ _ _ _ _ _ _ _ _ h4).trans
    ((key _ _ hs).trans ((regRaw_bump_ne (setReg_inv h _ _ _).regs h2 _).trans (regRaw_setReg_ne h.regs h1 _)))

/-- An event that is raised stands in EVT_RAW (R573). -/
theorem raise_raised {s : State} (h : Inv s) (page : Nat) {n : Nat} (hn : n < 64) : Raised (raise s page n) page n := by
  have hs := bump_inv (setReg_inv h page oEVT_RAW (Nat.lor (regRaw s page oEVT_RAW) (2 ^ n))) page oEVT_COUNT 1
  have key : ∀ (l : List Nat) (z : State), Inv z →
      regRaw (forEach l (eventToSess page n) z) page oEVT_RAW = regRaw z page oEVT_RAW := by
    intro l
    induction l with
    | nil => exact fun _ _ => rfl
    | cons i l ih =>
      exact fun z hz => (ih _ (eventToSess_inv hz page n i)).trans (regRaw_eventToSess hz page n i regAddr_ne_of_off)
  refine (raised_setReg h.regs hn).congr ?_
  exact (regRaw_traceRec (forEach_inv (fun _ a hz => eventToSess_inv hz page n a) _ hs) _ _ _ _ _ _ _ _ _ regAddr_ne_of_off).trans
    ((key _ _ hs).trans (regRaw_bump_ne (setReg_inv h _ _ _).regs regAddr_ne_of_off _))

end Sys2Proof.Machine
end

