-- ==== Sys2Proof/Machine/Tables.lean ====
section
/-! DEFINITION. The translation tables that the pool keeps in the 2 GiB of a stack beside its pool frames: their entries and the walk of them
(R264, R265, R270). `translate` finds the same entries without the tables (Laws/Tables.lean). -/

namespace Sys2Proof.Machine

/-- A translation entry's bits (R264). -/
def entryWord (pa : Nat) (zero clean image pin flash w table : Bool) : Nat :=
  at_ (bits pa 47 12) 12 + flag zero 7 + flag clean 6 + flag image 5 + flag pin 4 + flag flash 3 + flag w 2 + flag table 1 + 1

/-- The entry of a page: W is clear while an eviction is under way (R275). -/
def Pte.word (e : Pte) : Nat := entryWord e.pa e.zero e.clean e.image.isSome e.pin e.flash (e.w && !e.evicting) false

/-- The number of a space. -/
def Space.code : Space → Nat
  | .gen p => p
  | .ctx i => 16 + i

/-- The physical address of the table of a space at a level (0 the root, 3 a small-page table) for an index above it: aligned to 4 KiB, in the
part of a stack that the pool keeps for itself; which frame is open. -/
def tableAt (sp : Space) (level index : Nat) : Nat :=
  let k := Config.tableFrame sp.code level index
  hbmBase (k % 12) + 62 * 2 ^ 30 + k / 12 % (2 ^ 31 / 4096) * 4096

/-- An entry that points to the next table. -/
def tableWord (sp : Space) (level index : Nat) : Nat := entryWord (tableAt sp level index) false false false false false false true

/-- Bits of a virtual offset that a level's entries share: 512 GiB, 1 GiB, 2 MiB and 64 KiB for each entry. -/
def levelShift (level : Nat) : Nat := match level with | 0 => 39 | 1 => 30 | 2 => 21 | _ => 16

/-- Entries of a table: 512, but 16 in the root of a context and 32 in a small-page table. -/
def tableLen (sp : Space) (level : Nat) : Nat :=
  match level, sp with
  | 0, .ctx _ => 16
  | 3, _ => 32
  | _, _ => 512

/-- The level that a page's entry stands at. -/
def Pte.level (e : Pte) : Nat := if e.small then 3 else 2

/-- A page of a space lies in the share of the entry with number `n` at a level. -/
def Pte.inShare (e : Pte) (sp : Space) (level n : Nat) : Bool := e.space == sp && e.va / 2 ^ levelShift level == n

/-- The entry at a level whose share of the space has number `n`: a page that stands there, a pointer to the table of the pages below it,
or 0. -/
def tableEntry (s : State) (sp : Space) (level n : Nat) : Nat :=
  match s.pool.ptes.find? fun e => e.inShare sp level n && e.level == level with
  | some e => e.word
  | none => if level < 3 && s.pool.ptes.any (·.inShare sp level n) then tableWord sp (level + 1) n else 0

/-- Walk the tables of a space from a level on; the entry that the walk ends at. -/
def walkFrom (s : State) (sp : Space) (off : Nat) : List Nat → Nat
  | [] => 0
  | level :: rest =>
    let w := tableEntry s sp level (off / 2 ^ levelShift level)
    if bit w 1 then walkFrom s sp off rest else w

/-- The walk of an offset (R265). -/
def walk (s : State) (sp : Space) (off : Nat) : Nat := walkFrom s sp off [0, 1, 2, 3]

end Sys2Proof.Machine
end

