-- ==== Sys2Proof/Laws/Tables.lean ====
section
/-! SUPPORT. The walk of the translation tables ends at the entry that `findPte` finds (R264, R265). -/

namespace Sys2Proof.Machine

/-- The pages of a space are aligned to their sizes and lie apart. -/
def Apart (s : State) : Prop :=
  (∀ e ∈ s.pool.ptes, e.va % e.size = 0) ∧
  ∀ e ∈ s.pool.ptes, ∀ f ∈ s.pool.ptes, e.space = f.space → e.va < f.va + f.size → f.va < e.va + e.size → e = f

theorem entryWord_table (pa : Nat) (zero clean image pin flash w table : Bool) :
    bit (entryWord pa zero clean image pin flash w table) 1 = table := by
  have h : entryWord pa zero clean image pin flash w table =
      4 * (at_ (bits pa 47 12) 10 + flag zero 5 + flag clean 4 + flag image 3 + flag pin 2 + flag flash 1 + flag w 0) + (flag table 1 + 1) := by
    simp only [entryWord, at_, flag]
    repeat' split
    all_goals omega
  rw [h, bit, Nat.testBit_succ, Nat.testBit_zero]
  cases table <;> simp [flag] <;> omega

@[simp] theorem Pte.word_table (e : Pte) : bit e.word 1 = false := entryWord_table ..

@[simp] theorem tableWord_table (sp : Space) (level index : Nat) : bit (tableWord sp level index) 1 = true := entryWord_table ..

/-- One page at most answers a search that only it meets. -/
theorem find_only {p : Pte → Bool} {l : List Pte} {e : Pte} (hm : e ∈ l) (hp : p e = true) (hu : ∀ f ∈ l, p f = true → f = e) :
    l.find? p = some e := by
  cases hf : l.find? p with
  | none => exact absurd hp (by simpa using List.find?_eq_none.mp hf e hm)
  | some f => rw [hu f (List.mem_of_find?_eq_some hf) (List.find?_some hf)]

/-- A page's share of the entries of its own level: it holds the offset exactly if the offset has the page's number there. -/
theorem holds_iff {e : Pte} {off : Nat} (ha : e.va % e.size = 0) :
    (e.va ≤ off ∧ off < e.va + e.size) ↔ e.va / e.size = off / e.size := by
  have hs : 0 < e.size := by unfold Pte.size; split <;> decide
  have hva := Nat.div_add_mod e.va e.size
  have hoff := Nat.div_add_mod off e.size
  have hlt := Nat.mod_lt off hs
  rw [ha, Nat.add_zero] at hva
  constructor
  · rintro ⟨h1, h2⟩
    rw [← hva, ← hoff] at h1 h2
    refine Nat.le_antisymm (Nat.div_le_div_right (by omega)) ?_
    have : e.size * (off / e.size) < e.size * (e.va / e.size + 1) := by rw [Nat.mul_add]; omega
    exact Nat.lt_succ_iff.mp (Nat.lt_of_mul_lt_mul_left this)
  · intro h
    rw [h] at hva
    omega

theorem Pte.size_level (e : Pte) : e.size = 2 ^ levelShift e.level := by
  cases e with | mk _ _ small => cases small <;> rfl

/-- The offsets of an entry share its number at its own level and at every level above. -/
theorem holds_number {e : Pte} {off level : Nat} (ha : e.va % e.size = 0) (hl : level ≤ e.level) (h : e.va ≤ off ∧ off < e.va + e.size) :
    e.va / 2 ^ levelShift level = off / 2 ^ levelShift level := by
  have hn := (holds_iff ha).mp h
  rw [Pte.size_level] at hn
  have hd : 2 ^ levelShift level = 2 ^ levelShift e.level * (2 ^ levelShift level / 2 ^ levelShift e.level) := by
    cases e with | mk _ _ small =>
    cases small <;> simp only [Pte.level, if_true, if_false, Bool.false_eq_true] at hl ⊢ <;> interval_cases level <;> decide
  rw [hd, ← Nat.div_div_eq_div_mul, ← Nat.div_div_eq_div_mul, hn]

/-- The entry at a level that an offset's number leads to is a page's own exactly if the page holds the offset and stands at that level. -/
theorem standsAt_iff {e : Pte} {sp : Space} {off level : Nat} (ha : e.va % e.size = 0) :
    (e.inShare sp level (off / 2 ^ levelShift level) && e.level == level) = true ↔
      e.space = sp ∧ e.level = level ∧ e.va ≤ off ∧ off < e.va + e.size := by
  rw [holds_iff ha, Pte.size_level]
  simp only [Pte.inShare, Bool.and_eq_true, beq_iff_eq]
  constructor
  · rintro ⟨⟨h1, h2⟩, rfl⟩; exact ⟨h1, rfl, h2⟩
  · rintro ⟨h1, rfl, h2⟩; exact ⟨⟨h1, h2⟩, rfl⟩

/-- What an entry of a table is, where a page holds the offset: the page's own entry at its level, a pointer above it. -/
theorem tableEntry_page {s : State} {sp : Space} {e : Pte} {off level : Nat} (ha : Apart s) (he : e ∈ s.pool.ptes) (hsp : e.space = sp)
    (h : e.va ≤ off ∧ off < e.va + e.size) (hl : level ≤ e.level) :
    tableEntry s sp level (off / 2 ^ levelShift level) =
      if level = e.level then e.word else tableWord sp (level + 1) (off / 2 ^ levelShift level) := by
  have same : ∀ f ∈ s.pool.ptes, (f.inShare sp level (off / 2 ^ levelShift level) && f.level == level) = true → f = e ∧ level = e.level := by
    intro f hf hp
    obtain ⟨h1, h2, h3⟩ := (standsAt_iff (ha.1 f hf)).mp hp
    have := ha.2 f hf e he (h1.trans hsp.symm) (by omega) (by omega)
    exact ⟨this, this ▸ h2.symm⟩
  unfold tableEntry
  by_cases hlv : level = e.level
  · rw [find_only he ((standsAt_iff (ha.1 e he)).mpr ⟨hsp, hlv.symm, h⟩) fun f hf hp => (same f hf hp).1, if_pos hlv]
  · rw [List.find?_eq_none.mpr fun f hf hp => hlv (same f hf hp).2, if_neg hlv]
    have hle : e.level ≤ 3 := by unfold Pte.level; split <;> omega
    have hin : s.pool.ptes.any (·.inShare sp level (off / 2 ^ levelShift level)) = true :=
      List.any_eq_true.mpr ⟨e, he, by simp [Pte.inShare, hsp, holds_number (ha.1 e he) hl h]⟩
    have hlt : level < 3 := by omega
    simp [hin, hlt]

/-- Where no page holds the offset, an entry points on or is 0. -/
theorem tableEntry_none {s : State} {sp : Space} {off : Nat} (level : Nat) (ha : Apart s)
    (h : ∀ e ∈ s.pool.ptes, e.space = sp → ¬ (e.va ≤ off ∧ off < e.va + e.size)) :
    tableEntry s sp level (off / 2 ^ levelShift level) = 0 ∨
      level < 3 ∧ tableEntry s sp level (off / 2 ^ levelShift level) = tableWord sp (level + 1) (off / 2 ^ levelShift level) := by
  unfold tableEntry
  rw [List.find?_eq_none.mpr fun f hf hp => by
    obtain ⟨h1, -, h3⟩ := (standsAt_iff (ha.1 f hf)).mp hp
    exact h f hf h1 h3]
  by_cases hl : level < 3
  · cases s.pool.ptes.any (·.inShare sp level (off / 2 ^ levelShift level)) <;> simp [hl]
  · simp [hl]

/-- The walk of an offset ends at the entry of the page that holds it, at 0 where no page does (R265, R267). -/
theorem walk_findPte {s : State} (ha : Apart s) (sp : Space) (off : Nat) :
    walk s sp off = match findPte s sp off with | some e => e.word | none => 0 := by
  unfold findPte
  cases hf : s.pool.ptes.find? fun e => e.space == sp && e.va ≤ off && off < e.va + e.size with
  | some e =>
    have hm := List.mem_of_find?_eq_some hf
    have hp := List.find?_some hf
    simp only [Bool.and_eq_true, beq_iff_eq, decide_eq_true_eq] at hp
    have hE := fun level hl => tableEntry_page (level := level) ha hm hp.1.1 ⟨hp.1.2, hp.2⟩ hl
    have hlv : e.level = 2 ∨ e.level = 3 := by unfold Pte.level; split <;> simp
    rcases hlv with hl | hl <;> simp [walk, walkFrom, hE, hl]
  | none =>
    have hN := fun level => tableEntry_none (sp := sp) (off := off) level ha fun e he hsp hh => by
      have := List.find?_eq_none.mp hf e he
      simp_all
    have hz : bit 0 1 = false := rfl
    simp only [walk, walkFrom]
    rcases hN 0 with h0 | ⟨-, h0⟩ <;> rcases hN 1 with h1 | ⟨-, h1⟩ <;> rcases hN 2 with h2 | ⟨-, h2⟩ <;> rcases hN 3 with h3 | ⟨h, -⟩ <;>
      first | omega | simp [*]

end Sys2Proof.Machine
end

