-- ==== Sys2Proof/Tests/Build.lean ====
section
/-! SUPPORT. Small states for tests and witnesses: a module that serves, with one open secure session, one partition and one page of HBM. -/

namespace Sys2Proof.Tests

set_option Elab.async false

open Sys2Proof.Machine

/-- The page that maps the first 2 MiB of partition 0's general space: a virtual address is its own physical address. -/
def page0 : Pte := { space := .gen 0, va := 0, small := false, pa := 0, owner := 0 }

/-- Session 0, open and secure. -/
def sess0 : Sess := { isOpen := true, secure := true, keySlot := 1, tag := 7, ip := 1, port := 2 }

/-- The module at full service with partition 0, which session 0 owns, in region 0. -/
def base : State :=
  setReg { boot := { phase := .running, resetN := true, holdDone := true, service := 2 }
           fab := { rgns := { owner := some 0, powered := true } :: List.replicate 47 {} }
           pool := { ptes := [page0] }
           host := { state := 2, lanes := 8, sess := sess0 :: List.replicate 15 {} } } pgSCH oSCH_PART (2 ^ 63 + 1)

/-- A state with registers set: page, offset, value. -/
def regs (l : List (Nat × Nat × Nat)) (s : State) : State := l.foldl (fun s x => setReg s x.1 x.2.1 x.2.2) s

/-- The cells of runs of bytes, in ascending order of address. -/
def cells (l : List (Nat × Bytes)) : List Host.Cell := (l.map fun x => (bytesAt x.1 x.2).filter fun c => c.2 ≠ 0).flatten

/-- The bytes of a macro-op descriptor (R119). -/
def mopBytes (op : Nat) (sub : Nat := 0) (out : Nat := 0) (a : Nat := 0) (b : Nat := 0) (c : Nat := 0) (aux : Nat := 0)
    (param : Bytes := []) (flags : Nat := 0) (energy : Nat := 0) (lengths : Nat := 0) (layer : Nat := 0) (wait : Nat := 0xFFFF)
    (signal : Nat := 0xFFFF) : Bytes :=
  [BitVec.ofNat 8 op, BitVec.ofNat 8 flags, BitVec.ofNat 8 energy, BitVec.ofNat 8 sub] ++ natLe 4 0 ++ natLe 8 out ++ natLe 8 a ++ natLe 8 b
    ++ natLe 8 c ++ natLe 8 0 ++ natLe 8 lengths ++ natLe 8 layer ++ natLe 8 0 ++ natLe 8 aux ++ natLe 8 wait ++ natLe 8 0xFFFF ++ natLe 8 signal
    ++ natLe 8 0xFFFF ++ param ++ zeros (16 - param.length)

/-- The bytes of a tensor descriptor of up to five sizes, its elements one after another (R124). -/
def tdBytes (base ty : Nat) (sizes : List Nat) : Bytes :=
  let sz := sizes ++ List.replicate (5 - sizes.length) 1
  let strides := (List.range 5).map fun d => (sz.take d).foldl (· * ·) 1
  natLe 8 base ++ natLe 8 0 ++ natLe 1 ty ++ natLe 1 sizes.length ++ natLe 2 0 ++ (sz.map (natLe 4)).flatten ++ (strides.map (natLe 4)).flatten
    ++ natLe 4 0

/-- Where the parts lie: the list, tensor descriptors OUT, A, B, C, the auxiliary structure, and the tensors' elements. -/
abbrev atList : Nat := 0x1000
abbrev atOut : Nat := 0x2000
abbrev atA : Nat := 0x2040
abbrev atB : Nat := 0x2080
abbrev atC : Nat := 0x20C0
abbrev atAux : Nat := 0x3000
abbrev outEls : Nat := 0x4000
abbrev aEls : Nat := 0x5000
abbrev bEls : Nat := 0x6000
abbrev cEls : Nat := 0x7000

/-- An admitted request of partition 0 whose macro-ops are begun as listed. -/
def req0 (nops : Nat) (mops : List MopSt) : Request :=
  { id := 0, part := 0, sess := 0, keySlot := 1, tag := 5, list := atList, nops := nops, st := .admitted, mops := mops }

/-- A state in which macro-op 0 of request 0, of these descriptor bytes, has leave, with further bytes in memory. -/
def granted (m : Bytes) (l : List (Nat × Bytes)) (st : MopSt := { idx := 0, stage := .granted, begun := true }) (s : State := base) : State :=
  { s with mem := cells ((atList, m) :: l), sched := { reqs := [req0 1 [st]], nextReq := 1 } }

/-- The macro-op at work in such a state. -/
def run0 (s : State) : Run := (run? s ⟨0, 0⟩).getD ⟨req0 0 [], 0, parseMop [], { idx := 0, stage := .done }⟩

/-- The invariant as a check. -/
def invB (s : State) : Bool :=
  cellWf (fun _ => (0 : Byte)) s.mem && cellWf coldAt s.regs && cellWf (fun _ => (0 : W32)) s.fab.tallies
    && s.fab.rgns.length == 48 && s.host.sess.length == 16 && s.pool.hbms.length == 12 && s.fab.users.length == 16

theorem inv_of_invB {s : State} (h : invB s = true) : Inv s := by
  simp only [invB, Bool.and_eq_true, beq_iff_eq] at h
  obtain ⟨⟨⟨⟨⟨⟨h1, h2⟩, h3⟩, h4⟩, h5⟩, h6⟩, h7⟩ := h
  exact ⟨h1, h2, h3, h4, h5, h6, h7⟩

end Sys2Proof.Tests
end

