-- ==== Sys2Proof/Tests/WitnessModule.lean ====
section
/-! SUPPORT. Witnesses for the hypotheses of the statements about the module itself: start-up, memories, power, links, registers, sessions. -/

namespace Sys2Proof.Tests

set_option Elab.async false

open Sys2Proof.Machine

/-! ### The queue, the invariant, start-up. -/

theorem witness_StepRunsFrontCommand : ({ base with pending := [.powerOn, .warmReset] } : State).pending = .powerOn :: [.warmReset] := rfl

theorem witness_IdleStepCountsOneCycle : base.pending = [] := rfl

theorem inv_base : Inv base := inv_of_invB (by decide +kernel)

theorem witness_EveryStepKeepsInvariant : Inv base ∧ ∃ t, step base = .next t := ⟨inv_base, _, rfl⟩

theorem witness_PowerAndColdResetCommandsRun :
    let s : State := { base with boot := { base.boot with blade := false } }
    (Inv s ∧ (s.boot.blade && s.boot.pwrGood) = false) ∧ Inv base ∧ base.boot.pwrGood = true :=
  ⟨⟨inv_of_invB (by decide +kernel), by decide +kernel⟩, inv_base, by decide +kernel⟩

/-- A module in reset whose hold has passed. -/
def inReset : State := { boot := { holdDone := true } }

theorem witness_ColdStartCommandsRun_release : ReadyToStart inReset 0 ∧ inReset.boot.resetN = false ∧ inReset.boot.phase = .held
    ∧ inReset.boot.pwrGood = true ∧ inReset.boot.holdDone = true ∧ inReset.boot.refclk = true :=
  ⟨⟨inv_of_invB (by decide +kernel), by decide +kernel, by decide +kernel, by decide +kernel⟩, by decide +kernel⟩

/-- The same before its hold has passed, with RESET_N high. -/
def holding : State := { boot := { resetN := true } }

theorem witness_ColdStartCommandsRun_hold : ReadyToStart holding 0 ∧ holding.boot.phase = .held ∧ holding.boot.pwrGood = true
    ∧ holding.boot.holdDone = false ∧ holding.boot.resetN = true ∧ holding.boot.refclk = true :=
  ⟨⟨inv_of_invB (by decide +kernel), by decide +kernel, by decide +kernel, by decide +kernel⟩, by decide +kernel⟩

theorem witness_ColdStartCommandsRun_refclk :
    let s : State := { boot := { phase := .refWait, resetN := true, holdDone := true, refclk := false } }
    ReadyToStart s 0 ∧ s.boot.phase = .refWait :=
  ⟨⟨inv_of_invB (by decide +kernel), by decide +kernel, by decide +kernel, by decide +kernel⟩, by decide +kernel⟩

theorem witness_ColdStartCommandsRun_waits :
    let s : State := { boot := { holdDone := true, refclk := false } }
    s.boot.resetN = false ∧ s.boot.phase = .held ∧ s.boot.pwrGood = true ∧ s.boot.holdDone = true ∧ s.boot.refclk = false := by decide +kernel

theorem witness_ColdStartCommandsRun_refused :
    let s : State := { boot := { holdDone := true }, nv := { fw := [{}, {}] } }
    Inv s ∧ s.boot.loopOpen = false ∧ s.boot.resetN = false ∧ s.boot.phase = .held ∧ s.boot.pwrGood = true ∧ s.boot.holdDone = true
      ∧ s.boot.refclk = true ∧ ∀ k, k < 2 → slotAccepted s (nth s.nv.fw k {}) = false :=
  ⟨inv_of_invB (by decide +kernel), by decide +kernel⟩

/-- A module at early service whose regions are calibrated and whose stacks are trained. -/
def ready : State :=
  regs ((List.range 12).map fun d => (pgHBM + d, oHBM_STAT, 2 ^ 12))
    { base with
      fab := { base.fab with rgns := base.fab.rgns.map fun x => { x with tested := List.range 12 } }
      boot := { base.boot with service := 1, calibrated := List.range 48 } }

theorem witness_ServiceAndCalibrationRun :
    let s0 : State := { base with boot := { base.boot with service := 0 } }
    let s1 := regs [(pgSEC, oSEC_CTRL, 0)] ready
    (Inv s0 ∧ serving s0 = true ∧ s0.boot.service = 0)
      ∧ (Inv s1 ∧ serving s1 = true ∧ s1.boot.service = 1 ∧ fullReady s1 = true ∧ s1.nv.cal.ok = true ∧ fldGet s1 pgSEC oSEC_CTRL 0 0 = 0)
      ∧ (Inv ready ∧ serving ready = true ∧ ready.boot.service = 1 ∧ fullReady ready = true ∧ ready.nv.cal.ok = true
        ∧ fldGet ready pgSEC oSEC_CTRL 0 0 = 1)
      ∧ 47 < 48 ∧ Inv base :=
  ⟨⟨inv_of_invB (by decide +kernel), by decide +kernel⟩, ⟨inv_of_invB (by decide +kernel), by decide +kernel⟩,
    ⟨inv_of_invB (by decide +kernel), by decide +kernel⟩, by decide, inv_base⟩

/-! ### Memories, flash, pool. -/

/-- HBM stack 11 after two failed attempts. -/
def tried : State := modStack base 11 fun x => { x with attempts := 2 }

theorem witness_HbmStackCommandsRun_training : (Inv base ∧ 11 < 12 ∧ fenced base 11 = false ∧ inPool base 11 = false)
    ∧ (Inv tried ∧ fenced tried 11 = false ∧ inPool tried 11 = false ∧ 2 ≤ (nth tried.pool.hbms 11 {}).attempts)
    ∧ (nth base.pool.hbms 11 {}).attempts < 2 :=
  ⟨⟨inv_base, by decide +kernel⟩, ⟨inv_of_invB (by decide +kernel), by decide +kernel⟩, by decide +kernel⟩

theorem witness_HbmStackCommandsRun_temperature :
    (Inv base ∧ 99 < 256 ∧ fldGet base (pgHBM + 0) oHBM_CTRL 15 8 - early2 base < 99 ∧ 99 < fldGet base (pgHBM + 0) oHBM_CTRL 23 16 - early2 base)
      ∧ fldGet base (pgHBM + 0) oHBM_CTRL 23 16 - early2 base ≤ 255 ∧ (nth base.pool.hbms 0 {}).hot = false
      ∧ 0 ∈ partsInStack base 0 :=
  ⟨⟨inv_base, by decide +kernel⟩, by decide +kernel⟩

theorem witness_UncorrectableErrorsRun :
    (Inv base ∧ 0x1FFFFF < 12 * hbmSize ∧ serving base = true ∧ 0 ∈ partsOnPage base 0x1FFFFF)
      ∧ (windowRgn 0x10000000000 = some 0 ∧ clusterRgn (191 / 16) = 0 ∧ clusterRgn 11 = 0 ∧ (rgn base 0).powered = true
        ∧ (rgn base 0).owner = some 0)
      ∧ (11 < 576 ∧ (rgn base (clusterRgn 11)).powered = true) ∧ leadRgn base 0 = some 0 :=
  ⟨⟨inv_base, by decide +kernel⟩, by decide +kernel⟩

/-- Region 0's stores at their last test region. -/
def lastTest : State := modRgn base 0 fun x => { x with testPos := List.replicate 12 511 }

theorem witness_BackgroundTestRuns_begin :
    Inv lastTest ∧ 11 < 576 ∧ (rgn lastTest (clusterRgn 11)).powered = true ∧ (rgn lastTest (clusterRgn 11)).waking = false
      ∧ (rgn lastTest (clusterRgn 11)).halted = false ∧ (rgn lastTest (clusterRgn 11)).restoring = false
      ∧ (rgn lastTest (clusterRgn 11)).testing.contains (11 % 12) = false
      ∧ (rgn lastTest (clusterRgn 11)).exhausted.contains (11 % 12) = false ∧ bit (memCtl lastTest (clusterRgn 11)) 24 = true
      ∧ nth (rgn lastTest (clusterRgn 11)).testPos (11 % 12) 0 < 512 :=
  ⟨inv_of_invB (by decide +kernel), by decide +kernel⟩

/-- The same with the test of cluster 11's store under way. -/
def testing11 : State := modRgn lastTest 0 fun x => { x with testing := [11] }

theorem witness_BackgroundTestRuns_end :
    Inv testing11 ∧ 11 < 576 ∧ 127 < 128 ∧ (rgn testing11 (clusterRgn 11)).powered = true ∧ (rgn testing11 (clusterRgn 11)).waking = false
      ∧ (rgn testing11 (clusterRgn 11)).testing.contains (11 % 12) = true ∧ (rgn testing11 (clusterRgn 11)).testPos.length = 12
      ∧ nth (rgn testing11 (clusterRgn 11)).testPos (11 % 12) 0 = 511
      ∧ sparesOf (rgn testing11 (clusterRgn 11)) (64 * (11 % 12) + nth (rgn testing11 (clusterRgn 11)).testPos (11 % 12) 0 / 8) < 16 :=
  ⟨inv_of_invB (by decide +kernel), by decide +kernel⟩

/-- The same with no redundant word left in that bank. -/
def testingLast : State := modRgn testing11 0 fun x => { x with spares := [(64 * 11 + 63, 16)] }

theorem witness_BackgroundTestRuns_exhausted :
    Inv testingLast ∧ (rgn testingLast (clusterRgn 11)).powered = true ∧ (rgn testingLast (clusterRgn 11)).waking = false
      ∧ (rgn testingLast (clusterRgn 11)).testing.contains (11 % 12) = true
      ∧ 16 ≤ sparesOf (rgn testingLast (clusterRgn 11)) (64 * (11 % 12) + nth (rgn testingLast (clusterRgn 11)).testPos (11 % 12) 0 / 8) :=
  ⟨inv_of_invB (by decide +kernel), by decide +kernel⟩

theorem witness_RegionPowerRuns :
    let s := modRgn base 47 fun x => { x with owner := some 0, waking := true }
    let s' := modRgn base 47 fun x => { x with powered := true }
    (Inv s ∧ 47 < 48 ∧ (rgn s 47).waking = true) ∧ Inv s' ∧ (rgn s' 47).owner = none ∧ (rgn s' 47).powered = true :=
  ⟨⟨inv_of_invB (by decide +kernel), by decide +kernel⟩, inv_of_invB (by decide +kernel), by decide +kernel⟩

theorem witness_RegionPowerRuns_march :
    let s := modRgn base 47 fun x => { x with owner := some 0, waking := true }
    let s' := modRgn base 47 fun x => { x with owner := some 0, waking := true, spares := [(1000 + 9215, 8)] }
    (Inv s ∧ 47 < 48 ∧ (rgn s 47).waking = true ∧ 9215 < 9216 ∧ sparesOf (rgn s 47) (1000 + 9215) < 8)
      ∧ Inv s' ∧ (rgn s' 47).waking = true ∧ 8 ≤ sparesOf (rgn s' 47) (1000 + 9215) :=
  ⟨⟨inv_of_invB (by decide +kernel), by decide +kernel⟩, inv_of_invB (by decide +kernel), by decide +kernel⟩

/-- A request of partition 0 whose first macro-op has begun. -/
def begun : State := granted (mopBytes 0xF0) []

theorem witness_RegionPowerRuns_preemption :
    let s := modRgn begun 47 fun x => { x with owner := some 15, takenFor := some 0, powered := true }
    Inv s ∧ serving s = true ∧ partBusy s 0 = true ∧ 47 < 48 ∧ (rgn s 47).takenFor = some 0 ∧ (rgn s 47).haltDbg = false
      ∧ (rgn s 47).saved = [] ∧ (rgn s 47).owner = some 15 :=
  ⟨inv_of_invB (by decide +kernel), by decide +kernel⟩

theorem witness_RegionPowerRuns_restore :
    let v : Saved := { part := 0, slot := 2 }
    let s := modRgn begun 0 fun x => { x with halted := true, restoring := true, saved := [v] }
    Inv s ∧ serving s = true ∧ (rgn s 0).restoring = true ∧ v.slot < 3
      ∧ (rgn s 0).saved.reverse.find? (fun v => (rgn s 0).owner == some v.part) = some v ∧ partBusy s v.part = true :=
  ⟨inv_of_invB (by decide +kernel), by decide +kernel⟩

/-- The same, whose macro-op waits on memory. -/
def waiting : State := granted (mopBytes 0xF0) [] { idx := 0, stage := .granted, memWait := some 0 }

/-- Its request. -/
def theReq (s : State) : Request := (req? s 0).getD (req0 0 [])

theorem witness_FlashCommandsRun :
    (Inv begun ∧ 3 < 4 ∧ 0 < 99 ∧ 99 < 100 ∧ nth begun.nv.wearRaised 3 true = false ∧ nth begun.nv.flashReadOnly 3 true = false)
      ∧ (serving begun = true ∧ req? begun 0 = some (theReq begun) ∧ (theReq begun).st = .admitted ∧ (theReq begun).begun = true
        ∧ ∀ m ∈ (theReq begun).mops, m.memWait = none)
      ∧ Inv waiting ∧ req? waiting 0 = some (theReq waiting) ∧ (theReq waiting).st = .admitted ∧ (theReq waiting).begun = true
      ∧ (∃ m ∈ (theReq waiting).mops, m.memWait ≠ none) ∧ evicting waiting (theReq waiting).part = false :=
  ⟨⟨inv_of_invB (by decide +kernel), by decide +kernel⟩, by decide +kernel, inv_of_invB (by decide +kernel), by decide +kernel⟩

/-- A waiting macro-op whose partition has an eviction under way. -/
def evictingNow : State := { waiting with pool := { waiting.pool with ptes := [{ page0 with w := false, evicting := true }] } }

/-- A request of partition 0 that has ended with ST_OK, whose returns lie in a flash page. -/
def flashReturn : State :=
  { base with
    pool := { ptes := [{ page0 with flash := true, pa := flashBase 0 }] }
    sched := { reqs := [{ req0 0 [] with st := .ended, status := 0, rets := [⟨0, 8, 0⟩] }], nextReq := 1 } }

theorem witness_FlashCommandsRun_returns :
    (Inv evictingNow ∧ (theReq evictingNow).st = .admitted ∧ (theReq evictingNow).begun = true
        ∧ evicting evictingNow (theReq evictingNow).part = true)
      ∧ (Inv flashReturn ∧ serving flashReturn = true ∧ req? flashReturn 0 = some (theReq flashReturn) ∧ (theReq flashReturn).st = .ended
        ∧ (theReq flashReturn).status ≤ 9 ∧ (theReq flashReturn).retFail = false
        ∧ ∃ e ∈ (theReq flashReturn).rets, needsFlash flashReturn (theReq flashReturn).part e.addr e.len = true)
      ∧ 0 < 16 ∧ (sess base 0).isOpen = true :=
  ⟨⟨inv_of_invB (by decide +kernel), by decide +kernel⟩, ⟨inv_of_invB (by decide +kernel), by decide +kernel⟩, by decide +kernel⟩

/-- A CLEAN page of partition 0 with a flash copy, above a quota of nothing. -/
def cleanPage : State := { base with pool := { ptes := [{ page0 with clean := true, home := some (flashBase 0) }] } }

theorem witness_PoolCommandsRun :
    (Inv cleanPage ∧ cleanPage.pool.ptes.find? (fun e => e.owner == 0 && e.evicting) = none ∧ quotaH cleanPage 0 < hbmUse cleanPage 0
      ∧ evictable cleanPage 0 = { page0 with clean := true, home := some (flashBase 0) } :: [])
    ∧ (let e : Pte := { page0 with home := some (flashBase 0) }
       let s : State := regs [(pgPOL, oPOL_QUOTA, 2 ^ 32)] { base with pool := { ptes := [e] } }
       s.pool.ptes.find? (fun e => e.owner == 0 && e.evicting) = none ∧ quotaH s 0 < hbmUse s 0 ∧ evictable s 0 = e :: []
        ∧ e.clean = false ∧ (evictPage s 0 e).isSome = true)
    ∧ (let s := regs [(pgPOL, oPOL_QUOTA, 1)] waiting
       req? s 0 = some (theReq s) ∧ hbmUse s (theReq s).part + Config.pageSmall ≤ quotaH s (theReq s).part)
    ∧ (let s : State := { base with pool := { base.pool with dirty := [(0x400000, true)] } }
       Inv s ∧ s.pool.dirty.find? (·.1 == 0x400000) = some (0x400000, true)) :=
  ⟨⟨inv_of_invB (by decide +kernel), by decide +kernel⟩, by decide +kernel, by decide +kernel, inv_of_invB (by decide +kernel),
    by decide +kernel⟩

/-! ### Leave, heat, clocks, tamper. -/

/-- Macro-op 0 of class 4 waits for leave. -/
def wantsLeave : State := granted (mopBytes 0x11 (energy := 4)) [] { idx := 0, stage := .leave }

/-- Its request for leave, as it waits. -/
def leave0 : Leave := { req := 0, mop := 0, prio := 0, age := 0, cls := 4, modwide := false, want := [0], got := [], each := 0, waits := true }

/-- The same with the request for leave made, and room for it. -/
def asksLeave : State := { wantsLeave with power := { leaves := [leave0] } }

theorem witness_PaceAndLeaveCommandsRun_samples :
    (1600 ≤ fldGet base pgDEP oDEP_ENVELOPE 11 0 ∧ clamped base = false) ∧ Inv base ∧ fldGet base pgDEP oDEP_ENVELOPE 11 0 < 4096 :=
  ⟨by decide +kernel, inv_base, by decide +kernel⟩

/-- Macro-op 0 holds leave for region 0, in which a cluster holds a group of it. -/
def drawing : State :=
  { base with power := { leaves := [{ leave0 with want := [], got := [0], each := 100, waits := false }] }
              fab := { base.fab with held := [⟨11, { req := 0, mop := 0, number := 0, die := 0, tiles := 1, edges := 0, strip := [] }⟩] } }

theorem witness_PaceAndLeaveCommandsRun_shares :
    (∃ l, drawing.power.leaves = [l] ∧ l.modwide = false ∧ l.each ≠ 0 ∧ (∀ r ∈ l.got, runsNoTile drawing r = false) ∧ l.got.Nodup
      ∧ ∀ r ∈ l.got, r < 48) ∧ 47 < 48 ∧ runsNoTile drawing 47 = true :=
  ⟨⟨_, rfl, by decide +kernel⟩, by decide +kernel⟩

theorem witness_PaceAndLeaveCommandsRun_request :
    run? wantsLeave ⟨0, 0⟩ = some (run0 wantsLeave) ∧ serving wantsLeave = true ∧ (run0 wantsLeave).st.stage = .leave
      ∧ wantsLeave.power.leaves.any (fun l => l.req == 0 && l.mop == 0) = false := by decide +kernel

theorem witness_PaceAndLeaveCommandsRun_grant :
    Inv asksLeave ∧ waitingLeaves asksLeave = leave0 :: [] ∧ serving asksLeave = true
      ∧ asksLeave.power.leaves.find? (fun x => x.req == leave0.req && x.mop == leave0.mop) = some leave0
      ∧ grantable asksLeave leave0 = some [0] ∧ run? asksLeave ⟨0, 0⟩ = some (run0 asksLeave) ∧ (run0 asksLeave).st.stage = .leave
      ∧ (run0 asksLeave).m.opcode ≠ 0x38 :=
  ⟨inv_of_invB (by decide +kernel), by decide +kernel⟩

theorem witness_PaceAndLeaveCommandsRun_end :
    (let s : State := { base with power := { ended := [⟨0, 0, 15, true, none⟩] } }
     Inv s ∧ s.power.ended.find? (fun e => e.req == 0 && e.mop == 0) = some ⟨0, 0, 15, true, none⟩ ∧ 10 ≤ 10 ∧ 1 ≤ 15 ∧ 15 < 16)
      ∧ Inv asksLeave ∧ fldGet asksLeave pgDEP oDEP_CTRL 31 0 ≠ 0
      ∧ asksLeave.power.leaves.any (fun l => l.req == 0 && l.mop == 0 && l.waits && !l.warned) = true :=
  ⟨⟨inv_of_invB (by decide +kernel), by decide +kernel⟩, inv_of_invB (by decide +kernel), by decide +kernel⟩

theorem witness_HeatAndClockCommandsRun_trips :
    (Inv base ∧ 0 < 12 ∧ 255 < 256 ∧ dieTripped base 0 = false ∧ 105 ≤ 255 + early2 base
      ∧ (partRgns base 0).any (fun r => dieOf r == 0) = true ∧ 0 < 16)
      ∧ (12 ≤ 13 ∧ 13 < 14 ∧ dieTripped base 13 = false ∧ base.video.stopped.length = 2 ∧ partValid base 0 = true)
      ∧ (let s : State := { base with power := { hot := List.replicate 14 9 } }
         Inv s ∧ dieTripped s 13 = false ∧ 99 + early2 s < 105 ∧ fldGet s pgTHM oTHM_CTRL 7 0 - early2 s ≤ 99 ∧ nth s.power.hot 13 0 = 9
          ∧ s.power.hot.length = 14)
      ∧ (let s := regs [(pgTHM, oTHM_STAT, 2 ^ 13)] base
         Inv s ∧ dieTripped s 13 = true) :=
  ⟨⟨inv_base, by decide +kernel⟩, by decide +kernel, ⟨inv_of_invB (by decide +kernel), by decide +kernel⟩, inv_of_invB (by decide +kernel),
    by decide +kernel⟩

theorem witness_HeatAndClockCommandsRun_clocks :
    (Inv base ∧ 255 < 256) ∧ (let s : State := { base with power := { pendingClk := some 1 } }
       Inv s ∧ s.power.pendingClk = some 1)
      ∧ (base.boot.phase = .running ∧ fldGet base pgCLK oCLK_STAT 0 0 = 0)
      ∧ (let s := regs [(pgCLK, oCLK_STAT, 1)] base
         Inv s ∧ fldGet s pgCLK oCLK_STAT 0 0 = 1) :=
  ⟨⟨inv_base, by decide⟩, ⟨inv_of_invB (by decide +kernel), by decide +kernel⟩, by decide +kernel, inv_of_invB (by decide +kernel),
    by decide +kernel⟩

theorem witness_TamperRuns :
    let s : State := { base with nv := { life := { state := 1 } } }
    Inv s ∧ loopArmed s = true ∧ s.boot.phase = .running :=
  ⟨inv_of_invB (by decide +kernel), by decide +kernel⟩

end Sys2Proof.Tests
end

