-- ==== Sys2Proof/Tests/WitnessPorts.lean ====
section
/-! SUPPORT. Witnesses for the hypotheses of the statements about links, registers, tables, debug, the host port and sessions. -/

namespace Sys2Proof.Tests

set_option Elab.async false

open Sys2Proof.Machine

/-! ### Links: a plane of 2 x 2 x 2, this module at its origin, partition 0's slice the line along X. -/

/-- The plane, the coordinates and the slice, with ports 0 and 3 as given by LNK_STAT. -/
def sliced (stat0 stat3 : Nat) : State :=
  regs [(pgLNK, oLNK_STAT, stat0), (pgLNK + 3, oLNK_STAT, stat3), (pgRTR, oRTR_COORD, 2 ^ 31), (pgRTR, oRTR_PLANE, 0x111),
    (pgRTR, oRTR_SLICE, 2 ^ 63 + 0x10000)] base

/-- LNK_STAT of a port in a state with bulk lanes, spares used and three bell lanes. -/
abbrev lnk (st bulk spares : Nat) : Nat := 3 * 2 ^ 22 + spares * 2 ^ 19 + bulk * 2 ^ 11 + st

/-- Both ports are UP. -/
def bothUp : State := sliced (lnk 3 72 0) (lnk 3 72 0)

theorem inv_bothUp : Inv bothUp := inv_of_invB (by decide +kernel)

/-- A good report of port 0's peer. -/
def report0 : BringupFacts :=
  { light := true, badBulk := 4, badBell := 1, badSpare := 0, credits := [1, 1, 1], peerPlane := 0, peerX := 1, peerY := 0, peerZ := 0
    peerPort := 3 }

theorem witness_LinkPortCommandsRun_bringup :
    let s := sliced (lnk 1 0 0) (lnk 0 0 0)
    Inv s ∧ 0 < 6 ∧ serving s = true ∧ s.links.ports.length = 6 ∧ (portState s 0 = 0 ∨ portState s 0 = 1) ∧ report0.light = true
      ∧ planeLen s (portAxis 0) ≠ 1 ∧ 64 ≤ goodBulk report0 ∧ goodBell report0 ≠ 0 ∧ fldGet s pgRTR oRTR_COORD 31 31 = 1
      ∧ report0.peerPlane = fldGet s pgRTR oRTR_PLANE 31 24 ∧ report0.peerX = peerCoord s 0 0 ∧ report0.peerY = peerCoord s 0 1
      ∧ report0.peerZ = peerCoord s 0 2 ∧ report0.peerPort = (0 + 3) % 6 ∧ ({ report0 with peerPort := 0 } : BringupFacts).peerPort ≠ (0 + 3) % 6
      ∧ goodBulk { report0 with badBulk := 13 } < 64 ∧ goodBell { report0 with badBell := 2, badSpare := 4 } = 0 :=
  ⟨inv_of_invB (by decide +kernel), by decide +kernel⟩

theorem witness_LinkPortCommandsRun_spares :
    let f : BringupFacts := { report0 with badBulk := 2, badBell := 2 }
    f.badBulk ≤ 72 ∧ f.badBell ≤ 2 ∧ f.badBulk + f.badBell + f.badSpare ≤ 4 := by decide

theorem witness_LinkPortCommandsRun_lanes :
    (Inv bothUp ∧ portLive bothUp 0 = true ∧ aboveBer bothUp 0 (10 ^ 10) = false ∧ aboveBer bothUp 0 (10 ^ 10 + 1) = true
      ∧ spareLeft bothUp 0 = true ∧ portCarries bothUp 0 2 = true ∧ linkInBox bothUp (sliceBox bothUp 0) 0 = true)
      ∧ (let s := sliced (lnk 3 65 4) (lnk 3 72 0)
         Inv s ∧ portState s 0 = 3 ∧ spareLeft s 0 = false ∧ 64 < bulkLanes s 0)
      ∧ (let s := sliced (lnk 4 64 4) (lnk 3 72 0)
         Inv s ∧ portLive s 0 = true ∧ spareLeft s 0 = false ∧ bulkLanes s 0 = 64 ∧ 0 < 16 ∧ linkInBox s (sliceBox s 0) 0 = true) :=
  ⟨⟨inv_bothUp, by decide +kernel⟩, ⟨inv_of_invB (by decide +kernel), by decide +kernel⟩, inv_of_invB (by decide +kernel), by decide +kernel⟩

/-- A plane of four modules along X, all in partition 0's slice. -/
def fourUp : State := regs [(pgRTR, oRTR_PLANE, 0x113), (pgRTR, oRTR_SLICE, 2 ^ 63 + 0x30000)] bothUp

theorem inv_fourUp : Inv fourUp := inv_of_invB (by decide +kernel)

/-- A flit of partition 0 for the module beyond port 0. -/
def flit0 : Flit :=
  { tag := 0, channel := 0, dstX := 3, dstY := 0, dstZ := 0, bytes := 64, crcOk := true, seq := 0, credits := [0, 0, 0], ask := none, body := 0 }

theorem taken_of {s : State} {port : Nat} {f : Flit} (h : port < 6 ∧ serving s = true ∧ routes s port f.channel = true ∧ f.crcOk = true
    ∧ f.seq = nth (portOf s port).rx f.channel 0 ∧ (portOf s port).wait = []) : FlitTaken s port f :=
  ⟨h.1, h.2.1, h.2.2.1, h.2.2.2.1, h.2.2.2.2.1, h.2.2.2.2.2⟩

/-- Both ports are UP, and the peer beyond port 0 has room for a flit on every channel. -/
def creditUp : State := { fourUp with links := { ports := { credits := [1, 1, 1] } :: List.replicate 5 {} } }

theorem witness_FlitsAreRoutedInTheirBox_goesOn :
    (Inv creditUp ∧ FlitTaken creditUp 3 flit0 ∧ flit0.ask = none
      ∧ linkInBox creditUp (sliceBox creditUp flit0.tag) 3 = true ∧ inBox creditUp (sliceBox creditUp flit0.tag) flit0.dstX flit0.dstY flit0.dstZ = true
      ∧ [flit0.dstX, flit0.dstY, flit0.dstZ] ≠ [coord creditUp 0, coord creditUp 1, coord creditUp 2] ∧ flitPorts creditUp flit0 = [0]
      ∧ ∀ q ∈ flitPorts creditUp flit0, portIdle creditUp q flit0.channel flit0.bytes = true)
      ∧ FlitTaken creditUp 3 { flit0 with tag := 15 } ∧ linkInBox creditUp (sliceBox creditUp 15) 3 = false
      ∧ flit0.channel ≠ 1 ∧ 0 ∈ flitPorts creditUp flit0 :=
  ⟨⟨inv_of_invB (by decide +kernel), taken_of (by decide +kernel), by decide +kernel⟩, taken_of (by decide +kernel), by decide +kernel⟩

/-- Port 0 is FAILED. -/
def oneDown : State := regs [(pgLNK, oLNK_STAT, lnk 5 0 0)] fourUp

theorem witness_FlitsAreRoutedInTheirBox_waits :
    Inv oneDown ∧ FlitTaken oneDown 3 flit0 ∧ oneDown.links.ports.length = 6
      ∧ linkInBox oneDown (sliceBox oneDown flit0.tag) 3 = true
      ∧ inBox oneDown (sliceBox oneDown flit0.tag) flit0.dstX flit0.dstY flit0.dstZ = true
      ∧ [flit0.dstX, flit0.dstY, flit0.dstZ] ≠ [coord oneDown 0, coord oneDown 1, coord oneDown 2] ∧ flitPorts oneDown flit0 = [0]
      ∧ (portOf oneDown 0).wait = [] ∧ routes oneDown 0 flit0.channel = false :=
  ⟨inv_of_invB (by decide +kernel), taken_of (by decide +kernel), by decide +kernel⟩

/-- Three flits have left port 3 on the collective channel, of which the second has been asked for once. -/
def resending : State :=
  { bothUp with links := { ports := List.replicate 3 {} ++ [{ tx := [3, 0, 0], asked := [(1, 1), (0, 0), (0, 0), (0, 0)] }] ++ List.replicate 2 {} } }

/-- A flit for this module that asks for it again. -/
def asking : Flit := { flit0 with dstX := 0, ask := some (0, 1) }

theorem witness_FlitsAreRoutedInTheirBox_retry :
    (Inv bothUp ∧ routes bothUp 3 flit0.channel = true ∧ nth (portOf bothUp 3).fails flit0.channel 0 + 1 < retryLimit (portOf bothUp 3) flit0.channel)
      ∧ (let s : State := { bothUp with links := { ports := List.replicate 6 { fails := [7, 0, 0] } } }
         Inv s ∧ serving s = true ∧ routes s 3 flit0.channel = true
          ∧ retryLimit (portOf s 3) flit0.channel ≤ nth (portOf s 3).fails flit0.channel 0 + 1 ∧ linkInBox s (sliceBox s 0) 3 = true)
      ∧ (Inv resending ∧ FlitTaken resending 3 asking ∧ asking.ask = some (0, 1) ∧ 0 < 3
        ∧ [asking.dstX, asking.dstY, asking.dstZ] = [coord resending 0, coord resending 1, coord resending 2]
        ∧ 1 < nth (portOf resending 3).tx 0 0 ∧ nth (portOf resending 3).tx 0 0 - 1 ≤ retryFlits
        ∧ nth (portOf resending 3).asked 0 (0, 0) = (1, 1) ∧ 1 + 1 < retryLimit (portOf resending 3) 0) :=
  ⟨⟨inv_bothUp, by decide +kernel⟩, ⟨inv_of_invB (by decide +kernel), by decide +kernel⟩, inv_of_invB (by decide +kernel),
    taken_of (by decide +kernel), by decide +kernel⟩

/-- The slice with an admitted request whose one macro-op is a HAUL_SEND of haul 9. -/
def hauling : State :=
  { bothUp with mem := cells [(atList, mopBytes 0x38 (aux := atAux)), (atAux + 0x40, natLe 4 9)]
                sched := { reqs := [req0 1 []], nextReq := 1 } }

theorem witness_SliceMessagesRun :
    (Inv bothUp ∧ bellOk bothUp 0 0 = true ∧ linkInBox bothUp (sliceBox bothUp 0) 0 = true ∧ bothUp.links.faults.contains (0, 1) = false)
      ∧ (Inv hauling ∧ bellOk hauling 0 0 = true ∧ linkInBox hauling (sliceBox hauling 0) 0 = true
        ∧ ∃ h ∈ reqHauls hauling (theReq hauling), failCodes.contains 0x13 = true ∧ hauling.links.aborted.contains (0, 1, h) = false ∧ req? hauling 0 = some (theReq hauling)
          ∧ (theReq hauling).part = 0 ∧ (theReq hauling).st = .admitted ∧ (reqHauls hauling (theReq hauling)).contains h = true)
      ∧ ((otherRanks bothUp 0).contains 1 = true ∧ ∀ r ∈ bothUp.sched.reqs, ∀ st ∈ r.mops, st.verdict = none)
      ∧ (1 < axisLen bothUp 0 (portAxis 0) ∧ 1 ≠ axisOff bothUp 0 (portAxis 0) ∧ ∀ c ∈ bothUp.links.colls, c.part = 0 → c.coll ≠ 7) :=
  ⟨⟨inv_bothUp, by decide +kernel⟩, ⟨inv_of_invB (by decide +kernel), by decide +kernel⟩, by decide +kernel, by decide +kernel⟩

/-! ### Register writes of a secure session. -/

theorem secure_of {s : State} {i : Nat} (h : serving s = true ∧ i < 16 ∧ (sess s i).isOpen = true ∧ (sess s i).secure = true) :
    SecureSession s i := ⟨h.1, h.2.1, h.2.2.1, h.2.2.2⟩

theorem secure_base : SecureSession base 0 := secure_of (by decide +kernel)

/-- Partition 0 with a request. -/
def pinned : State := { base with sched := { reqs := [req0 1 []] } }

theorem witness_RegisterWriteCommandsRun_links :
    (Inv bothUp ∧ SecureSession bothUp 0 ∧ 5 < 6 ∧ (portState bothUp 5 ≠ 5 ∨ linkInUse bothUp 5 = false))
      ∧ (Inv base ∧ SecureSession base 0 ∧ ∀ p, p < 16 → (sliceBox base p).valid = false)
      ∧ (sliceRejected bothUp 15 0 = false) ∧ sliceRejected bothUp 15 (2 ^ 63 + 0x7000000) = true :=
  ⟨⟨inv_bothUp, secure_of (by decide +kernel), by decide +kernel⟩, ⟨inv_base, secure_base, by decide +kernel⟩, by decide +kernel,
    by decide +kernel⟩

theorem witness_RegisterWriteCommandsRun_partitions :
    (Inv base ∧ SecureSession base 0 ∧ 1600 ≤ bits (4000 : Word).toNat 11 0 ∧ bits (4000 : Word).toNat 11 0 ≤ 4000
      ∧ (bits (1599 : Word).toNat 11 0 < 1600 ∨ 4000 < bits (1599 : Word).toNat 11 0) ∧ 15 < 16)
      ∧ (partValid base 15 = false ∧ partPinned base 15 = false ∧ bit (0x8000800000000000 : Word).toNat 63 = true
        ∧ (sess base (bits (0x8000800000000000 : Word).toNat 59 56)).isOpen = true
        ∧ tallyClash base 15 (fldGet base pgSCH (oSCH_TALLY + 8 * 15) 13 0) (fldGet base pgSCH (oSCH_TALLY + 8 * 15) 30 16) = false)
      ∧ (Inv pinned ∧ SecureSession pinned 0 ∧ partPinned pinned 0 = true)
      ∧ (bits (0x40000000 : Word).toNat 13 0 % 64 = 0 ∧ bits (0x40000000 : Word).toNat 30 16 % 64 = 0
        ∧ bits (0x40000000 : Word).toNat 13 0 + bits (0x40000000 : Word).toNat 30 16 ≤ 16384
        ∧ tallyClash base 0 (bits (0x40000000 : Word).toNat 13 0) (bits (0x40000000 : Word).toNat 30 16) = false ∧ partPinned base 0 = false)
      ∧ (sumNat (((List.range 16).filter (· != 0)).map fun q => bits (regRaw base pgPOL (oPOL_QUOTA + 8 * q)) 31 0) + bits (0x1000002E8 : Word).toNat 31 0
            ≤ capHbm base
        ∧ sumNat (((List.range 16).filter (· != 0)).map fun q => bits (regRaw base pgPOL (oPOL_QUOTA + 8 * q)) 63 32)
            + bits (0x1000002E8 : Word).toNat 63 32 ≤ capFlash base
        ∧ flashUse base 0 ≤ bits (0x1000002E8 : Word).toNat 63 32 * 2 ^ 30) :=
  ⟨⟨inv_base, secure_base, by decide +kernel⟩, by decide +kernel, ⟨inv_of_invB (by decide +kernel), secure_of (by decide +kernel), by decide +kernel⟩,
    by decide +kernel, by decide +kernel⟩

theorem witness_RegisterWriteCommandsRun_tallies :
    let s := regs [(pgSCH, oSCH_TALLY, 0x01003E00)] base
    (Inv s ∧ serving s = true ∧ 0 < 16 ∧ (sess s 0).isOpen = true ∧ 31 < 32 ∧ ownsPart s 0 0 = true
      ∧ tallyAllotted s 0 (512 * 31 + bits (0 : Word).toNat 8 0) = true)
      ∧ ∀ p, p < 16 → ownsPart s 0 p = true → tallyAllotted s p (512 * 31 + bits (0x1FF : Word).toNat 8 0) = false :=
  ⟨⟨inv_of_invB (by decide +kernel), by decide +kernel⟩, by decide +kernel⟩

/-! ### User tables, pages and debug. -/

/-- An image of one binade whose order is not checked. -/
def image0 : Bytes := setBytes (zeros 576) 0 [1, 0, 1, 0]

/-- The same with its check sum. -/
def image1 : Bytes := setBytes image0 0x18 (natLe 4 2312374256)

/-- Partition 0's staging area holds the image. -/
def stagedImage : State := { base with mem := cells [(stageAddr 0, image1)] }

theorem crc_image0 : crc32 image0 = 2312374256 := by
  have e : image0 = image0.take 64 ++ zeros 64 ++ zeros 64 ++ zeros 64 ++ zeros 64 ++ zeros 64 ++ zeros 64 ++ zeros 64 ++ zeros 64 := by
    decide +kernel
  have c0 : (image0.take 64).foldl crcByte (0xFFFFFFFF : BitVec 32) = 3009171756 := by decide +kernel
  have c1 : (zeros 64).foldl crcByte (3009171756 : BitVec 32) = 1610014986 := by decide +kernel
  have c2 : (zeros 64).foldl crcByte (1610014986 : BitVec 32) = 4246062368 := by decide +kernel
  have c3 : (zeros 64).foldl crcByte (4246062368 : BitVec 32) = 3253488351 := by decide +kernel
  have c4 : (zeros 64).foldl crcByte (3253488351 : BitVec 32) = 3730183060 := by decide +kernel
  have c5 : (zeros 64).foldl crcByte (3730183060 : BitVec 32) = 1045324844 := by decide +kernel
  have c6 : (zeros 64).foldl crcByte (1045324844 : BitVec 32) = 128735775 := by decide +kernel
  have c7 : (zeros 64).foldl crcByte (128735775 : BitVec 32) = 2609552898 := by decide +kernel
  have c8 : (zeros 64).foldl crcByte (2609552898 : BitVec 32) = 1982593039 := by decide +kernel
  rw [crc32, e]
  simp only [List.foldl_append]
  rw [c0, c1, c2, c3, c4, c5, c6, c7, c8]
  decide

theorem read_stagedImage : memRead stagedImage (stageAddr 0) 576 = image1 := by
  have e : image1 = image1.take 64 ++ zeros 64 ++ zeros 64 ++ zeros 64 ++ zeros 64 ++ zeros 64 ++ zeros 64 ++ zeros 64 ++ zeros 64 := by
    decide +kernel
  have h0 : memRead stagedImage (stageAddr 0) 64 = image1.take 64 := by decide +kernel
  have h (k : Nat) (hk : k < 9) (h0 : 0 < k) : memRead stagedImage (stageAddr 0 + 64 * k) 64 = zeros 64 := by
    revert h0; revert k; decide +kernel
  rw [e, show 576 = 64 + 64 + 64 + 64 + 64 + 64 + 64 + 64 + 64 from rfl]
  simp only [memRead_add]
  have h1 : memRead stagedImage (stageAddr 0 + 64) 64 = zeros 64 := h 1 (by decide) (by decide)
  have h2 : memRead stagedImage (stageAddr 0 + (64 + 64)) 64 = zeros 64 := h 2 (by decide) (by decide)
  have h3 : memRead stagedImage (stageAddr 0 + (64 + 64 + 64)) 64 = zeros 64 := h 3 (by decide) (by decide)
  have h4 : memRead stagedImage (stageAddr 0 + (64 + 64 + 64 + 64)) 64 = zeros 64 := h 4 (by decide) (by decide)
  have h5 : memRead stagedImage (stageAddr 0 + (64 + 64 + 64 + 64 + 64)) 64 = zeros 64 := h 5 (by decide) (by decide)
  have h6 : memRead stagedImage (stageAddr 0 + (64 + 64 + 64 + 64 + 64 + 64)) 64 = zeros 64 := h 6 (by decide) (by decide)
  have h7 : memRead stagedImage (stageAddr 0 + (64 + 64 + 64 + 64 + 64 + 64 + 64)) 64 = zeros 64 := h 7 (by decide) (by decide)
  have h8 : memRead stagedImage (stageAddr 0 + (64 + 64 + 64 + 64 + 64 + 64 + 64 + 64)) 64 = zeros 64 := h 8 (by decide) (by decide)
  rw [h0, h1, h2, h3, h4, h5, h6, h7, h8]

theorem check_unordered {im : Bytes} (r : (fld im 0 1 == 1 && uSign im ≤ 2 && 1 ≤ uBinades im && uBinades im ≤ 31 && fld im 3 1 ≤ 2 && -126 ≤ uLo im
      && uLo im + (uBinades im : Int) - 1 ≤ 127 && fld im 6 2 == 0 && allZero ((im.drop 0x1C).take 36)
      && (uSign im == 2 || (fld im 0x10 4 == 0 && fld im 0x14 4 == 0))) = true)
    (c : (crc32 (setBytes (im.take (imageBytes im)) 0x18 (zeros 4))).toNat = fld im 0x18 4) (o : fld im 3 1 = 0) : (checkImage im).1 = 1 := by
  unfold checkImage
  dsimp only
  rw [if_neg (by rw [r]; decide), if_neg (by rw [c]; simp), if_pos (by rw [o]; rfl)]

theorem check_stagedImage : (checkImage (memRead stagedImage (stageAddr 0) 32768)).1 = 1 := by
  have n : 32768 = 576 + 32192 := by decide
  have e : memRead stagedImage (stageAddr 0) 32768 = image1 ++ memRead stagedImage (stageAddr 0 + 576) 32192 := by
    rw [n, memRead_add, read_stagedImage]
  have g : imageBytes (image1 ++ memRead stagedImage (stageAddr 0 + 576) 32192) = image1.length := by decide +kernel
  have f : setBytes image1 0x18 (zeros 4) = image0 := by decide +kernel
  rw [e]
  refine check_unordered (by decide +kernel) ?_ (by decide +kernel)
  rw [g, List.take_left, f, crc_image0]
  decide +kernel

/-- A reload of partition 0's table is under way, and every macro-op reads the new bank. -/
def reloading : State := modUser base 0 fun u => { u with arming := true, swapped := true }

theorem witness_UserTableCommandsRun :
    (Inv reloading ∧ SecureSession reloading 0 ∧ 0 < 48 ∧ bit (1 : Word).toNat 0 = true ∧ (rgn reloading 0).owner = some 0
      ∧ leadRgn reloading 0 = some 0 ∧ (userTab reloading 0).arming = true ∧ (userTab reloading 0).swapped = true ∧ unitOpsRunning reloading 0 = [])
      ∧ (Inv stagedImage ∧ SecureSession stagedImage 0 ∧ (rgn stagedImage 0).owner = some 0 ∧ (userTab stagedImage 0).arming = false
        ∧ 0 < 16)
      ∧ (checkImage (memRead stagedImage (stageAddr 0) 32768)).1 = 1
      ∧ (leadRgn base 0 = some 0 ∧ (userTab base 0).arming = false ∧ (checkImage (memRead base (stageAddr 0) 32768)).1 ≠ 1) :=
  ⟨⟨inv_of_invB (by decide +kernel), secure_of (by decide +kernel), by decide +kernel⟩,
    ⟨inv_of_invB (by decide +kernel), secure_of (by decide +kernel), by decide +kernel⟩, check_stagedImage, by decide +kernel⟩

/-- The debug block with its window enabled at the last bytes of region 0's first HAWK memory, and halts enabled. -/
def debugging : State := modRgn (regs [(pgDBG, oDBG_CTRL, 0xC), (pgDBG, oDBG_WIN_ADDR, 0x10000040000 - 8)] base) 0 fun x => { x with haltDbg := true }

/-- A trace that runs with a record waiting, its last place in the buffer free. -/
def traced : State :=
  { regs [(pgDBG, oDBG_CTRL, 1), (pgDBG, oDBG_STAT, 1), (pgDBG, oDBG_TRACE_SIZE, 0x200000), (pgDBG, oDBG_TRACE_WR, 0x1FFFE0)] base with
    pool := { ptes := [{ page0 with pin := true }] }, ctl := { trace := [zeros 32] } }

theorem witness_DebugPageCommandsRun_pages :
    (Inv base ∧ SecureSession base 0 ∧ pgDBG < 0x300 ∧ hasHeader pgDBG = true ∧ 63 < 64)
      ∧ (bit (regRaw base pgDBG oPAGE_CTRL) 0 = false ∧ fldGet base pgDBG oDBG_CTRL 2 0 = 0 ∧ bits (1 : Word).toNat 2 0 = 1
        ∧ traceBufferOk base = false)
      ∧ (let s : State := { regs [(pgDBG, oDBG_TRACE_SIZE, 0x200000)] base with pool := { ptes := [{ page0 with pin := true }] } }
         Inv s ∧ SecureSession s 0 ∧ bit (regRaw s pgDBG oPAGE_CTRL) 0 = false ∧ fldGet s pgDBG oDBG_CTRL 2 0 = 0 ∧ traceBufferOk s = true) :=
  ⟨⟨inv_base, secure_base, by decide +kernel⟩, by decide +kernel, inv_of_invB (by decide +kernel), secure_of (by decide +kernel), by decide +kernel⟩

theorem witness_DebugPageCommandsRun_debug :
    (Inv debugging ∧ SecureSession debugging 0 ∧ bit (regRaw debugging pgDBG oPAGE_CTRL) 0 = false ∧ fldGet debugging pgDBG oDBG_CTRL 2 2 = 1
      ∧ winOpen debugging (regRaw debugging pgDBG oDBG_WIN_ADDR) = true ∧ windowRgn (regRaw debugging pgDBG oDBG_WIN_ADDR) = some 0
      ∧ (rgn debugging 0).openSram = false)
      ∧ plainCycle ⟨[], .clean⟩ = true
      ∧ (let s : State := { debugging with ctl := { haltPending := [47] } }
         Inv s ∧ s.ctl.haltPending ≠ [])
      ∧ (Inv traced ∧ traced.ctl.trace = zeros 32 :: [] ∧ tracing traced = true ∧ traceBufferOk traced = true
        ∧ regRaw traced pgDBG oDBG_TRACE_WR < regRaw traced pgDBG oDBG_TRACE_SIZE) :=
  ⟨⟨inv_of_invB (by decide +kernel), secure_of (by decide +kernel), by decide +kernel⟩, by decide,
    ⟨inv_of_invB (by decide +kernel), by decide +kernel⟩, inv_of_invB (by decide +kernel), by decide +kernel⟩

/-- The window at the last bytes of cluster 0's store, whose WW_MODE is 1. -/
def atStore : State := regs [(pgDBG, oDBG_WIN_ADDR, storeBase 1 - 8), (rgnPage 0, oRGN_MEM_CTRL, 1)] debugging

theorem witness_DebugPageCommandsRun_conflicts :
    Inv atStore ∧ SecureSession atStore 0 ∧ bit (regRaw atStore pgDBG oPAGE_CTRL) 0 = false
      ∧ winOpen atStore (regRaw atStore pgDBG oDBG_WIN_ADDR) = true ∧ windowRgn (regRaw atStore pgDBG oDBG_WIN_ADDR) = some 0
      ∧ storeBase 0 ≤ regRaw atStore pgDBG oDBG_WIN_ADDR
      ∧ bit (memCtl atStore 0) ((regRaw atStore pgDBG oDBG_WIN_ADDR - storeBase 0) / 0x400000 % 12) = true
      ∧ 17 < 18 ∧ 19 < 20 ∧ 19 ≠ 18 ∧ (rgn atStore 0).openSram = false :=
  ⟨inv_of_invB (by decide +kernel), secure_of (by decide +kernel), by decide +kernel⟩

/-! ### The host port. -/

/-- The module with an IPv4 address. -/
def addressed : State := regs [(pgHPT, oHPT_IPV4, 0xC0A80001)] base

/-- An IVT datagram for it, of the greatest length. -/
def datagram : EthFacts :=
  { fcsOk := true, length := 9216, vlan := none, priority := 0, macsec := false, isMka := false, isPfc := false, isAnswered := false, isUdp := true
    ipv6 := false, dstIp := 0xC0A80001, dstPort := fldGet addressed pgIVT oIVT_CTRL 15 0, fragment := false, optionsOrExt := false, checksum := none }

theorem witness_HostFramesRun :
    (Inv addressed ∧ addressed.host.state = 2 ∧ addressed.boot.phase = .running ∧ datagram.fcsOk = true ∧ datagram.length ≤ 9216
      ∧ datagram.isPfc = false ∧ vlanOk addressed datagram.vlan = true ∧ datagram.isMka = false ∧ datagram.isAnswered = false
      ∧ ivtDatagram addressed datagram = true ∧ (macsecReq addressed = true → datagram.macsec = true)
      ∧ (datagram.macsec = true → addressed.host.macsecLive = true) ∧ bufBytes addressed + datagram.length ≤ 8 * 2 ^ 20)
      ∧ (({ datagram with length := 9217 } : EthFacts).fcsOk = false ∨ 9216 < ({ datagram with length := 9217 } : EthFacts).length)
      ∧ (let s := regs [(pgHPT, oHPT_CTRL, 0x8000)] base
         Inv s ∧ hostUp s = true ∧ 7 < 8 ∧ pfcEn s 7 = true) :=
  ⟨⟨inv_of_invB (by decide +kernel), by decide +kernel⟩, by decide +kernel, inv_of_invB (by decide +kernel), by decide +kernel⟩

theorem witness_HostPortCommandsRun :
    (hostUp addressed = true ∧ ownsIp addressed false 0xC0A80001 = true ∧ ownsIp addressed true (linkLocal addressed) = true)
      ∧ (let s : State := { base with sec := { cak := [1] }, host := { base.host with state := 3 } }
         Inv s ∧ s.sec.cak ≠ [] ∧ s.boot.phase = .running ∧ s.host.state = 3)
      ∧ (let s := regs [(pgHPT, oHPT_CTRL, 0x10000)] base
         Inv s ∧ s.boot.phase = .running ∧ s.host.state = 2 ∧ macsecReq s = true)
      ∧ (let s : State := { base with host := { base.host with state := 1 } }
         Inv s ∧ serving s = true ∧ 8 ≤ 8 ∧ s.host.state ≠ 2 ∧ macsecReq s = false)
      ∧ Inv base ∧ serving base = true ∧ base.host.state = 2 :=
  ⟨by decide +kernel, ⟨inv_of_invB (by decide +kernel), by decide +kernel⟩, ⟨inv_of_invB (by decide +kernel), by decide +kernel⟩,
    ⟨inv_of_invB (by decide +kernel), by decide +kernel⟩, inv_base, by decide +kernel⟩

/-! ### Sessions. -/

/-- A HELLO for session 15. -/
def hello15 : HelloFacts :=
  { wanted := 15, keySlot := 1, maxPayload := 8192, nonce := zeros 32, srcIp := 1, srcPort := 2, srcMac := 3, dstIp := 4 }

/-- An opening of session 15 under key slot 1. -/
def opening15 : Opening :=
  { keySlot := 1, maxPayload := 8192, hostNonce := zeros 32, modNonce := zeros 32, tag := 9, ip := 1, port := 2, mac := 3, dstIp := 4 }

/-- It waits for its PROOF; key slot 1 holds a key. -/
def opening : State :=
  modSess { base with sec := { loaded := true, slots := ⟨1, [1]⟩ :: List.replicate 14 {} } } 15 fun x => { x with opening := some opening15 }

/-- Each signature falls under one of the two clauses about PROOF: which one is for the verification to say. -/
theorem witness_SessionOpeningRuns (sig : Bytes) :
    (Inv base ∧ ivtUp base = true ∧ helloOk hello15 = true ∧ hello15.wanted < 16 ∧ (sess base hello15.wanted).opening = none)
      ∧ (Inv opening ∧ ivtUp opening = true ∧ 15 < 16 ∧ (sess opening 15).opening = some opening15 ∧ opening15.ip = 1 ∧ opening15.port = 2
        ∧ (keySlot opening opening15.keySlot).role ≠ 0 ∧ (sess opening 15).isOpen = false)
      ∧ (Config.verify (keySlot opening opening15.keySlot).key (proofDigest opening 15 opening15) sig = true
        ∨ Config.verify (keySlot opening opening15.keySlot).key (proofDigest opening 15 opening15) sig = false) :=
  ⟨⟨inv_base, by decide +kernel⟩, ⟨inv_of_invB (by decide +kernel), by decide +kernel⟩, Bool.eq_false_or_eq_true _⟩

/-- The header of session 0's next frame, of a given payload. -/
def hdr0 (len : Nat) : Hdr :=
  { version := 1, flagsReserved := false, session := 0, tag := 7, seq := 1, ack := 1, sack := none, length := len, window := 256, msg := 0
    offset := 0, last := true, srcIp := 1, srcPort := 2, srcMac := 3 }

theorem inOrder_of {s : State} {h : Hdr} {b : FrameBody} (i : invB s = true)
    (r : ivtUp s = true ∧ headerOk s h (if b = .close then 8192 else (sess s h.session).maxPayload) = true ∧ bodyOk h b = true
      ∧ h.seq = (sess s h.session).rx ∧ (sess s h.session).early = [] ∧ h.ack = (sess s h.session).hostAck ∧ h.sack = none
      ∧ 1024 ≤ (sess s h.session).maxPayload) : InOrder s h b :=
  ⟨inv_of_invB i, r.1, r.2.1, r.2.2.1, r.2.2.2.1, r.2.2.2.2.1, r.2.2.2.2.2.1, r.2.2.2.2.2.2.1, r.2.2.2.2.2.2.2⟩

theorem witness_RegisterFramesRun :
    InOrder base (hdr0 8) (.regRead [0]) ∧ InOrder base (hdr0 16) (.regWrite [(0x16180, 0)])
      ∧ (47 < 48 ∧ oRGN_GRAD_BAND ∈ [oRGN_CANARY_BAND, oRGN_GRAD_BAND]
        ∧ ((f32 (BitVec.ofNat 32 (bits (0 : Word).toNat 31 0))).finite && Machine.Num.lt Machine.Num.zero (f32 (BitVec.ofNat 32 (bits (0 : Word).toNat 31 0)))
          && Machine.Num.le (f32 (BitVec.ofNat 32 (bits (0 : Word).toNat 31 0))) Machine.Num.one) = false)
      ∧ oPOL_CTX_LEN ∈ [oPOL_CTX_INFO, oPOL_CTX_LEN] ∧ ctx? base (regRaw base pgPOL oPOL_CTX_SEL) = none :=
  ⟨inOrder_of (by decide +kernel) (by decide +kernel), inOrder_of (by decide +kernel) (by decide +kernel), by decide +kernel, by decide +kernel⟩

theorem witness_MemoryFramesRun :
    (InOrder base (hdr0 20) (.memWrite 0 false 0x1FFFFC [1, 2, 3, 4]) ∧ ownsPart base 0 0 = true ∧ rangeInSpace 0x1FFFFC 4 = true
      ∧ mayTouch base 0 0x1FFFFC = true ∧ (sess base 0).readFail = false ∧ (vwrite base none 0 (bytesAt 0x1FFFFC [1, 2, 3, 4])).isOk = true ∧ ownsPart base 0 15 = false)
      ∧ (InOrder base (hdr0 24) (.memRead 0 false 0x1FFFFC 4) ∧ 0 < 4 ∧ 4 + 16 ≤ (sess base 0).maxPayload ∧ readable base 0 0x1FFFFC 4 = 4)
      ∧ InOrder base (hdr0 24) (.memRead 15 false 0 4) :=
  ⟨⟨inOrder_of (by decide +kernel) (by decide +kernel), by decide +kernel⟩, ⟨inOrder_of (by decide +kernel) (by decide +kernel), by decide +kernel⟩,
    inOrder_of (by decide +kernel) (by decide +kernel)⟩

/-- A SUBMIT of one macro-op whose list lies in memory. -/
def submit0 (part : Nat) : Bytes := natLe 4 5 ++ natLe 1 part ++ natLe 1 0 ++ natLe 2 0 ++ natLe 4 1 ++ natLe 4 0 ++ natLe 8 atList ++ natLe 8 0

/-- A queued request of partition 0 whose one macro-op is a TALLY_SET. -/
def submitted : State :=
  { regs [(pgSCH, oSCH_TALLY, 0x00400000), (pgPOL, oPOL_QUOTA, 1)] base with
    mem := cells [(atList, mopBytes 0xF0)]
    sched := { reqs := [{ req0 1 [] with st := .queued }], nextReq := 1 } }

theorem witness_SubmitRuns :
    (InOrder base (hdr0 32) (.submit (submit0 0)) ∧ (hdr0 32).offset = 0 ∧ (hdr0 32).last = true ∧ (sess base 0).asm = none
      ∧ submitHeadOk (submit0 0) = true ∧ ownsPart base 0 (fld (submit0 0) 4 1) = true ∧ (reqsOf base (fld (submit0 0) 4 1) .queued).length < 32
      ∧ submitOk base 0 (submit0 0) = true)
      ∧ (nextRequest submitted 0 = some (req0 1 [] |> fun r => { r with st := .queued }) ∧ Inv submitted ∧ serving submitted = true
        ∧ partValid submitted 0 = true ∧ req? submitted 0 = some (theReq submitted)
        ∧ (stepOneFail submitted (theReq submitted)).or (stepTwoReject submitted (theReq submitted)) = none ∧ awaitsTraining submitted (theReq submitted) = false)
      ∧ (InOrder base (hdr0 32) (.submit (submit0 15)) ∧ submitHeadOk (submit0 15) = true ∧ ownsPart base 0 (fld (submit0 15) 4 1) = false
        ∧ (submit0 15).length = listStart (submit0 15) + (if fld (submit0 15) 5 1 = 1 then 128 * fld (submit0 15) 8 4 else 0)
        ∧ (List.range (fld (submit0 15) 6 2)).all (fun k => fld (submit0 15) (56 + 32 * k) 8 == 0) = true) :=
  ⟨⟨inOrder_of (by decide +kernel) (by decide +kernel), by decide +kernel⟩, ⟨by decide +kernel, inv_of_invB (by decide +kernel), by decide +kernel⟩,
    inOrder_of (by decide +kernel) (by decide +kernel), by decide +kernel⟩

theorem witness_AttestAndCloseRun : InOrder base (hdr0 64) (.attest (zeros 64)) ∧ InOrder base (hdr0 0) .close :=
  ⟨inOrder_of (by decide +kernel) (by decide +kernel), inOrder_of (by decide +kernel) (by decide +kernel)⟩

/-- A frame of session 0 on the wire that has been sent again `n` times. -/
def frame0 (n : Nat) : Sent := { seq := 1, type := 7, reply := false, last := true, msg := 0, offset := 0, payload := [], onWire := true, resends := n }

/-- Session 0 with that frame, and with something to acknowledge. -/
def unacked (n : Nat) : State := modSess base 0 fun x => { x with sent := [frame0 n], tx := 2, unacked := 1 }

theorem witness_AcknowledgementCommandsRun :
    (let h := { hdr0 0 with seq := 0, ack := 2 }
     Inv (unacked 11) ∧ ivtUp (unacked 11) = true ∧ headerOk (unacked 11) h (sess (unacked 11) 0).maxPayload = true ∧ h.length = 0 ∧ h.seq = 0
      ∧ h.sack = none ∧ seqDiff (sess (unacked 11) 0).hostAck h.ack ≤ seqDiff (sess (unacked 11) 0).hostAck (sess (unacked 11) 0).tx)
      ∧ ((sess (unacked 11) 0).isOpen = true ∧ 0 < (sess (unacked 11) 0).unacked ∧ canSend (unacked 11) = true ∧ serving (unacked 11) = true
        ∧ (sess (unacked 11) 0).sent.find? (fun g => g.seq == (frame0 11).seq && g.onWire && !g.acked) = some (frame0 11) ∧ (frame0 11).resends < 12)
      ∧ (Inv (unacked 12) ∧ serving (unacked 12) = true ∧ (sess (unacked 12) 0).isOpen = true
        ∧ (sess (unacked 12) 0).sent.find? (fun g => g.seq == (frame0 12).seq && g.onWire && !g.acked) = some (frame0 12) ∧ 12 ≤ (frame0 12).resends
        ∧ fldGet (unacked 12) pgIVT oIVT_CTRL 63 48 ≠ 0) :=
  ⟨⟨inv_of_invB (by decide +kernel), by decide +kernel⟩, by decide +kernel, inv_of_invB (by decide +kernel), by decide +kernel⟩

/-- An event for session 0. -/
def eventful : State := modSess base 0 fun x => { x with events := [{ code := 0x0101, page := pgIVT, count := 1, first := 0 }] }

/-- An ended request with one return of the greatest length that fits in one frame, or with none and a failure. -/
def endedReq (status : Nat) (rets : List Ret) : State :=
  { base with sched := { reqs := [{ req0 1 [] with st := .ended, status := status, rets := rets }] } }

theorem witness_EventsAndCompletionsAreSent :
    (Inv eventful ∧ ivtUp eventful = true ∧ (sess eventful 0).isOpen = true ∧ 1024 ≤ (sess eventful 0).maxPayload ∧ (sess eventful 0).events ≠ []
      ∧ (∀ e ∈ (sess eventful 0).events, e.sent = none) ∧ (sess eventful 0).events.length ≤ 64)
      ∧ (let s := endedReq 0x31 []
         Inv s ∧ req? s 0 = some (theReq s) ∧ mayComplete s (theReq s) = true ∧ (theReq s).sess < 16 ∧ (sess s (theReq s).sess).isOpen = true
          ∧ (sess s (theReq s).sess).keySlot = (theReq s).keySlot ∧ (9 < (theReq s).status ∨ (theReq s).rets = []))
      ∧ (let s := endedReq 0 [⟨0x1000, 8176, 0⟩]
         Inv s ∧ req? s 0 = some (theReq s) ∧ mayComplete s (theReq s) = true ∧ (sess s (theReq s).sess).isOpen = true
          ∧ (sess s (theReq s).sess).keySlot = (theReq s).keySlot ∧ (theReq s).retFail = false ∧ (theReq s).status ≤ 9 ∧ (theReq s).rets = [⟨0x1000, 8176, 0⟩]
          ∧ 8176 + 16 ≤ (sess s (theReq s).sess).maxPayload ∧ readable s (theReq s).part 0x1000 8176 = 8176) :=
  ⟨⟨inv_of_invB (by decide +kernel), by decide +kernel⟩, ⟨inv_of_invB (by decide +kernel), by decide +kernel⟩, inv_of_invB (by decide +kernel),
    by decide +kernel⟩

end Sys2Proof.Tests
end

