-- ==== Sys2Proof/Tests/WitnessTensors.lean ====
section
/-! SUPPORT. Witnesses for the hypotheses of the statements about macro-ops that write tensors and about attention, and that such a macro-op does its work. -/

namespace Sys2Proof.Tests

set_option Elab.async false

open Sys2Proof.Machine

/-- The state after a command. -/
def after (c : Instr) (s : State) : State :=
  match exec c s with
  | .next t => t
  | _ => s

/-- A macro-op of a unit that does its work. -/
def works (c : Instr) (s : State) : Bool := stageOf (after c s) 0 0 == some .worked

/-- Macro-op 0 reads A and B and writes OUT, of the sizes given, in INT32 or FP32. -/
def tensors (op sub ty : Nat) (out a b : List Nat) (l : List (Nat × Bytes) := []) (param : Bytes := []) (cT : Nat := 0) (aux : Nat := 0) : State :=
  granted (mopBytes op sub (out := atOut) (a := if a.isEmpty then 0 else atA) (b := if b.isEmpty then 0 else atB) (c := cT) (aux := aux) (param := param))
    ([(atOut, tdBytes outEls ty out), (atA, tdBytes aEls ty a), (atB, tdBytes bEls ty b), (atC, tdBytes cEls ty b)] ++ l)

theorem witness_ElementwiseMacroOpsRun :
    (let s := tensors 0x11 0 tyINT32 [2] [2] [2]
     Ready s ⟨0, 0⟩ 0x11 0 (run0 s) ∧ InputsMapped s (run0 s))
      ∧ (let s := tensors 0x10 0 tyINT32 [2] [2] []
         Ready s ⟨0, 0⟩ 0x10 0 (run0 s) ∧ InputsMapped s (run0 s))
      ∧ (let s := tensors 0x16 0 tyFP32 [2] [] []
         Ready s ⟨0, 0⟩ 0x16 0 (run0 s) ∧ InputsMapped s (run0 s)) := by decide +kernel

theorem witness_ReductionsAndChainRun :
    (let s := tensors 0x17 3 tyFP32 [1] [2] []
     Ready s ⟨0, 0⟩ 0x17 3 (run0 s) ∧ (run0 s).m.tdA ≠ 0 ∧ unmappedInput s 0 [(inA, (run0 s).tns s (run0 s).m.tdA)] = none)
      ∧ (let s := tensors 0x18 0 tyFP32 [1] [1] [] (aux := atAux)
         Ready s ⟨0, 0⟩ 0x18 0 (run0 s) ∧ InputsMapped s (run0 s)
          ∧ unmappedRange s 0 [(inAux, (run0 s).m.aux, 0x50 + 4 * vnat s 0 (run0 s).m.aux 1)] = none) := by decide +kernel

theorem witness_SpecialFunctionsRun :
    let s := tensors 0x20 2 tyFP32 [1] [1] []
    Ready s ⟨0, 0⟩ 0x20 2 (run0 s) ∧ (run0 s).m.tdA ≠ 0 ∧ unmappedInput s 0 [(inA, (run0 s).tns s (run0 s).m.tdA)] = none := by decide +kernel

theorem witness_RowOperationsRun :
    let s := tensors 0x21 0 tyFP32 [1] [1] []
    Ready s ⟨0, 0⟩ 0x21 0 (run0 s) ∧ (run0 s).m.tdA ≠ 0 ∧ InputsMapped s (run0 s) := by decide +kernel

/-- A product of one row, two terms and one column of INT8. -/
def product : State := tensors 0x00 0 tyINT8 [1, 1] [2, 1] [2, 1]

/-- The premises that `Writes` adds to each statement. -/
theorem witness_Writes :
    queueOf (run0 product).m.opcode = 0 ∧ oneLatch product (run0 product) = true
      ∧ (vwrite product (some 0) 0 ((run0 product).outBytes product fun _ => Machine.Num.one)).isOk = true := by decide +kernel

/-- Its row. -/
def productArgs : MatArgs :=
  let x := run0 product
  matArgs (x.fmt product) (rdr product 0) (x.tns product atA) (x.tns product atB) none (x.matForm product (x.tns product atB)) 2 1
    (fun r k => some [k, r]) (fun r k => some [k, r]) fun m n => [n, m]

theorem witness_MatrixProductsRun_products :
    Ready product ⟨0, 0⟩ 0x00 0 (run0 product)
      ∧ unmappedInput product 0 (productInputs ((run0 product).tns product atA) ((run0 product).tns product atB) none
          ((run0 product).matForm product ((run0 product).tns product atB))) = none
      ∧ unmappedRange product 0 (productLists product (run0 product) ((run0 product).tns product atB)) = none
      ∧ (let s := tensors 0x40 0 tyINT8 [1, 1, 1, 1] [1, 1, 1, 1] [1, 1] (aux := atAux)
         let x := run0 s
         Ready s ⟨0, 0⟩ 0x40 0 x
          ∧ unmappedInput s 0 (productInputs (x.tns s atA) (x.tns s atB) none (x.matForm s (x.tns s atB))) = none
          ∧ unmappedRange s 0 ((inAux, x.m.aux, 64) :: productLists s x (x.tns s atB)) = none) := by decide +kernel

theorem witness_MatrixProductsRun_integers :
    tyBlocked productArgs.ta = false ∧ tyInt productArgs.ta = true ∧ productArgs.chans = [] ∧ productArgs.wout = [] ∧ productArgs.c.isNone = true
      ∧ 0 < (productArgs.cols 0).length := by decide +kernel

theorem witness_WindowsAndDetectionRun :
    (let s := tensors 0x41 0 tyFP32 [1, 1, 1, 1] [1, 1, 1, 1] [] (aux := atAux)
     Ready s ⟨0, 0⟩ 0x41 0 (run0 s) ∧ (run0 s).m.tdA ≠ 0 ∧ unmappedInput s 0 [(inA, (run0 s).tns s (run0 s).m.tdA)] = none
      ∧ unmappedRange s 0 [(inAux, (run0 s).m.aux, 64)] = none)
      ∧ (let s := tensors 0x48 0 tyFP32 [4, 1, 1] [4, 1, 1] [] (aux := atAux)
         Ready s ⟨0, 0⟩ 0x48 0 (run0 s) ∧ InputsMapped s (run0 s) ∧ unmappedRange s 0 [(inAux, (run0 s).m.aux, 64)] = none)
      ∧ (let s := tensors 0x49 0 tyFP32 [1, 1, 1] [1, 1, 1] [4, 1, 1] (aux := atAux)
         Ready s ⟨0, 0⟩ 0x49 0 (run0 s) ∧ (run0 s).m.tdA ≠ 0 ∧ (run0 s).m.tdB ≠ 0 ∧ InputsMapped s (run0 s)
          ∧ unmappedRange s 0 [(inAux, (run0 s).m.aux, 64)] = none) := by decide +kernel

/-! ### Attention and contexts. -/

/-- Context 3 of partition 0: heads of 64, one of them, one layer, room for 256 positions, one of them filled. -/
def ctx3 : Ctx := { index := 3, owner := 0, headDim := 64, hkv := 1, layers := 1, maxlen := 256, base := 0, filled := 1 }

/-- A state with that context, its page and macro-op 0, which has taken one slot's lengths. -/
def withCtx3 (m : Bytes) (l : List (Nat × Bytes)) (slots : List SlotLen := [⟨false, 3, 0, 0, 1, 0, 1⟩]) : State :=
  let s := granted m l { idx := 0, stage := .granted, begun := true, slots := slots }
  { s with ctxs := [ctx3], pool := { ptes := [page0, { space := .ctx 3, va := 0, small := false, pa := 0x200000, owner := 0 }] } }

/-- The record of one query head on one key head of dimension 64. -/
def attn0 : Bytes := [1, 1, 0, 0] ++ zeros 124

/-- An attention macro-op of one query. -/
def attending (op : Nat) : State :=
  withCtx3 (mopBytes op (out := atOut) (a := atA) (b := atB) (c := atC) (aux := atAux))
    [(atOut, tdBytes outEls tyFP32 [1, 1, 1, 1]), (atA, tdBytes aEls tyFP32 [1, 1, 1, 1]), (atB, tdBytes bEls tyFP32 [1, 1, 1, 1]),
      (atC, tdBytes cEls tyFP32 [1, 1, 1, 1]), (atAux, attn0)]

theorem witness_AttentionRuns_attn :
    let s := attending 0x30
    let x := run0 s
    let a := attnRec s 0 x.m.aux
    Ready s ⟨0, 0⟩ 0x30 0 x ∧ x.liveSlots s ≠ [] ∧ unmappedInput s 0 [(inA, x.tns s x.m.tdA)] = none
      ∧ unmappedRange s 0 ((x.liveSlots s).map fun l =>
          srcRanges a (localSrc l.2.2 a l.2.1) (tileWork a (localSrc l.2.2 a l.2.1) (l.2.2.base + l.2.1.q0) l.2.1.qlen)).flatten = none := by
  decide +kernel

theorem witness_AttentionRuns_append :
    let s := attending 0x31
    let x := run0 s
    Ready s ⟨0, 0⟩ 0x31 0 x ∧ unmappedInput s 0 [(inA, x.tns s x.m.tdA), (inB, x.tns s x.m.tdB)] = none := by decide +kernel

theorem witness_AttentionRuns_grad :
    let s := attending 0x32
    let x := run0 s
    let a := attnRec s 0 x.m.aux
    Ready s ⟨0, 0⟩ 0x32 0 x ∧ unmappedInput s 0 (gradInputs s x a) = none
      ∧ unmappedRange s 0 ((x.liveSlots s).map fun l =>
          srcRanges a (localSrc l.2.2 a l.2.1) (tileWork a (localSrc l.2.2 a l.2.1) (l.2.2.base + l.2.1.q0) l.2.1.qlen)).flatten = none := by
  decide +kernel

theorem test_macro_ops_work :
    works (.fill ⟨0, 0⟩) (tensors 0x16 0 tyFP32 [2] [] []) ∧ works (.reduceSumSquares ⟨0, 0⟩) (tensors 0x17 3 tyFP32 [1] [2] [])
      ∧ works (.sfnRcp ⟨0, 0⟩) (tensors 0x20 2 tyFP32 [1] [1] []) ∧ works (.softmax ⟨0, 0⟩) (tensors 0x21 0 tyFP32 [1] [1] [])
      ∧ works (.matmul ⟨0, 0⟩) product := by decide +kernel

/-- INT32 3 + 4: the sum in memory (R196). -/
theorem test_add :
    let s := granted (mopBytes 0x11 (out := atOut) (a := atA) (b := atB))
      [(atOut, tdBytes outEls tyINT32 [1]), (atA, tdBytes aEls tyINT32 [1]), (atB, tdBytes bEls tyINT32 [1]), (aEls, natLe 4 3), (bEls, natLe 4 4)]
    works (.add ⟨0, 0⟩) s ∧ memGet (after (.add ⟨0, 0⟩) s) outEls = 7#8 := by decide +kernel

/-- A two-term product of INT8: 2·3 + (−1)·4 (R4, R152). -/
theorem test_matmul :
    let s := granted (mopBytes 0x00 (out := atOut) (a := atA) (b := atB))
      [(atOut, tdBytes outEls tyINT8 [1, 1]), (atA, tdBytes aEls tyINT8 [2, 1]), (atB, tdBytes bEls tyINT8 [2, 1]), (aEls, [2, 255]), (bEls, [3, 4])]
    works (.matmul ⟨0, 0⟩) s ∧ memGet (after (.matmul ⟨0, 0⟩) s) outEls = 2#8 := by decide +kernel

theorem exec_matmul (ref : MopRef) (s : State) : exec (.matmul ref) s = .next (after (.matmul ref) s) := rfl

theorem witness_UnitMacroOpsKeepTheRest :
    exec (.matmul ⟨0, 0⟩) product = .next (after (.matmul ⟨0, 0⟩) product)
      ∧ stageOf (after (.matmul ⟨0, 0⟩) product) 0 0 = some .worked := ⟨exec_matmul _ _, by decide +kernel⟩

end Sys2Proof.Tests
end

