-- ==== Sys2Proof/Tests/WitnessHauls.lean ====
section
/-! SUPPORT. Witnesses for the hypotheses of the statements about contexts, haulage and collectives. -/

namespace Sys2Proof.Tests

set_option Elab.async false

open Sys2Proof.Machine

/-! ### Contexts. -/

/-- PARAM of a CTX on context `i`: heads of 64, one of them, one layer. -/
def ctxParam0 (i value : Nat) (base : Nat := 0) : Bytes := natLe 2 i ++ [0, 1] ++ natLe 2 1 ++ natLe 2 0 ++ natLe 4 value ++ natLe 4 base

/-- A CTX of partition 0 beside its open context 3. -/
def ctxOps (sub i value : Nat) (base : Nat := 0) : State := withCtx3 (mopBytes 0x34 sub (param := ctxParam0 i value base)) [] []

theorem witness_ContextCommandsRun_open :
    let s := ctxOps 0 4 0x1000 (2 ^ 24 - 0x1000)
    let q := ctxParam (run0 s).m
    Inv s ∧ Ready s ⟨0, 0⟩ 0x34 0 (run0 s) ∧ ctxBusy s 0 q.ctx = false ∧ (run0 s).p = 0 ∧ ctx? s q.ctx = none ∧ q.base + q.value ≤ 2 ^ 24
      ∧ (q.open 0).extent ≤ 2 ^ 43 := ⟨inv_of_invB (by decide +kernel), by decide +kernel⟩

theorem witness_ContextCommandsRun_resize :
    let s := ctxOps 1 3 128
    let q := ctxParam (run0 s).m
    Ready s ⟨0, 0⟩ 0x34 1 (run0 s) ∧ ctxBusy s (run0 s).p q.ctx = false ∧ ctx? s q.ctx = some ctx3 ∧ ctx3.owner = (run0 s).p
      ∧ headDimOf q.headDim = ctx3.headDim ∧ q.hkv = ctx3.hkv ∧ q.layers = ctx3.layers ∧ q.base = ctx3.base ∧ ctx3.base + q.value ≤ 2 ^ 24
      ∧ ({ ctx3 with maxlen := q.value } : Ctx).extent ≤ 2 ^ 43 := by decide +kernel

theorem witness_ContextCommandsRun_close_fill :
    (let s := ctxOps 2 3 0
     Ready s ⟨0, 0⟩ 0x34 2 (run0 s) ∧ ctxBusy s (run0 s).p (ctxParam (run0 s).m).ctx = false ∧ ctx? s (ctxParam (run0 s).m).ctx = some ctx3
      ∧ ctx3.owner = (run0 s).p)
      ∧ (let s := ctxOps 3 3 256
         Ready s ⟨0, 0⟩ 0x34 3 (run0 s) ∧ ctxBusy s (run0 s).p (ctxParam (run0 s).m).ctx = false ∧ ctx? s (ctxParam (run0 s).m).ctx = some ctx3
          ∧ ctx3.owner = (run0 s).p ∧ (ctxParam (run0 s).m).value ≤ ctx3.maxlen) := by decide +kernel

theorem test_ctx_fill : ((after (.ctxFill ⟨0, 0⟩) (ctxOps 3 3 256)).ctxs.map (·.filled)) = [256] := by decide +kernel

/-! ### Haulage: two ranks of 32 positions each, this module the first. -/

/-- Where the haul record, its shard table and the tub area stand. -/
abbrev atHaul : Nat := 0x3080
abbrev atShards : Nat := 0x3100
abbrev atStats : Nat := 0x2100
abbrev atArea : Nat := 0x400000

/-- The record of one query head on one key head of dimension 64, with statistics and a haul; the haul record; the shards. -/
def haulMem : List (Nat × Bytes) :=
  [(atOut, tdBytes outEls tyFP32 [1, 1, 1, 1]), (atA, tdBytes aEls tyFP32 [1, 1, 1, 1]), (atB, tdBytes bEls tyFP32 [1, 1, 1, 1]),
    (atC, tdBytes cEls tyFP32 [1, 1, 1, 1]), (atStats, tdBytes 0x8000 tyFP32 [2, 1, 1, 1]),
    (atAux, [1, 1, 0, 1]), (atAux + 0x38, natLe 8 atStats), (atAux + 0x40, natLe 8 atB ++ natLe 8 atC ++ natLe 8 atHaul),
    (atHaul, natLe 4 9 ++ natLe 2 2 ++ natLe 2 0 ++ natLe 8 atShards ++ natLe 8 atArea ++ natLe 8 0x400000),
    (atShards, natLe 4 0 ++ natLe 4 32 ++ natLe 4 32 ++ natLe 4 32)]

/-- Haul 9 of macro-op 0. -/
def haul9 : Haul := { id := 9, req := 0, mop := 0, part := 0, exec := 0 }

/-- A HAUL_SEND and the macro-op that takes its tubs, of an opcode; macro-op `i` has leave. -/
def hauls (op i : Nat) (h : Haul) : State :=
  let st : MopSt := { idx := i, stage := .granted, begun := true, slots := [⟨false, 3, 0, 0, 1, 0, 1⟩] }
  let m (op : Nat) : Bytes := mopBytes op (out := atOut) (a := atA) (b := atB) (c := atC) (aux := atAux)
  { bothUp with
    mem := cells ([(atList, m 0x38 ++ m op)] ++ haulMem)
    sched := { reqs := [req0 2 (if i = 0 then [st] else [{ st with idx := 0, stage := .worked }, st])], nextReq := 1 }
    ctxs := [ctx3]
    pool := { ptes := [page0, { space := .ctx 3, va := 0, small := false, pa := 0x200000, owner := 0 },
      { page0 with va := atArea, pa := atArea, pin := true }, { page0 with va := atArea + 0x200000, pa := atArea + 0x200000, pin := true }] }
    links := { bothUp.links with hauls := [h] } }

/-- The macro-op at work. -/
def runAt (s : State) (i : Nat) : Run := (run? s ⟨0, i⟩).getD ⟨req0 0 [], 0, parseMop [], { idx := 0, stage := .done }⟩

/-- Its haul's geometry. -/
def geo (s : State) : HaulGeo := haulGeo s 0 atAux

theorem inv_hauls (op i : Nat) (h : Haul) (hm : cellWf (fun _ => (0 : Byte)) (hauls op i h).mem = true) : Inv (hauls op i h) :=
  { inv_bothUp with mem := hm, hbms := rfl }

theorem witness_HaulageMacroOpsRun_send :
    let s := hauls 0x39 0 haul9
    let g := geo s
    Inv s ∧ (Ready s ⟨0, 0⟩ 0x38 0 (runAt s 0) ∧ (runAt s 0).haul s = some (haul9, g, false) ∧ (runAt s 0).haulCtx s = some ctx3
      ∧ s.links.ports.length = 6 ∧ haul9.sent = false ∧ g.dests false g.me ≠ [] ∧ g.tub false g.me 0 ≠ []
      ∧ ∀ back : Bool, ∀ ch ∈ g.tub back g.me 0, ∀ i, i < g.segs g.me ch →
        rangeMapped s 0 (ctxVa 3 ((4 * ch + i) * ctx3.seg + g.a.layer * g.segBytes false)) (g.segBytes false) = true) :=
  ⟨inv_hauls _ _ _ (by decide +kernel), by decide +kernel⟩

/-- The haul when the one tub that visits has come. -/
def haul9Full (gradSent : Bool) : Haul := { haul9 with sent := true, got := [(0, 1, 0)] ++ if gradSent then [(2, 1, 0)] else [], gradSent := gradSent }

theorem witness_HaulageMacroOpsRun_attn :
    let s := hauls 0x39 1 (haul9Full false)
    let g := geo s
    let x := runAt s 1
    Ready s ⟨0, 1⟩ 0x39 0 x ∧ x.haul s = some (haul9Full false, g, false) ∧ g.missing (haul9Full false) = false
      ∧ (haulMerged s x (haul9Full false) g 1).all (· == g.visits.length) = true ∧ g.visits ≠ [] ∧ (haul9Full false).merged = []
      ∧ x.st.slots.head? = some ⟨false, 3, 0, 0, 1, 0, 1⟩ ∧ x.statsTns s (attnRec s 0 x.m.aux) = some (x.tns s atStats)
      ∧ unmappedInput s 0 [(inA, x.tns s x.m.tdA), (inC, x.tns s x.m.tdC), (inAux, x.tns s atStats)] = none := by decide +kernel

theorem witness_HaulageMacroOpsRun_grad :
    let s (sent : Bool) := hauls 0x3A 1 (haul9Full sent)
    let g := geo (s false)
    let x := runAt (s false) 1
    let a := attnRec (s false) 0 x.m.aux
    let lsrc := localSrc ctx3 a ⟨false, 3, 0, 0, 1, 0, 1⟩
    (∀ sent : Bool, Inv (s sent)) ∧ (Ready (s false) ⟨0, 1⟩ 0x3A 0 x ∧ x.haul (s false) = some (haul9Full false, g, true)
      ∧ ({ g with a := a } : HaulGeo).missing (haul9Full false) = false ∧ x.st.slots.head? = some ⟨false, 3, 0, 0, 1, 0, 1⟩
      ∧ x.haulCtx (s false) = some ctx3 ∧ unmappedInput (s false) 0 (gradInputs (s false) x a) = none
      ∧ unmappedRange (s false) 0 (srcRanges a lsrc (tileWork a lsrc (g.shard g.me).1 1)) = none ∧ (haul9Full false).gradSent = false
      ∧ (s false).links.ports.length = 6 ∧ (∀ c ∈ (s false).links.heldChunks, ¬(c.hdr.tag = 0 ∧ c.hdr.haulId = 9))
      ∧ (haul9Full true).gradSent = true ∧ Ready (s true) ⟨0, 1⟩ 0x3A 0 (runAt (s true) 1)
      ∧ ({ g with a := a } : HaulGeo).gradsDone (haul9Full true) = true) :=
  ⟨fun b => by cases b <;> exact inv_hauls _ _ _ (by decide +kernel), by decide +kernel⟩

/-- A chunk of rank 1's tub. -/
def chunk1 : TubHdr := ⟨0, 9, 1, 0, 0, 0, 0, 1⟩

theorem length_zeros (n : Nat) : (zeros n).length = n := List.length_replicate

theorem witness_HaulTrafficRuns_chunks :
    let s := hauls 0x39 0 haul9
    let g := geo s
    let m := mopOf s (req0 2 []) 0
    Inv s ∧ (serving s = true ∧ s.links.ports.length = 6 ∧ chunk1.tag < 16 ∧ (sliceBox s chunk1.tag).valid = true ∧ haul? s chunk1.tag 8 = none
      ∧ haul? s chunk1.tag chunk1.haulId = some haul9 ∧ chunk1.exec = haul9.exec ∧ haulInfo s haul9 = some (g, m, false)
      ∧ chunk1.layer = g.a.layer ∧ chunk1.srcRank < g.n ∧ chunk1.dir < 2 ∧ chunk1.segs = g.segs chunk1.srcRank chunk1.chunk ∧ 0 < chunk1.segs
      ∧ chunk1.segs * g.segBytes false = 4224 ∧ g.stepAt (chunk1.dir == 1) chunk1.srcRank g.me = some 0
      ∧ (g.tub (chunk1.dir == 1) chunk1.srcRank 0).contains chunk1.chunk = true
      ∧ haul9.got.contains (chunk1.dir, chunk1.srcRank, chunk1.chunk) = false ∧ g.n ≤ ({ chunk1 with srcRank := 2 } : TubHdr).srcRank)
      ∧ (zeros 4224).length = 4224 :=
  ⟨inv_hauls _ _ _ (by decide +kernel), by decide +kernel, length_zeros _⟩

theorem witness_HaulTrafficRuns_ends :
    (let s := hauls 0x39 0 { haul9 with sent := true }
     Inv s ∧ (serving s = true ∧ haul? s 0 9 = some { haul9 with sent := true } ∧ haulWaits s { haul9 with sent := true } = true
      ∧ ∀ k ∈ s.links.heldMarks, k.part ≠ 0))
      ∧ (let r : Request := { req0 2 [] with st := .ended, status := stReset }
         let s : State := { hauls 0x39 0 haul9 with sched := { reqs := [r], nextReq := 1 } }
         Inv s ∧ (serving s = true ∧ req? s 0 = some r ∧ r.st = .ended ∧ 9 < r.status ∧ r.status ≠ stFault
          ∧ r.told = false ∧ reqHauls s r ≠ [])) :=
  ⟨⟨inv_hauls _ _ _ (by decide +kernel), by decide +kernel⟩,
    ⟨{ inv_hauls 0x39 0 haul9 (by decide +kernel) with mem := by decide +kernel }, by decide +kernel⟩⟩

/-! ### Collectives. -/

/-- What a write leaves, of one that succeeds. -/
def WriteRes.get : WriteRes → State
  | .ok s => s
  | .bad | .full => base

theorem WriteRes.eq_get {r : WriteRes} (h : r.isOk = true) : r = .ok (WriteRes.get r) := by
  cases r <;> simp_all [Machine.WriteRes.isOk, WriteRes.get]

/-- A collective macro-op of partition 0, alone (`base`) or in its slice of two. -/
def collective (op : Nat) (s : State) (out a : List Nat) (param : Bytes) : State :=
  granted (mopBytes op (out := atOut) (a := atA) (param := param)) [(atOut, tdBytes outEls tyINT32 out), (atA, tdBytes aEls tyINT32 a)] (s := s)

/-- PARAM of a sum over every axis with two slots. -/
def ringParam : Bytes := [0, 0, 7, 2] ++ natLe 4 0 ++ natLe 8 5

theorem witness_RingCollectivesRun_alone :
    (∀ op ∈ [opREDUCE_SCATTER, opALL_GATHER],
      let s := collective op base [4] [4] ringParam
      let x := run0 s
      let s1 := WriteRes.get (copyOwn s x)
      (invB s = true ∧ Ready s ⟨0, 0⟩ op 0 x ∧ coll? s x.r.id x.i = none ∧ collSizesOk s x = true
        ∧ unmappedInput s x.p [(inA, x.tns s x.m.tdA)] = none ∧ ringAxes s x.p x.m = [] ∧ (copyOwn s x).isOk = true ∧ collAgrees s1 x = true
        ∧ ringAxes s1 x.p x.m = [])) := by decide +kernel

theorem witness_RingCollectivesRun_begins :
    (let s := collective opREDUCE_SCATTER bothUp [2] [4] ringParam
     let x := run0 s
     invB s = true ∧ Ready s ⟨0, 0⟩ opREDUCE_SCATTER 0 x ∧ coll? s x.r.id x.i = none ∧ collSizesOk s x = true
      ∧ unmappedInput s x.p [(inA, x.tns s x.m.tdA)] = none ∧ ringAxes s x.p x.m = [0] ∧ collAgrees s x = true ∧ s.links.ports.length = 6
      ∧ (∀ d ∈ s.links.claims, ¬(d.req = x.r.id ∧ d.mop = x.i)) ∧ (∀ e, e < 2 → x.m.nslot ≤ redFree s e ∧ redQueue s e = 0)
      ∧ (∀ q ∈ s.links.pieces, ¬(q.part = x.p ∧ q.coll = x.m.collId)) ∧ stepBytes s x 0 1 ≠ 0)
      ∧ (let s := collective opALL_GATHER bothUp [4] [2] ringParam
         let x := run0 s
         let s1 := WriteRes.get (copyOwn s x)
         invB s = true ∧ Ready s ⟨0, 0⟩ opALL_GATHER 0 x ∧ coll? s x.r.id x.i = none ∧ collSizesOk s x = true
          ∧ unmappedInput s x.p [(inA, x.tns s x.m.tdA)] = none ∧ ringAxes s x.p x.m = [0] ∧ (copyOwn s x).isOk = true ∧ collAgrees s1 x = true
          ∧ (∀ d ∈ s.links.claims, ¬(d.req = x.r.id ∧ d.mop = x.i)) ∧ (∀ e, e < 2 → x.m.nslot ≤ redFree s e ∧ redQueue s e = 0)
          ∧ (∀ q ∈ s.links.pieces, ¬(q.part = x.p ∧ q.coll = x.m.collId)) ∧ stepBytes s1 x 0 1 ≠ 0) := by decide +kernel

/-- A reducing collective there that waits for its pieces. -/
def reducing : State :=
  let s := collective opREDUCE_SCATTER fourUp [2] [8] ringParam
  { s with links := { s.links with
      colls := [{ req := 0, mop := 0, part := 0, coll := 5, started := true }]
      claims := [{ req := 0, mop := 0, edge := 0, slots := 2, granted := true }, { req := 0, mop := 0, edge := 1, slots := 2, granted := true }] } }

theorem witness_RingCollectivesRun_pieces :
    let s := reducing
    let c : Coll := { req := 0, mop := 0, part := 0, coll := 5, started := true }
    let x := run0 s
    (∀ c ∈ s.links.colls, ¬(c.part = 0 ∧ c.coll = 6)) ∧ s.links.ports.length = 6
      ∧ invB s = true ∧ serving s = true ∧ 0 < 16 ∧ (sliceBox s 0).valid = true ∧ s.links.colls.find? (fun c => c.part == 0 && c.coll == 5) = some c
      ∧ coll? s c.req c.mop = some c ∧ run? s ⟨c.req, c.mop⟩ = some x ∧ x.p = 0 ∧ x.st.stage = .granted ∧ x.st.memWait = none
      ∧ x.m.opcode = opREDUCE_SCATTER ∧ x.m.collId = 5 ∧ c.phase = 0 ∧ c.started = true ∧ (ringAxes s 0 x.m)[0]? = some 0
      ∧ phaseRuns s x 0 = true ∧ (∀ q ∈ s.links.pieces, ¬(q.part = 0 ∧ q.coll = 5 ∧ q.phase = 0))
      ∧ pieceFits s x c 0 ⟨0, 5, 0, 1, 0, natLe 4 3 ++ natLe 4 4⟩ = true ∧ 1 + 1 < axisLen s 0 0 ∧ stepBytes s x 0 (1 + 1) ≠ 0
      ∧ (∀ g ∈ c.got, g.1 ≠ 1 + 1) := by decide +kernel

theorem witness_BellCollectivesRun_alone :
    (∀ op ∈ [opBELL_REDUCE, opBELL_BCAST],
      let s := collective op base [4] [4] (natLe 8 0 ++ natLe 8 5)
      let x := run0 s
      invB s = true ∧ Ready s ⟨0, 0⟩ op 0 x ∧ coll? s x.r.id x.i = none ∧ collSizesOk s x = true
        ∧ unmappedInput s x.p [(inA, x.tns s x.m.tdA)] = none ∧ bellAxes s x.p = [] ∧ (op = opBELL_BCAST → x.m.p 4 4 = myRank s x.p)
        ∧ (writeVec s x (x.tns s x.m.tdOut) 0 ((List.range (x.tns s x.m.tdA).count).map fun i =>
          vecCode s x.p (x.tns s x.m.tdA) i % 2 ^ 32)).isOk = true)
      ∧ (let s := granted (mopBytes opBELL_BARRIER (param := natLe 8 0 ++ natLe 8 5)) []
         invB s = true ∧ Ready s ⟨0, 0⟩ opBELL_BARRIER 0 (run0 s) ∧ coll? s (run0 s).r.id (run0 s).i = none ∧ bellAxes s (run0 s).p = []) := by
  decide +kernel

theorem witness_BellCollectivesRun_begins :
    ∀ op ∈ [opBELL_REDUCE, opBELL_BARRIER, opBELL_BCAST],
      let s := collective op bothUp [4] [4] (natLe 8 0 ++ natLe 8 5)
      let x := run0 s
      invB s = true ∧ Ready s ⟨0, 0⟩ op 0 x ∧ coll? s x.r.id x.i = none ∧ collSizesOk s x = true
        ∧ unmappedInput s x.p [(inA, x.tns s x.m.tdA)] = none ∧ bellAxes s x.p = [0]
        ∧ (∀ b ∈ s.links.bells, ¬(b.part = x.p ∧ b.coll = x.m.collId))
        ∧ 0 < bellReach (axisLen s x.p 0) (planeLen s 0) (axisOff s x.p 0) true := by decide +kernel

/-- The collective of two modules with a queued claim. -/
def claiming : State :=
  let s := collective opREDUCE_SCATTER bothUp [2] [4] ringParam
  { s with links := { s.links with
      colls := [{ req := 0, mop := 0, part := 0, coll := 5, started := true }]
      claims := [{ req := 9, mop := 0, edge := 0, slots := 448, granted := true }, { req := 0, mop := 0, edge := 0, slots := 64, granted := false }] } }

theorem witness_CollectiveClaimsAndTimersRun :
    let s := claiming
    let c : Claim := { req := 0, mop := 0, edge := 0, slots := 64, granted := false }
    let k : Coll := { req := 0, mop := 0, part := 0, coll := 5, started := true }
    invB s = true ∧ serving s = true ∧ s.links.claims.find? (fun c => c.edge == 0 && !c.granted && !c.lapsed) = some c
      ∧ c.slots ≤ redFree s 0
      ∧ s.links.claims.find? (fun c => c.req == 0 && c.mop == 0 && c.edge == 0 && !c.granted && !c.lapsed) = some c
      ∧ run? s ⟨0, 0⟩ = some (run0 s) ∧ coll? s 0 0 = some k ∧ collWaits s (run0 s) k = true
      ∧ ∀ k ∈ s.links.heldMarks, k.part ≠ (run0 s).p := by decide +kernel

end Sys2Proof.Tests
end

