-- ==== Sys2Proof/Tests/WitnessMemory.lean ====
section
/-! SUPPORT. Witnesses for the hypotheses of the statements about memory macro-ops, tallies, checkpoints and shootdowns. -/

namespace Sys2Proof.Tests

set_option Elab.async false

open Sys2Proof.Machine

/-! ### Writing within a page that is ready. -/

theorem vaSpace_low (p : Nat) {va : Nat} (h : va < 2 ^ 48) : vaSpace p va = .gen p := by
  have hb : bit va 59 = false := by
    simp only [bit, Nat.testBit_lt_two_pow (Nat.lt_trans h (by decide : 2 ^ 48 < 2 ^ 59))]
  simp [vaSpace, hb]

theorem vaOff_low {va : Nat} (h : va < 2 ^ 48) : vaOff va = va := by
  have hb : bit va 59 = false := by
    simp only [bit, Nat.testBit_lt_two_pow (Nat.lt_trans h (by decide : 2 ^ 48 < 2 ^ 59))]
  simpa [vaOff, hb, bits] using h

theorem translate_page0 {s : State} (hp : s.pool.ptes = [page0]) {va : Nat} (h : va < 0x200000) : Machine.translate s 0 va = some page0 := by
  have h48 : va < 2 ^ 48 := Nat.lt_trans h (by decide)
  simp [Machine.translate, findPte, vaSpace_low 0 h48, vaOff_low h48, hp, page0, Pte.size, Config.pageLarge, h]

theorem readyPage_page0 {s : State} (hp : s.pool.ptes = [page0]) (rid : Option Nat) {va : Nat} (h : va < 0x200000) :
    readyPage s rid 0 va = .ok s := by
  have hm : modPte s page0.space page0.va (fun x => { x with clean := false, zero := false }) = s := by
    have hu : updFirst (fun e => e.space == page0.space && e.va == page0.va) (fun x : Pte => { x with clean := false, zero := false }) s.pool.ptes
        = s.pool.ptes := by rw [hp]; rfl
    simp only [modPte, hu]
  simp only [readyPage, translate_page0 hp h]
  exact congrArg WriteRes.ok hm

theorem readyRange_page0 {s : State} (hp : s.pool.ptes = [page0]) (rid : Option Nat) (l : List Nat) (h : ∀ a ∈ l, a < 0x200000) :
    readyRange rid 0 l s = .ok s := by
  induction l with
  | nil => rfl
  | cons a l ih =>
    simp only [readyRange, readyPage_page0 hp rid (h a (List.mem_cons_self ..))]
    exact ih fun b hb => h b (List.mem_cons_of_mem _ hb)

theorem pagesOf_sub (bs : List (Nat × Byte)) : ∀ a ∈ pagesOf bs, ∃ b ∈ bs, b.1 = a := by
  suffices h : ∀ (l : List (Nat × Byte)) (acc : List Nat), (∀ b ∈ l, b ∈ bs) → (∀ a ∈ acc, ∃ b ∈ bs, b.1 = a) →
      ∀ a ∈ l.foldl (fun acc (b : Nat × Byte) => if acc.any (fun x => x / Config.pageSmall == b.1 / Config.pageSmall) then acc else acc ++ [b.1]) acc,
        ∃ b ∈ bs, b.1 = a from h bs [] (fun _ hb => hb) (by simp)
  intro l
  induction l with
  | nil => exact fun acc _ h => h
  | cons c l ih =>
    intro acc hl hacc
    refine ih _ (fun b hb => hl b (List.mem_cons_of_mem _ hb)) ?_
    dsimp only
    split
    · exact hacc
    · intro a ha
      rcases List.mem_append.1 ha with ha | ha
      · exact hacc a ha
      · exact ⟨c, hl c (List.mem_cons_self ..), (List.mem_singleton.1 ha).symm⟩

theorem vwrite_page0 {s : State} (hp : s.pool.ptes = [page0]) (rid : Option Nat) (bs : List (Nat × Byte)) (h : ∀ b ∈ bs, b.1 < 0x200000) :
    vwrite s rid 0 bs = .ok (vstore 0 bs s) := by
  have hr : readyRange rid 0 (pagesOf bs) s = .ok s := readyRange_page0 hp rid _ fun a ha => by
    obtain ⟨b, hb, rfl⟩ := pagesOf_sub bs a ha
    exact h b hb
  simp only [vwrite, hr]

/-! ### Memory macro-ops. -/

theorem witness_MemoryMacroOpsRun_copy :
    let s := tensors 0x80 0 tyINT32 [2] [2] []
    let x := run0 s
    Ready s ⟨0, 0⟩ 0x80 0 x ∧ copyShape (x.tns s x.m.tdA).td (x.tns s x.m.tdOut).td (x.tns s x.m.tdA).sz (x.tns s x.m.tdOut).sz = none
      ∧ unmappedInput s x.p [(inA, x.tns s x.m.tdA)] = none ∧ works (.copy ⟨0, 0⟩) s := by decide +kernel

/-- A quota of 1 GiB of HBM and of flash. -/
def roomy (s : State) : State := setReg s pgPOL oPOL_QUOTA (2 ^ 32 + 1)

theorem witness_MemoryMacroOpsRun_pages :
    ∀ op ∈ [0x81, 0x82, 0x83],
      let s := roomy (tensors op 0 tyINT32 [] [2] [])
      let x := run0 s
      Ready s ⟨0, 0⟩ op 0 x ∧ entriesAt s x.p (extentPages (x.tns s x.m.tdA)) [] = some [page0] ∧ pinFits s x.p [page0] = true
        ∧ (promoteAll x.p [page0] s).isSome = true ∧ (pinAll x.p [page0] s).isSome = true := by decide +kernel

theorem witness_MemoryMacroOpsRun_images :
    (let s := tensors 0x84 0 tyINT32 [] [2] []
     let x := run0 s
     Ready s ⟨0, 0⟩ 0x84 0 x ∧ rangeMapped s x.p (x.tns s x.m.tdA).td.base (extentBytes (x.tns s x.m.tdA)) = true ∧ commitFails s = false)
      ∧ (let s := tensors 0x85 0 tyINT32 [] [] []
         invB s = true ∧ Ready s ⟨0, 0⟩ 0x85 0 (run0 s) ∧ commitFails s = false) := by decide +kernel

/-! ### Tallies, barriers and checkpoints. -/

theorem witness_ControlMacroOpsRun_tallies :
    (∀ op ∈ [0xF0, 0xF1], let s := granted (mopBytes op (param := natLe 4 0xFFF ++ natLe 4 5)) []
      invB s = true ∧ Ready s ⟨0, 0⟩ op 0 (run0 s))
      ∧ (∀ done : Bool, let s := granted (mopBytes 0xF1 ++ mopBytes 0xF2) []
         let st : MopSt := { idx := 1, stage := .granted, begun := true }
         let s : State := { s with sched := { reqs := [req0 2 (if done then [{ st with idx := 0, stage := .done }, st] else [st])], nextReq := 1 } }
         Ready s ⟨0, 1⟩ 0xF2 0 (runAt s 1) ∧ (runAt s 1).i = 1 ∧ stageOf s 0 0 = if done then some .done else none) := by decide +kernel

theorem test_tally_add :
    let s := granted (mopBytes 0xF1 (param := natLe 4 9 ++ natLe 4 5)) [] (s := { base with fab := { base.fab with tallies := [(9, 0xFFFFFFFE)] } })
    tally (after (.tallyAdd ⟨0, 0⟩) s) 9 = 3 ∧ works (.tallyAdd ⟨0, 0⟩) s := by decide +kernel

/-- A checkpoint of one tensor of one element, whose area stands at 0x10000. -/
def ckpt (op : Nat) (saved : Bool) : State :=
  granted (mopBytes op (aux := atAux)) ([(atA, tdBytes aEls tyINT32 [1]),
    (atAux, natLe 8 1 ++ natLe 8 0x10000 ++ natLe 8 0x2000 ++ natLe 8 7), (atAux + 0x40, natLe 8 atA)]
    ++ if saved then [(0x10000, natLe 8 ckptSeal ++ natLe 8 7 ++ natLe 8 1), (0x10040, natLe 8 4096 ++ natLe 8 4)] else [])

theorem witness_ControlMacroOpsRun_checkpoints :
    (let s := ckpt 0xF4 false
     let x := run0 s
     Ready s ⟨0, 0⟩ 0xF4 0 x ∧ unmappedInput s x.p (((ckptRec s x.p x.m.aux).tensors s x.p).map fun t => (inAux, t)) = none
      ∧ works (.ckptSave ⟨0, 0⟩) s)
      ∧ (let s := ckpt 0xF5 true
         let x := run0 s
         let r := ckptRec s x.p x.m.aux
         Ready s ⟨0, 0⟩ 0xF5 0 x ∧ rangeMapped s x.p r.dest r.bytes = true ∧ ckptMatches s x.p r (ckptParts 4096 (r.tensors s x.p)) = true
          ∧ works (.ckptRestore ⟨0, 0⟩) s) := by decide +kernel

/-! ### Shootdowns, from a partition whose one page lies in flash: every HBM frame is free. -/

/-- PARAM of a shootdown of one large page at 4 MiB. -/
def mapParam0 (flags : Nat) : Bytes := natLe 8 0x400000 ++ natLe 4 1 ++ natLe 4 flags

/-- A shootdown of partition 0, whose page 0 lies in flash; every HBM stack is trained. -/
def shooting (sub flags : Nat) (more : List Pte) (cs : List (Nat × Bytes)) : State :=
  let s := regs ((List.range 12).map fun d => (pgHBM + d, oHBM_STAT, 0x1000)) (roomy base)
  { s with
    mem := cells ([(flashBase 0 + atList, mopBytes 0xF8 sub (param := mapParam0 flags))] ++ cs)
    pool := { s.pool with ptes := { page0 with flash := true, pa := flashBase 0 } :: more }
    sched := { reqs := [req0 1 [{ idx := 0, stage := .granted, begun := true }]], nextReq := 1 } }

/-- What a shootdown needs of its space. -/
def shootReady (s : State) (sub : Nat) : Bool :=
  (ready? s ⟨0, 0⟩ 0xF8 (subIs sub) == some (run0 s)) && (run0 s).p == 0 && (mapSpaceFail s 0 (mapParam (run0 s).m)).isNone

theorem witness_ShootdownsRun_entries :
    let e : Pte := { page0 with va := 0x400000, pa := 0x400000 }
    let s (pin : Bool) := shooting 4 (if pin then 3 else 1) [e] []
    (let s := shooting 2 0 [e] []
     shootReady s 2 = true ∧ mappedAll s 0 (mapParam (run0 s).m) = some [e])
      ∧ shootReady (s false) 4 = true ∧ mappedAll (s false) 0 (mapParam (run0 (s false)).m) = some [e] ∧ (mapParam (run0 (s false)).m).pin = false
      ∧ shootReady (s true) 4 = true ∧ mappedAll (s true) 0 (mapParam (run0 (s true)).m) = some [e] ∧ (mapParam (run0 (s true)).m).pin = true
      ∧ pinFits (s true) 0 [e] = true ∧ (pinAll 0 [e] (s true)).isSome = true ∧ e.flash = false
      ∧ findPte (s true) e.space e.va = some e := by decide +kernel

/-- One page can be mapped where frame `i` is free. -/
theorem freeFrames_one {s : State} {place : Nat → Option Nat} {size total : Nat} (i pa : Nat) (h : i < total ∧ place i = some pa
    ∧ frameBusy s pa size = false) : FreeFrames s place size total 1 :=
  ⟨[i], by simp, rfl, fun j hj => by cases List.mem_singleton.1 hj; exact ⟨h.1, pa, h.2.1, h.2.2⟩⟩

theorem witness_ShootdownsRun_hbm :
    let s := shooting 0 1 [] []
    let q := mapParam (run0 s).m
    (shootReady s 0 = true ∧ unmappedAll s 0 q = true ∧ hbmUse s 0 + q.bytes ≤ quotaH s 0 ∧ q.count = 1)
      ∧ FreeFrames s (hbmPlace s q.page) q.page (12 * (62 * 2 ^ 30 / q.page)) 1 :=
  ⟨by decide +kernel, freeFrames_one 0 (hbmBase 0) (by decide +kernel)⟩

theorem witness_ShootdownsRun_flash :
    let s := shooting 1 1 [] []
    let q := mapParam (run0 s).m
    (shootReady s 1 = true ∧ unmappedAll s 0 q = true ∧ flashUse s 0 + q.bytes ≤ quotaF s 0 ∧ q.count = 1)
      ∧ FreeFrames s (flashPlace s q.page) q.page (4 * ((flashSize s - (16 + s.nv.area * 16) * 2 ^ 30) / q.page)) 1 :=
  ⟨by decide +kernel, freeFrames_one 0 (flashBase 0 + 272 * 2 ^ 30) (by decide +kernel)⟩

/-- SHA3-512 of no bytes, as published. -/
def sha3Empty : Bytes :=
  [0xa6, 0x9f, 0x73, 0xcc, 0xa2, 0x3a, 0x9a, 0xc5, 0xc8, 0xb5, 0x67, 0xdc, 0x18, 0x5a, 0x75, 0x6e, 0x97, 0xc9, 0x82, 0x16, 0x4f, 0xe2, 0x58, 0x59,
    0xe0, 0xd1, 0xdc, 0xc1, 0x47, 0x5c, 0x80, 0xa6, 0x15, 0xb2, 0x12, 0x3a, 0xf1, 0xf5, 0xf9, 0x4c, 0x11, 0xe3, 0xe9, 0x40, 0x2c, 0x3a, 0xc5, 0x58,
    0xf5, 0x00, 0x19, 0x9d, 0x95, 0xb6, 0xd3, 0xe3, 0x01, 0x75, 0x85, 0x86, 0x28, 0x1d, 0xcd, 0x26]

theorem test_sha3_empty : sha3 [] = sha3Empty := by decide +kernel

/-- A shootdown that maps image 0, whose slot 0 is sealed with an empty payload. -/
def imaging : State :=
  shooting 3 1 [] [(flashBase 0 + 16 * 2 ^ 30, natLe 8 0x5EA1ED0000000001 ++ natLe 8 1), (flashBase 0 + 16 * 2 ^ 30 + 0x20, sha3Empty)]

theorem witness_ShootdownsRun_images :
    let s := imaging
    let q := mapParam (run0 s).m
    shootReady s 3 = true ∧ imgInForce s q.image = some 0 ∧ unmappedAll s 0 q = true ∧ q.bytes ≤ imgSlotSize s ∧ q.pin = false := by decide +kernel

theorem scanFrames_first {s : State} {place : Nat → Option Nat} {size n fuel i : Nat} (pa : Nat) (hf : 0 < fuel) (h : place (i % n) = some pa)
    (hb : frameBusy s pa size = false) : scanFrames s place size n fuel i = some pa := by
  cases fuel with
  | zero => omega
  | succ k => simp [scanFrames, h, hb]

theorem findHbm_some {s : State} (hin : ∀ d, d < 12 → inPool s d = true) (hr : ∀ d, d < 12 → selfRefresh s d = false)
    (hb : ∀ pa, pa + 0x200000 ≤ flashBase 0 → frameBusy s pa 0x200000 = false) : (findHbm s 0x200000).isSome = true := by
  have hn : 12 * (62 * 2 ^ 30 / 0x200000) = 380928 := by decide
  simp only [findHbm, hn]
  generalize takeFree s 0 = i
  have hlt : i % 380928 < 380928 := Nat.mod_lt _ (by decide)
  have hd : i % 380928 / 31744 < 12 := by omega
  have hp : hbmPlace s 0x200000 (i % 380928)
      = some (hbmBase (i % 380928 / 31744) + i % 380928 % 31744 * 0x200000) := by
    have h2 : 62 * 2 ^ 30 / 0x200000 = 31744 := by decide
    simp [hbmPlace, hin _ hd, hr _ hd]
  rw [scanFrames_first _ (by decide) hp (hb _ (by simp only [hbmBase, flashBase]; omega))]
  rfl

theorem pinAll_one {s : State} {p : Nat} {e : Pte} (hf : findPte s e.space e.va = some e) (fl : e.flash = true)
    (hm : makeRoom s p e.size (evictable s p).length = some s) (hh : (findHbm s e.size).isSome = true) : (pinAll p [e] s).isSome = true := by
  obtain ⟨pa, hpa⟩ := Option.isSome_iff_exists.1 hh
  simp [pinAll, hf, promote, fl, takeHbm, hm, hpa]

/-- The same with the pages of the map in flash and kept pinned. -/
def imagingPin : State :=
  shooting 3 3 [] [(flashBase 0 + 16 * 2 ^ 30, natLe 8 0x5EA1ED0000000001 ++ natLe 8 1), (flashBase 0 + 16 * 2 ^ 30 + 0x20, sha3Empty)]

/-- The page that it maps. -/
def imagePage : Pte :=
  { space := .gen 0, va := 0x400000, small := false, pa := imgPa imagingPin 0 0 0, image := some 0, flash := true, w := false, owner := 0 }

/-- The state with that page mapped. -/
def imageMapped : State := countShoot { imagingPin with pool := { imagingPin.pool with ptes := imagingPin.pool.ptes ++ [imagePage] } }

theorem witness_ShootdownsRun_imagePin :
    (let s := imagingPin
     let q := mapParam (run0 s).m
     shootReady s 3 = true ∧ imgInForce s q.image = some 0 ∧ unmappedAll s 0 q = true ∧ q.bytes ≤ imgSlotSize s ∧ q.pin = true
      ∧ q.count = 1 ∧ q.offs = [0x400000] ∧ pinFits imageMapped 0 [imagePage] = true)
      ∧ (pinAll 0 [imagePage] imageMapped).isSome = true := by
  refine ⟨by decide +kernel, pinAll_one (by decide +kernel) rfl ?_ (findHbm_some (by decide +kernel) (by decide +kernel) fun pa h => ?_)⟩
  · have hq : hbmUse imageMapped 0 + imagePage.size ≤ quotaH imageMapped 0 := by decide +kernel
    cases (evictable imageMapped 0).length <;> simp [makeRoom, hq]
  · have hp : imageMapped.pool.ptes = [{ page0 with flash := true, pa := flashBase 0 }, imagePage] := by decide +kernel
    have hd : imageMapped.pool.dirty = [] := by decide +kernel
    have hi : imagePage.pa = flashBase 0 + 16 * 2 ^ 30 := by decide +kernel
    have hs : imagePage.size = 0x200000 ∧ imagePage.home = none := by decide
    simp only [frameBusy, hp, hd, List.any_cons, List.any_nil, hi, hs, page0, Pte.size, Config.pageLarge]
    simp
    omega

end Sys2Proof.Tests
end

