-- ==== Sys2Proof/Tests/WitnessInput.lean ====
section
/-! SUPPORT. Witnesses for the hypotheses of the statements about video, sample preparation and batches. -/

namespace Sys2Proof.Tests

set_option Elab.async false

open Sys2Proof.Machine

/-! ### Video. -/

/-- Stream context 0: H.265, set 0, pictures of 16 by 16, one reference slot. -/
def vctx0 : VCtx := { index := 0, owner := 0, codec := 1, set := 0, maxW := 16, maxH := 16, tenBit := false, slots := 1, area := 0x100000, bytes := 0x10000 }

/-- Its record, and the descriptor of one segment of sample 1: four bytes at 0x9000 or the ring there. -/
def vctxBytes : Bytes := natLe 2 0 ++ [1, 2] ++ natLe 2 16 ++ natLe 2 16 ++ natLe 1 8 ++ natLe 1 2 ++ natLe 6 0 ++ natLe 8 0x100000 ++ natLe 8 0x20000
def segBytes (src : Nat) : Bytes :=
  natLe 2 0 ++ natLe 2 src ++ natLe 4 1 ++ natLe 8 0x9000 ++ natLe 8 4 ++ natLe 8 0xA000 ++ natLe 4 0x1000 ++ natLe 2 1 ++ natLe 2 128
    ++ natLe 8 0x8000 ++ natLe 8 0xFFFF

/-- A ring of 64 KiB whose WR is 32, and the header there: of a segment of 32 bytes of a sample. -/
def ringMem (sample : Nat) : List (Nat × Bytes) :=
  [(0x9000, natLe 8 0x10000 ++ natLe 8 0x10000 ++ natLe 8 32), (0x10000, natLe 4 32 ++ natLe 4 sample)]

/-- The segment of a VDEC. -/
def seg0 (running waiting parsed : Bool) (parsedPics pics : Nat) : Seg :=
  { id := 0, req := 0, mop := 0, entry := 0, set := 0, vctx := 0, part := 0, prio := 0, running := running, waiting := waiting, parsed := parsed
    parsedPics := parsedPics, pics := pics, frames := 1 }

/-- The memory of a VDEC of one segment. -/
@[irreducible] def filmMem (src : Nat) (l : List (Nat × Bytes)) : List Host.Cell :=
  cells ((atList, mopBytes 0x51 (aux := atAux) (param := natLe 2 1)) :: (atAux, segBytes src) :: l)

/-- Its request. -/
def filmReq : Request := req0 1 [{ idx := 0, stage := .granted, begun := true, queued := true }]

/-- A VDEC of one segment, from bytes in memory or from a ring. -/
def filming (src : Nat) (l : List (Nat × Bytes)) (g : Seg) : State :=
  { base with mem := filmMem src l, sched := { reqs := [filmReq], nextReq := 1 }, video := { vctxs := [vctx0], segs := [g], nextSeg := 1, order := [0] } }

/-- The segment at work. -/
def filmRun (src : Nat) (l : List (Nat × Bytes)) (g : Seg) : SegRun :=
  ⟨g, segDesc (filming src l g) g.part ((mopOf (filming src l g) filmReq g.mop).aux + 64 * g.entry), vctx0⟩

theorem seg_filming (src : Nat) (l : List (Nat × Bytes)) (g : Seg) (h : g.id = 0 ∧ g.req = 0 ∧ g.set = 0 ∧ g.vctx = 0)
    (hr : g.running = true) (he : g.ended = false) : seg? (filming src l g) 0 = some (filmRun src l g) := by
  obtain ⟨h1, h2, h3, h4⟩ := h
  have hb : serving base = true := by decide +kernel
  have hs : serving (filming src l g) = true := hb
  have hf : (filming src l g).video.segs.find? (·.id == 0) = some g := by
    show List.find? (·.id == 0) [g] = some g
    simp [h1]
  have hst : nth (filming src l g).video.stopped g.set true = false := by rw [h3]; rfl
  have hq : req? (filming src l g) g.req = some filmReq := by rw [h2]; rfl
  have hc : (filming src l g).video.vctxs.find? (·.index == g.vctx) = some vctx0 := by rw [h4]; rfl
  simp only [seg?, hf, hr, he, hs, hst, segRunOf, hq, hc, Bool.not_false, Bool.and_true, if_true, Option.map_some]
  rfl

theorem ptes_filming (src : Nat) (l : List (Nat × Bytes)) (g : Seg) : (filming src l g).pool.ptes = [page0] := rfl

theorem vwrite_none (s : State) (rid : Option Nat) (p : Nat) : vwrite s rid p [] = .ok s := rfl

theorem writeFrames_full {x : SegRun} (h : x.d.maxFrames ≤ x.g.frames) (b : Bytes) (n : Nat) (s : State) :
    ∃ f : Seg → Seg, (∀ g, (f g).id = g.id ∧ (f g).set = g.set ∧ (f g).part = g.part) ∧ x.writeFrames b n s = .ok (modSeg s x.g.id f) := by
  have hm : Nat.min n x.d.maxFrames ≤ x.d.maxFrames := Nat.min_le_right _ _
  have he : (List.range (Nat.min n x.d.maxFrames)).filter (x.g.frames ≤ ·) = [] := by
    refine List.filter_eq_nil_iff.2 fun f hf => ?_
    have := List.mem_range.1 hf
    simp only [decide_eq_true_eq]
    omega
  simp only [SegRun.writeFrames, he, List.map_nil, List.flatten_nil, vwrite_none]
  refine ⟨_, ?_, rfl⟩
  exact fun _ => ⟨rfl, rfl, rfl⟩

theorem mem_bytesAt {a : Nat} {bs : Bytes} {b : Nat × Byte} (h : b ∈ bytesAt a bs) : b.1 < a + bs.length := by
  simp only [bytesAt] at h
  obtain ⟨i, hi, rfl⟩ := List.mem_iff_getElem.1 h
  simp only [List.length_zipWith, List.length_range, Nat.min_self] at hi
  simp only [List.getElem_zipWith, List.getElem_range]
  omega

theorem length_natLe (n v : Nat) : (natLe n v).length = n := by
  induction n generalizing v with
  | zero => rfl
  | succ n ih => simp [natLe, ih]

theorem length_record (x : SegRun) (s : State) (b : Bytes) : (x.record s b).length = 64 := by
  simp only [SegRun.record, List.length_append, length_natLe, length_zeros]

theorem witness_VideoDecodingRuns_contexts :
    (let s := granted (mopBytes 0x50 (aux := atAux)) [(atAux, vctxBytes)]
     let x := run0 s
     Ready s ⟨0, 0⟩ 0x50 0 x ∧ s.video.vctxs.find? (·.index == (vctxRec s x.p x.m.aux).index) = none ∧ (vctxRec s x.p x.m.aux).set = 2)
      ∧ (∀ sub ∈ [1, 2],
          let s : State := { granted (mopBytes 0x50 sub (param := natLe 2 0)) [] with video := { vctxs := [vctx0] } }
          let x := run0 s
          Ready s ⟨0, 0⟩ 0x50 sub x ∧ s.video.vctxs.find? (·.index == x.m.p 0 2) = some vctx0 ∧ vctx0.owner = x.p
            ∧ ∀ g ∈ s.video.segs, g.vctx = x.m.p 0 2 → g.ended = true) := by decide +kernel

theorem witness_VideoDecodingRuns_starts :
    (let s := granted (mopBytes 0x51 (aux := atAux) (param := natLe 2 1)) [(atAux, segBytes 0)]
     Ready s ⟨0, 0⟩ 0x51 0 (run0 s) ∧ (run0 s).st.queued = false ∧ (run0 s).m.p 0 2 = 1)
      ∧ (let g := seg0 false false false 0 0
         let s := filming 0 [] g
         serving s = true ∧ nth s.video.stopped 0 true = false ∧ freeEngines s 0 ≠ [] ∧ nextSegment s 0 = some g
          ∧ segRunOf s g = some (filmRun 0 [] g)) := by decide +kernel

theorem vread_filming (src : Nat) (l : List (Nat × Bytes)) (g g' : Seg) (p va n : Nat) :
    vread (filming src l g) p va n = vread (filming src l g') p va n :=
  vread_congr (s := filming src l g') (t := filming src l g) rfl rfl p va n

/-- Where nothing but the progress of the segment differs. -/
abbrev film0 : SegRun := filmRun 0 [] (seg0 true true false 0 0)

/-- How many pictures of the bytes at 0x9000 the decoder parses. -/
def pics0 : Nat := film0.pictures [0, 0, 0, 0]

theorem desc_filming (g : Seg) (hp : g.part = 0) (hm : g.mop = 0) (he : g.entry = 0) : (filmRun 0 [] g).d = film0.d := by
  have h : (filmRun 0 [] g).d = segDesc (filming 0 [] g) g.part ((mopOf (filming 0 [] g) filmReq g.mop).aux + 64 * g.entry) := rfl
  have h0 : film0.d = segDesc (filming 0 [] (seg0 true true false 0 0)) 0 ((mopOf (filming 0 [] (seg0 true true false 0 0)) filmReq 0).aux + 64 * 0) := rfl
  rw [h, h0, hp, hm, he]
  simp only [segDesc, mopOf, vread_filming 0 [] g (seg0 true true false 0 0)]

theorem bytes_filming (g : Seg) (hp : g.part = 0) (hm : g.mop = 0) (he : g.entry = 0) :
    ((filmRun 0 [] g).bytes (filming 0 [] g)).1 = [0, 0, 0, 0] ∧ (filmRun 0 [] g).d.src = 0 ∧ (filmRun 0 [] g).d.maxFrames = 1
      ∧ (filmRun 0 [] g).d.record = 0x8000 := by
  have hd := desc_filming g hp hm he
  have hc : vread (filming 0 [] (seg0 true true false 0 0)) 0 film0.d.addr film0.d.len = [0, 0, 0, 0] ∧ film0.d.src = 0 ∧ film0.d.maxFrames = 1
      ∧ film0.d.record = 0x8000 := by decide +kernel
  obtain ⟨c1, c2, c3, c4⟩ := hc
  have hg : (filmRun 0 [] g).g.part = 0 := hp
  refine ⟨?_, by rw [hd, c2], by rw [hd, c3], by rw [hd, c4]⟩
  simp only [SegRun.bytes, hd, c2, hg, BEq.rfl, if_true]
  rw [vread_filming 0 [] g (seg0 true true false 0 0), c1]

/-- Parsing goes on: past the last picture, whatever the bytes hold; before it, where they hold one. -/
theorem witness_VideoDecodingRuns_resume :
    (let g := seg0 true true false pics0 0
     let s := filming 0 [] g
     let x := filmRun 0 [] g
     seg? s 0 = some x ∧ x.g.waiting = true ∧ x.g.parsed = false ∧ x.d.src = 0 ∧ x.pictures (x.bytes s).1 ≤ x.g.parsedPics)
      ∧ (0 < pics0 →
        let g := seg0 true true false 0 0
        let s := filming 0 [] g
        let x := filmRun 0 [] g
        seg? s 0 = some x ∧ x.g.waiting = true ∧ x.g.parsed = false ∧ x.d.src = 0 ∧ x.g.parsedPics < x.pictures (x.bytes s).1
          ∧ sumNat x.g.syntaxKib + x.kib (x.bytes s).1 x.g.parsedPics ≤ 1024) := by
  refine ⟨⟨seg_filming _ _ _ ⟨rfl, rfl, rfl, rfl⟩ rfl rfl, rfl, rfl, (bytes_filming _ rfl rfl rfl).2.1, ?_⟩, fun h =>
    ⟨seg_filming _ _ _ ⟨rfl, rfl, rfl, rfl⟩ rfl rfl, rfl, rfl, (bytes_filming _ rfl rfl rfl).2.1, ?_, ?_⟩⟩
  · rw [(bytes_filming (seg0 true true false pics0 0) rfl rfl rfl).1]
    exact Nat.le_refl _
  · rw [(bytes_filming (seg0 true true false 0 0) rfl rfl rfl).1]
    exact h
  · have h0 : sumNat (filmRun 0 [] (seg0 true true false 0 0)).g.syntaxKib = 0 := rfl
    rw [h0, Nat.zero_add]
    exact Nat.min_le_left _ _

theorem witness_VideoDecodingRuns_rings :
    (let g := seg0 true true false 0 0
     let s := filming 1 (ringMem 2) g
     let x := filmRun 1 (ringMem 2) g
     seg? s 0 = some x ∧ x.g.waiting = true ∧ x.g.parsed = false ∧ x.d.src = 1 ∧ x.mismatch s = true)
      ∧ (let g := seg0 true true false 1 0
         let s := filming 1 (ringMem 1) g
         let x := filmRun 1 (ringMem 1) g
         seg? s 0 = some x ∧ x.g.waiting = true ∧ x.g.parsed = false ∧ x.d.src = 1 ∧ x.mismatch s = false ∧ (x.bytes s).2 = false
          ∧ x.g.pics < x.g.parsedPics) := by decide +kernel

theorem slotFill_low (s : State) : ∀ b ∈ slotFill s vctx0, b.1 < 0x200000 := by
  intro b hb
  have hn : dpbSlot vctx0.maxW vctx0.maxH vctx0.tenBit = 0x10000 := by decide
  have hs : (if vctx0.slots == 0 then 0 else takeFree s 0 % vctx0.slots) = 0 := Nat.mod_one _
  simp only [slotFill, hn, hs] at hb
  obtain ⟨i, hi, rfl⟩ := List.mem_map.1 hb
  have := List.mem_range.1 hi
  show 0x100000 + 0 * 0x10000 + i < 0x200000
  omega

/-- A picture of a segment whose frames have all been written, and its end. -/
theorem witness_VideoDecodingRuns_picture :
    let g := seg0 true false true 1 0
    let s := filming 0 [] g
    let x := filmRun 0 [] g
    Inv s ∧ nextPicture s 0 = some 0 ∧ seg? s 0 = some x ∧ x.g.set < 2
      ∧ ∃ s1 s2, vwrite s (some x.g.req) x.g.part (slotFill s x.c) = .ok s1
        ∧ x.writeFrames (x.bytes s).1 (x.outs (x.bytes s).1 (x.g.pics + 1) (x.g.parsed && x.g.pics + 1 == x.g.parsedPics)) (bumpFree s1) = .ok s2 := by
  obtain ⟨f, _, hw⟩ := writeFrames_full (x := filmRun 0 [] (seg0 true false true 1 0))
    (Nat.le_of_eq (bytes_filming (seg0 true false true 1 0) rfl rfl rfl).2.2.1)
    ((filmRun 0 [] (seg0 true false true 1 0)).bytes (filming 0 [] (seg0 true false true 1 0))).1 _ _
  exact ⟨inv_of_invB (by decide +kernel), by decide +kernel, seg_filming _ _ _ ⟨rfl, rfl, rfl, rfl⟩ rfl rfl, by decide, _, _,
    vwrite_page0 rfl _ _ (slotFill_low _), hw⟩

theorem lastBytes_low (g : Seg) (hp : g.part = 0) (hm : g.mop = 0) (he : g.entry = 0) (x : SegRun) (hx : x.d = (filmRun 0 [] g).d) (s : State)
    (b : Bytes) : ∀ c ∈ x.lastBytes s b, c.1 < 0x200000 := by
  obtain ⟨_, h1, _, h2⟩ := bytes_filming g hp hm he
  intro c hc
  have h0 : (x.d.src == 1) = false := by rw [hx, h1]; rfl
  simp only [SegRun.lastBytes, h0, Bool.false_eq_true, if_false, List.append_nil] at hc
  have := mem_bytesAt hc
  rw [length_record, hx, h2] at this
  omega

theorem find_modSeg (g : Seg) (h : g.id = 0) (f : Seg → Seg) (hf : ∀ g, (f g).id = g.id) :
    (modSeg (filming 0 [] g) g.id f).video.segs.find? (·.id == 0) = some (f g) := by
  show List.find? _ (updFirst (·.id == g.id) f [g]) = _
  simp [updFirst, hf, h]

theorem vwrite_last (g g' : Seg) (f : Seg → Seg) (hp : g.part = 0) (hm : g.mop = 0) (he : g.entry = 0) (hp' : g'.part = 0) (x : SegRun)
    (hx : x.d = (filmRun 0 [] g).d) (b : Bytes) :
    ∃ s2, vwrite (modSeg (filming 0 [] g) g.id f) (some g'.req) g'.part (x.lastBytes (modSeg (filming 0 [] g) g.id f) b) = .ok s2 := by
  rw [hp']
  exact ⟨_, vwrite_page0 rfl _ _ (lastBytes_low g hp hm he x hx _ b)⟩

/-- What a segment with all frames written leaves when it ends. -/
theorem ends_filming (g : Seg) (h : g.id = 0 ∧ g.req = 0 ∧ g.set = 0 ∧ g.vctx = 0) (hp : g.part = 0) (hm : g.mop = 0) (he : g.entry = 0)
    (hf : g.frames = 1) (b : Bytes) (n : Nat) :
    ∃ s1 s2 g', (filmRun 0 [] g).writeFrames b n (filming 0 [] g) = .ok s1 ∧ s1.video.segs.find? (·.id == 0) = some g' ∧ g'.set = 0 ∧ g'.part = 0
      ∧ vwrite s1 (some g'.req) g'.part (({ filmRun 0 [] g with g := g' } : SegRun).lastBytes s1 b) = .ok s2 := by
  have hl : (filmRun 0 [] g).d.maxFrames ≤ (filmRun 0 [] g).g.frames := by
    rw [(bytes_filming g hp hm he).2.2.1]
    exact Nat.le_of_eq hf.symm
  obtain ⟨f, hf', hw⟩ := writeFrames_full hl b n (filming 0 [] g)
  have hpart : (f g).part = 0 := (hf' g).2.2.trans hp
  obtain ⟨s2, h2⟩ := vwrite_last g (f g) f hp hm he hpart { filmRun 0 [] g with g := f g } rfl b
  exact ⟨_, s2, f g, hw, find_modSeg g h.1 f fun g => (hf' g).1, (hf' g).2.1.trans h.2.2.1, hpart, h2⟩

theorem witness_VideoDecodingRuns_end :
    let g := seg0 true false true 1 1
    let s := filming 0 [] g
    let x := filmRun 0 [] g
    Inv s ∧ seg? s 0 = some x ∧ x.g.id = 0 ∧ x.g.parsed = true ∧ x.g.parsedPics ≤ x.g.pics
      ∧ ∃ s1 s2 g', x.writeFrames (x.bytes s).1 (x.outs (x.bytes s).1 x.g.pics true) s = .ok s1 ∧ s1.video.segs.find? (·.id == 0) = some g'
        ∧ g'.set = 0 ∧ g'.part = 0 ∧ vwrite s1 (some g'.req) g'.part (({ x with g := g' } : SegRun).lastBytes s1 (x.bytes s).1) = .ok s2 :=
  ⟨inv_of_invB (by decide +kernel), seg_filming _ _ _ ⟨rfl, rfl, rfl, rfl⟩ rfl rfl, rfl, rfl, Nat.le_refl _,
    ends_filming (seg0 true false true 1 1) ⟨rfl, rfl, rfl, rfl⟩ rfl rfl rfl rfl _ _⟩

theorem witness_VideoDecodingRuns_limit :
    let g := seg0 true true false 1 0
    let s := filming 0 [] g
    let s0 := modSeg s 0 fun g => { g with parsed := true, waiting := false, result := 5, parsedPics := g.pics }
    Inv s ∧ seg? s 0 = some (filmRun 0 [] g)
      ∧ ∃ y s1 s2 g', seg? s0 0 = some y ∧ y.writeFrames (y.bytes s0).1 (y.outs (y.bytes s0).1 y.g.pics true) s0 = .ok s1
        ∧ s1.video.segs.find? (·.id == 0) = some g' ∧ g'.set = 0 ∧ g'.part = 0
        ∧ vwrite s1 (some g'.req) g'.part (({ y with g := g' } : SegRun).lastBytes s1 (y.bytes s0).1) = .ok s2 := by
  refine ⟨inv_of_invB (by decide +kernel), seg_filming _ _ _ ⟨rfl, rfl, rfl, rfl⟩ rfl rfl,
    filmRun 0 [] { seg0 true true false 1 0 with parsed := true, waiting := false, result := 5, parsedPics := 0 }, ?_⟩
  have h := ends_filming { seg0 true true false 1 0 with parsed := true, waiting := false, result := 5, parsedPics := 0 } ⟨rfl, rfl, rfl, rfl⟩
    rfl rfl rfl rfl
  obtain ⟨s1, s2, g', a, b, c, d, e⟩ := h _ _
  exact ⟨s1, s2, g', seg_filming _ _ _ ⟨rfl, rfl, rfl, rfl⟩ rfl rfl, a, b, c, d, e⟩

/-- An encode record of one frame of 2 by 2, for set 1. -/
def encBytes (set : Nat) : Bytes :=
  [1, 8, 0, 0] ++ natLe 2 2 ++ natLe 2 2 ++ natLe 2 1 ++ natLe 2 1 ++ natLe 1 51 ++ natLe 1 set ++ natLe 2 0 ++ natLe 4 0 ++ natLe 4 64 ++ natLe 8 0
    ++ natLe 8 0x9000 ++ natLe 4 0x1000 ++ natLe 4 128 ++ natLe 8 0x10000 ++ natLe 8 64 ++ natLe 8 0x20000 ++ natLe 8 0 ++ natLe 8 0x30000 ++ natLe 8 64

theorem witness_VideoEncodingRuns :
    (∀ set ∈ [1, 2], let s := granted (mopBytes 0x58 (aux := atAux)) [(atAux, encBytes set)]
      Ready s ⟨0, 0⟩ 0x58 0 (run0 s) ∧ (run0 s).st.queued = false ∧ (encRec s (run0 s).p (run0 s).m.aux).set = set)
      ∧ (let q : Enc := { req := 0, mop := 0, set := 1, part := 0, prio := 0 }
         let s : State := { granted (mopBytes 0x58 (aux := atAux)) [(atAux, encBytes 1)] { idx := 0, stage := .granted, begun := true, queued := true } with
                            video := { encs := [q] } }
         invB s = true ∧ 1 < 2 ∧ serving s = true ∧ nth s.video.stopped 1 true = false
          ∧ (sortBy (fun (a b : Enc) => a.prio ≥ b.prio) (s.video.encs.filter (·.set == 1))).head? = some q ∧ run? s ⟨q.req, q.mop⟩ = some (run0 s)
          ∧ (run0 s).st.stage = .granted) := by decide +kernel

/-! ### The input pipeline. -/

/-- A prep record of one frame of 2 by 2 from a crop of 2 by 2, without augmentations; and its one job: sample 1 in position 0 of batch 1, one
segment, whose decode record's address stands at 0x8000. -/
def prepBytes : Bytes :=
  natLe 2 0 ++ natLe 2 0 ++ natLe 2 2 ++ natLe 2 2 ++ natLe 2 2 ++ natLe 2 2 ++ natLe 2 0 ++ natLe 2 1 ++ [1, 1, 0, 0, 0]
def jobBytes : Bytes :=
  natLe 4 1 ++ natLe 4 0 ++ natLe 4 1 ++ natLe 4 1 ++ natLe 8 0xFFFF ++ natLe 8 0xFFFF ++ natLe 8 0x8000 ++ natLe 8 0x9000 ++ natLe 4 0x1000
    ++ natLe 2 128 ++ natLe 2 2

/-- The decode record at 0x8040: RESULT, one frame, 2 by 2, 8 bits. -/
def decBytes (result : Nat) : Bytes := natLe 2 result ++ natLe 2 1 ++ natLe 4 0 ++ natLe 2 2 ++ natLe 2 2 ++ natLe 1 8

/-- The job of a PREP. -/
def job0 (engine : Option Nat) : Job :=
  { req := 0, mop := 0, entry := 0, sample := 1, pos := 0, batch := 1, part := 0, prio := 0, wait := none, reached := some 0, engine := engine }

/-- A PREP of one job. -/
def preparing (result : Nat) (queued : Bool) (jobs : List Job) : State :=
  { granted (mopBytes 0x60 (out := atOut) (aux := atAux) (param := natLe 2 1))
      [(atOut, tdBytes outEls tyFP32 [32, 4, 1, 2]), (atAux, prepBytes), (atAux + 0xC0, jobBytes), (0x8000, natLe 8 0x8040), (0x8040, decBytes result)]
      { idx := 0, stage := .granted, begun := true, queued := queued } with
    inp := { jobs := jobs } }

/-- What the engine reads of it. -/
def prepWork (s : State) : Prep :=
  let d := jobDesc s 0 atAux 0
  let r := prepRec s 0 atAux
  ⟨r, d, [(1, 2, 2)], 8, r.window d.sample 2 2⟩

theorem witness_PreparationRuns_jobs :
    (let s := preparing 0 false []
     Ready s ⟨0, 0⟩ 0x60 0 (run0 s) ∧ (run0 s).st.queued = false ∧ (run0 s).m.p 0 2 = 1)
      ∧ (∀ result ∈ [0, 7],
          let s := preparing result true [job0 none]
          let d := jobDesc s 0 atAux 0
          let r := prepRec s 0 atAux
          let vas := (List.range d.nseg).map fun k => vnat s 0 (d.recs + 8 * k) 8
          let ds := vas.map (decRec s 0)
          7 < 8 ∧ serving s = true ∧ prepStopped s 7 = false ∧ (∀ k ∈ s.inp.jobs, k.engine = some 7 → k.ended = true) ∧ nextJob s = some (job0 none)
            ∧ run? s ⟨0, 0⟩ = some (run0 s) ∧ (run0 s).m.aux = atAux ∧ (run0 s).st.stage = .granted ∧ rangeMapped s 0 d.recs (8 * d.nseg) = true
            ∧ (∀ va ∈ vas, rangeMapped s 0 va 64 = true) ∧ (corruptBits r ds = 0 ↔ result = 0)
            ∧ (∀ i, i < r.count → rangeMapped s 0 (d.base + (r.first + i * r.tstep) * d.stride) (d.pitch * d.maxH * 3 / 2) = true)) := by
  decide +kernel

theorem witness_PreparationRuns_write :
    let s := preparing 0 true [job0 none]
    let w := prepWork s
    (vwrite s (some 0) 0 (w.bytes s 0 ((run0 s).tns s (run0 s).m.tdOut))).isOk = true := by decide +kernel

/-- A batch of one slot with a position. -/
def batch0 (step : Nat) (q : Pos) : Batch := { id := 1, req := 0, part := 0, va := atAux, step := step, hold := some 100, poss := [q] }

theorem witness_PreparationRuns_ends :
    (let s : State := { preparing 0 true [job0 (some 7)] with inp := { jobs := [job0 (some 7)], batches := [batch0 0 { pos := 0, sample := 1 }] } }
     invB s = true ∧ serving s = true ∧ prepStopped s 7 = false ∧ s.inp.jobs.find? (fun j => j.engine == some 7 && !j.ended) = some (job0 (some 7)) ∧ req? s 0 = some (theReq s)
      ∧ ∃ b ∈ s.inp.batches, b.req = 0 ∧ b.id = 1 ∧ b.poss.find? (·.pos == 0) = some { pos := 0, sample := 1 })
      ∧ (let s := granted (mopBytes 0x64 (aux := atAux)) []
         run? s ⟨0, 0⟩ = some (run0 s) ∧ (run0 s).st.stage = .granted ∧ (run0 s).m.opcode = 0x64) := by decide +kernel

/-! ### Batches: one slot, one pass. -/

/-- A batch record of one slot, `passes` 1 and MAX_STEPS 1, context 3 for its slot; its lists and outputs stand from 0x8000 on. -/
def batchBytes : Bytes :=
  natLe 4 1 ++ natLe 2 1 ++ natLe 2 1 ++ natLe 2 1 ++ natLe 2 0 ++ natLe 4 0 ++ natLe 8 0x8000 ++ natLe 8 0x8100 ++ natLe 8 0x8200 ++ natLe 8 0x8300
    ++ natLe 8 0x8400 ++ natLe 8 0x8500 ++ natLe 8 0x8600 ++ natLe 8 0x8700 ++ natLe 2 1 ++ natLe 2 0 ++ natLe 4 1 ++ natLe 8 3

/-- STEP k of a batch whose one position is given. -/
def stepping (k : Nat) (q : Pos) : State :=
  { withCtx3 (mopBytes 0x64 (aux := atAux) (param := natLe 2 k)) [(atAux, batchBytes)] [] with inp := { batches := [batch0 k q] } }

/-- What the statement asks of a STEP. -/
def stepMet (k : Nat) (q : Pos) : Bool :=
  let s := stepping k q
  let x := run0 s
  let b := batch0 k q
  let r := batchRec s 0 atAux
  let lv := (leavers r k b.poss).map fun q => (q.pos, q.slot.getD 0)
  let left := afterLeave r k b.poss
  let js := sortBy (fun (a b : Nat × Nat) => a.2 ≤ b.2) (joinsAt r k left)
  let joined := afterJoin r k js left
  let qs := if k = r.maxSteps then joined.map (Pos.finish 5) else joined
  (ready? s ⟨0, 0⟩ 0x64 (subIs 0) == some x) && x.m.aux == atAux && x.m.p 0 2 == k
    && (s.inp.batches.find? (fun b => b.req == x.r.id && b.va == x.m.aux) == some b)
    && (k != 0 || b.poss.all fun q => !(decide (q.pos < r.nslot)) || !q.pending) && (joinCtxFail s 0 r js).isNone
    && js.all (fun j => !ctxBusy s 0 (r.ctxBase + j.2)) && (js.length == if k = 0 then 1 else 0) && (lv.length == if k = 0 then 0 else 1)
    && (vwrite s (some x.r.id) 0 (refZeros s 0 r js ++ stepOutputs r k js lv qs ++ recordBytes r.records qs)).isOk

/-- STEP 0, at which the sample joins, and STEP MAX_STEPS, at which it leaves. -/
theorem witness_BatchStepsRun_steps :
    stepMet 0 { pos := 0, sample := 1, ready := true } = true ∧ stepMet 1 { pos := 0, sample := 1, ready := true, slot := some 0, join := some 0 } = true := by
  decide +kernel

/-- A PLACE of a SUBOP after STEP 0 of its batch, with one entry in either map. -/
def placing (sub : Nat) : State :=
  let s := granted (mopBytes 0x64 (aux := atAux) ++ mopBytes 0x66 sub (out := atOut) (a := atA) (aux := atAux))
    [(atOut, tdBytes outEls tyINT32 [2, 1]), (atA, tdBytes aEls tyINT32 [2, 1]), (atAux, batchBytes), (0x8400, natLe 4 1), (0x8500, natLe 4 0 ++ natLe 4 0),
      (0x8600, natLe 4 1), (0x8700, natLe 4 0 ++ natLe 4 0)]
  { s with sched := { reqs := [req0 2 [{ idx := 0, stage := .done }, { idx := 1, stage := .granted, begun := true }]], nextReq := 1 } }

theorem witness_BatchStepsRun_places :
    ∀ sub ∈ [0, 1, 2],
      let s := placing sub
      let x := runAt s 1
      let r := batchRec s 0 atAux
      let a := x.tns s x.m.tdA
      let o := x.tns s x.m.tdOut
      let count := if sub = 2 then r.leaveCount else r.joinCount
      let map := if sub = 2 then r.leaveMap else r.joinMap
      let most := if sub = 2 then r.nslot else r.jmax
      let move (e : Nat) : Nat × Nat :=
        let pos := vnat s 0 (map + 8 * e) 4
        let slot := vnat s 0 (map + 8 * e + 4) 4
        if sub = 0 then (pos, e) else if sub = 1 then (e, slot) else (slot, e)
      let moves := (List.range (Nat.min (vnat s 0 count 4) most)).map move
      Ready s ⟨0, 1⟩ 0x66 sub x ∧ x.m.aux = atAux ∧ stepDone s x = true ∧ unmappedInput s x.p [(inA, a)] = none
        ∧ unmappedRange s x.p [(inAux, count, 4), (inAux, map, 8 * most)] = none
        ∧ (∀ q ∈ moves, q.1 < a.dim (sampleDim a.td) ∧ q.2 < o.dim (sampleDim o.td)) ∧ moves.length = 1
        ∧ (vwrite s (some 0) 0 (moves.map fun q => moveSample (rdr s 0) a o q.1 q.2).flatten).isOk = true := by decide +kernel

end Sys2Proof.Tests
end

