-- ==== Sys2Proof/Tests/WitnessControl.lean ====
section
/-! SUPPORT. Witnesses for the hypotheses of the statements about resets, security and calibration. -/

namespace Sys2Proof.Tests

set_option Elab.async false

open Sys2Proof.Machine

/-! ### Resets, security and calibration. -/

/-- A firmware image that the boot ROM accepts. -/
def goodFw : FwSlot := { sealed := true, formOk := true, sigOk := true, bodyOk := true, generation := 1 }

/-- The module with that image in slot 0. -/
def flashed : State := { base with nv := { base.nv with fw := [goodFw, {}] } }

theorem witness_ResetCommandsRun :
    (Inv flashed ∧ flashed.boot.phase = .running ∧ flashed.boot.refclk = true ∧ flashed.nv.scrapFuse = false ∧ flashed.nv.life.state ≠ 4
      ∧ ∃ k, k < 2 ∧ slotAccepted flashed (nth flashed.nv.fw k {}) = true)
      ∧ (Inv base ∧ partValid base 0 = true ∧ base.ctl.rst = none)
      ∧ (∀ page ∈ [0x20, 0x28, 0x2D, 0x90, 0x93, 0x98], blockPage page = true)
      ∧ (∀ k ∈ [(2, 0), (3, 0x20)], ∃ s : State, Inv s ∧ s.ctl.rst = some k
        ∧ (k.1 = 2 → s.video.segs.any (fun g => g.part == k.2 && g.running && !g.ended) = false)) := by
  refine ⟨⟨inv_of_invB (by decide +kernel), rfl, rfl, rfl, by decide +kernel, 0, by decide +kernel⟩, ⟨inv_base, by decide +kernel, rfl⟩,
    by decide +kernel, ?_⟩
  intro k hk
  refine ⟨{ base with ctl := { rst := some k } }, inv_of_invB ?_, rfl, fun _ => rfl⟩
  have h : invB base = true := by decide +kernel
  exact h

/-- SEC commands that pass, by OP and ARG, and some that fail. -/
theorem witness_SecurityCommandsRun_starts :
    Inv base ∧ SecureSession base 0 ∧ base.ctl.sec = none
      ∧ (∀ c ∈ [(1, 0x2F), (2, 15), (3, 0), (5, 0), (6, 4)], (secPlan base 0 c.1 c.2).result = 0)
      ∧ (∀ c ∈ [(1, 0), (1, 255), (2, 16), (4, 0), (6, 5)], (secPlan base 0 c.1 c.2).result ≠ 0)
      ∧ (let s := regs [(pgSEC, oSEC_STAGE + 8 * 4, 33)] base
         Inv s ∧ SecureSession s 0 ∧ s.ctl.sec = none ∧ (secPlan s 0 3 0).result ≠ 0) :=
  ⟨inv_base, secure_base, rfl, by decide +kernel, by decide +kernel, inv_of_invB (by decide +kernel), secure_of (by decide +kernel), rfl,
    by decide +kernel⟩

/-- A SEC command of session 0 runs. -/
def securing (op arg : Nat) (nv : Option Nv) : State := { base with ctl := { sec := some (op, arg, 0), secNv := nv, secLose := some 1 } }

theorem inv_securing (op arg : Nat) (nv : Option Nv) : Inv (securing op arg nv) := by
  have h : invB base = true := by decide +kernel
  exact inv_of_invB h

theorem witness_SecurityCommandsRun_ends :
    (∀ op, 1 ≤ op → op ≤ 4 → Inv (securing op 1 (some flashed.nv)) ∧ (securing op 1 (some flashed.nv)).ctl.sec = some (op, 1, 0)
        ∧ (securing op 1 (some flashed.nv)).ctl.secNv = some flashed.nv)
      ∧ (Inv (securing 5 0 none) ∧ (securing 5 0 none).ctl.sec = some (5, 0, 0) ∧ (securing 5 0 none).ctl.secNv = none)
      ∧ (∀ arg ∈ [1, 2], Inv (securing 6 arg (some flashed.nv)) ∧ (securing 6 arg (some flashed.nv)).ctl.sec = some (6, arg, 0)
        ∧ (securing 6 arg (some flashed.nv)).ctl.secNv = some flashed.nv ∧ (securing 6 arg (some flashed.nv)).boot.phase = .running
        ∧ (securing 6 arg (some flashed.nv)).boot.refclk = true) :=
  ⟨fun _ _ _ => ⟨inv_securing .., rfl, rfl⟩, ⟨inv_securing .., rfl, rfl⟩, fun _ _ => ⟨inv_securing .., rfl, rfl, rfl, rfl⟩⟩

/-- The module without a partition. -/
def empty0 : State := setReg base pgSCH oSCH_PART 0

theorem witness_CalibrationCommandsRun_starts :
    (Inv base ∧ SecureSession base 0 ∧ base.ctl.cal = none ∧ srcOk base 0 (regRaw base pgCAL oCAL_SRC) 0x8000 true = true)
      ∧ (Inv empty0 ∧ SecureSession empty0 0 ∧ empty0.ctl.cal = none ∧ partsOrSlices empty0 = false) :=
  ⟨⟨inv_base, secure_base, rfl, by decide +kernel⟩, inv_of_invB (by decide +kernel), secure_of (by decide +kernel), rfl, by decide +kernel⟩

/-- A CAL command of session 0 runs. -/
def measuring (op : Nat) : State := { base with ctl := { cal := some (op, 0) } }

theorem inv_measuring (op : Nat) : Inv (measuring op) := by
  have h : invB base = true := by decide +kernel
  exact inv_of_invB h

theorem length_blocks {α : Type} (l : List α) (f : α → Bytes) (h : ∀ a ∈ l, (f a).length = 8) : ((l.map f).flatten).length = 8 * l.length := by
  induction l with
  | nil => rfl
  | cons a l ih =>
    simp only [List.map_cons, List.flatten_cons, List.length_append, List.length_cons, h a (List.mem_cons_self ..),
      ih fun b hb => h b (List.mem_cons_of_mem _ hb)]
    omega

theorem length_sha3 (b : Bytes) : (sha3 b).length = 64 := length_blocks (List.range 8) _ fun _ _ => length_natLe ..

theorem length_calRecord (s : State) : (calRecord s).length ≤ 0x8000 := by
  simp only [calRecord, calBytes, List.length_append, length_natLe, length_sha3, length_zeros, List.length_map, List.length_range,
    List.length_take]
  have : Nat.min 0x7F00 (s.nv.cal.sections.length + (0x7F00 - s.nv.cal.sections.length)) ≤ 0x7F00 := Nat.min_le_left _ _
  omega

/-- The record that EXPORT writes, whatever its hash and its MAC are, fits the page that it is written to. -/
theorem witness_CalibrationCommandsRun_ends :
    (Inv (measuring 1) ∧ (measuring 1).ctl.cal = some (1, 0)
      ∧ (let s := measuring 1
         let src := regRaw s pgCAL oCAL_SRC
         ∃ s1, vwrite { s with ctl := { s.ctl with cal := none } } none (srcPart src) (bytesAt (srcVa src) (calRecord s)) = .ok s1))
      ∧ ∀ op, Inv (measuring op) ∧ (measuring op).ctl.cal = some (op, 0) := by
  refine ⟨⟨inv_measuring 1, rfl, ?_⟩, fun op => ⟨inv_measuring op, rfl⟩⟩
  have hp : srcPart (regRaw (measuring 1) pgCAL oCAL_SRC) = 0 := by decide +kernel
  have hv : srcVa (regRaw (measuring 1) pgCAL oCAL_SRC) = 0 := by decide +kernel
  dsimp only
  rw [hp, hv]
  refine ⟨_, vwrite_page0 rfl none _ fun b hb => ?_⟩
  have h := mem_bytesAt hb
  have hl := length_calRecord (measuring 1)
  omega


end Sys2Proof.Tests
end

