-- ==== Sys2Proof/Tests/WitnessLife.lean ====
section
/-! SUPPORT. Witnesses for the hypotheses of the statements about the scheduler, the life of a macro-op, and what commands leave as it was. -/

namespace Sys2Proof.Tests

set_option Elab.async false

open Sys2Proof.Machine

/-! ### The scheduler. -/

/-- A request of partition 0 with its list in memory. -/
def listed (ms : List Bytes) (r : Request) (l : List (Nat × Bytes) := []) : State :=
  { base with mem := cells ((atList, ms.flatten) :: l), sched := { reqs := [r], nextReq := 1 } }

/-- A queued request of one macro-op, and the state with it. -/
def queued0 : Request := { req0 1 [] with st := .queued }
def queuing (m : Bytes) : State := regs [(pgPOL, oPOL_QUOTA, 0x1000000001)] (listed [m] queued0)


/-- Region 0 of partition 1, taken for partition 0, which has a request at work. -/
def taking : State :=
  { listed [mopBytes 0xF2] (req0 1 []) with
    fab := { rgns := { owner := some 1, powered := true, takenFor := some 0 } :: List.replicate 47 {} } }

theorem witness_SchedulerCommandsRun_preemption :
    Inv taking ∧ serving taking = true ∧ partBusy taking 0 = true
      ∧ (let rs := (List.range 48).filter fun r => (rgn taking r).takenFor == some 0 && !(rgn taking r).haltDbg
         rs ≠ [] ∧ ∃ r ∈ rs, (rgn taking r).owner = some 1 ∧ (rgn taking r).saved.length < 3) :=
  ⟨inv_of_invB (by decide +kernel), by decide +kernel⟩

/-- A state of partition 0 that region 0 has saved in its slot 2. -/
def saved0 : Saved := { part := 0, slot := 2 }

/-- Region 0 is given back to partition 0. -/
def restoring0 : State :=
  { taking with fab := { rgns := { owner := some 0, powered := true, restoring := true, saved := [saved0] } :: List.replicate 47 {} } }

theorem witness_SchedulerCommandsRun_restore :
    (Inv restoring0 ∧ serving restoring0 = true ∧ (rgn restoring0 0).restoring = true ∧ saved0.slot < 3
      ∧ (rgn restoring0 0).saved.reverse.find? (fun v => (rgn restoring0 0).owner == some v.part) = some saved0
      ∧ partBusy restoring0 saved0.part = true)
      ∧ ∃ r, req? restoring0 0 = some r ∧ r.part = 0 ∧ r.st ≠ .ended :=
  ⟨⟨inv_of_invB (by decide +kernel), by decide +kernel⟩, req0 1 [], by decide +kernel⟩

theorem witness_SchedulerCommandsRun_admission :
    (let s := queuing (mopBytes 0xF2)
     Inv s ∧ serving s = true ∧ partValid s 0 = true ∧ nextRequest s 0 = some queued0 ∧ req? s queued0.id = some queued0
      ∧ (stepOneFail s queued0).or (stepTwoReject s queued0) = none ∧ awaitsTraining s queued0 = false)
      ∧ (let s := regs [(pgPOL, oPOL_QUOTA, 0x1000000000)] (queuing (mopBytes 0xF2))
         Inv s ∧ serving s = true ∧ partValid s 0 = true ∧ nextRequest s 0 = some queued0 ∧ req? s queued0.id = some queued0
          ∧ awaitsTraining s queued0 = true)
      ∧ (let s := queuing (mopBytes 0x02)
         Inv s ∧ serving s = true ∧ partValid s 0 = true ∧ nextRequest s 0 = some queued0 ∧ req? s queued0.id = some queued0
          ∧ (stepOneFail s queued0).or (stepTwoReject s queued0) = some ⟨⟨stDescriptor, inMop, 0⟩, 0, 2⟩ ∧ recordRgn s 0 = some 0
          ∧ awaitsTraining s queued0 = false) :=
  ⟨⟨inv_of_invB (by decide +kernel), by decide +kernel⟩, ⟨inv_of_invB (by decide +kernel), by decide +kernel⟩, inv_of_invB (by decide +kernel), by decide +kernel⟩


/-! ### The life of a macro-op. -/

/-- What beginning a layer leaves. -/
def WatchRes.get : WatchRes → Option State
  | .ok s => some s
  | _ => none

theorem WatchRes.eq_get {r : WatchRes} (h : (WatchRes.get r).isSome = true) : ∃ s1, r = .ok s1 ∧ WatchRes.get r = some s1 := by
  cases r with
  | ok s => exact ⟨s, rfl, rfl⟩
  | bad c => simp [WatchRes.get] at h
  | full => simp [WatchRes.get] at h

/-- The hypotheses of a macro-op 0 that begins, as a check, and what may be asked of the state with its layer. -/
def beginsB (s : State) (r : Request) (ask : State → Bool) : Bool :=
  let d := mopOf s r 0
  req? s 0 == some r && serving s && r.st == .admitted && 0 < r.nops && !(partRgns s r.part).isEmpty && (mopSt? r 0).isNone && waitsMet s r 0 d
    && statsFit s r 0 d && (stepTwoFail s r.part d (runtimeSizes s r.part (planOf s r.part d))).isNone
    && !(runtimeSizes s r.part (planOf s r.part d)).contains 0 && d.lengths == 0 && !d.update
    && ((WatchRes.get (startLayer s r 0)).map ask).getD false

theorem begins_of {s : State} {r : Request} {ask : State → Bool} (h : beginsB s r ask = true) :
    req? s 0 = some r ∧ serving s = true ∧ r.st = .admitted ∧ 0 < r.nops ∧ partRgns s r.part ≠ [] ∧ mopSt? r 0 = none
      ∧ waitsMet s r 0 (mopOf s r 0) = true ∧ statsFit s r 0 (mopOf s r 0) = true
      ∧ (let d := mopOf s r 0
         let sizes := runtimeSizes s r.part (planOf s r.part d)
         stepTwoFail s r.part d sizes = none ∧ sizes.contains 0 = false ∧ d.lengths = 0 ∧ d.update = false
          ∧ ∃ s1, startLayer s r 0 = .ok s1 ∧ ask s1 = true) := by
  simp only [beginsB, Bool.and_eq_true, beq_iff_eq, decide_eq_true_eq, Bool.not_eq_true', List.isEmpty_eq_false_iff, Option.isNone_iff_eq_none] at h
  obtain ⟨⟨⟨⟨⟨⟨⟨⟨⟨⟨⟨⟨h1, h2⟩, h3⟩, h4⟩, h5⟩, h6⟩, h7⟩, h8⟩, h9⟩, h10⟩, h11⟩, h12⟩, h13⟩ := h
  have hs : (WatchRes.get (startLayer s r 0)).isSome = true := by
    cases hg : WatchRes.get (startLayer s r 0) with
    | none => simp [hg] at h13
    | some _ => rfl
  obtain ⟨s1, e1, e2⟩ := WatchRes.eq_get hs
  rw [e2] at h13
  exact ⟨h1, h2, h3, h4, h5, h6, h7, h8, h9, h10, h11, h12, s1, e1, h13⟩

/-- A barrier of class 0 and one of class 4, which has no grant. -/
theorem witness_MacroOpLifeRuns_begins :
    beginsB (listed [mopBytes 0xF2] (req0 1 [])) (req0 1 [])
        (fun s1 => (mopOf s1 (req0 1 []) 0).cls == 0 && (mopOf s1 (req0 1 []) 0).opcode != 0x38) = true
      ∧ beginsB (listed [mopBytes 0xF2 (energy := 4)] (req0 1 [])) (req0 1 [])
        (fun s1 => (mopOf s1 (req0 1 []) 0).cls != 0 && !holdsGrant s1 0 0) = true := by decide +kernel

/-- The second macro-op waits for the first; the first of two is ready to complete. -/
theorem witness_MacroOpLifeRuns_waits :
    (let s := listed [mopBytes 0xF2, mopBytes 0xF2 (flags := 32)] (req0 2 [])
     req? s 0 = some (req0 2 []) ∧ mopSt? (req0 2 []) 1 = none ∧ (mopOf s (req0 2 []) 1).after = true ∧ 0 < 1
      ∧ ((mopSt? (req0 2 []) 0).any fun st => st.stage == .done) = false)
      ∧ (let r := req0 2 [{ idx := 0, stage := .worked, begun := true }]
         let s := listed [mopBytes 0xF2 (signal := 0x300000005), mopBytes 0xF2] r
         let x := run0 s
         Inv s ∧ run? s ⟨0, 0⟩ = some x ∧ serving s = true ∧ mayCompleteMop s x = true ∧ x.st.signalled = false ∧ leadRgn s x.p = some 0
          ∧ 1 < x.r.nops ∧ 1 ≠ x.i ∧ passOf s x.r 1 = passOf s x.r x.i ∧ ((mopSt? x.r 1).any fun st => st.stage == .done) = false
          ∧ tallyEntry x.m.signal0 = some (5, 3)) := by
  refine ⟨by decide +kernel, inv_of_invB (by decide +kernel), by decide +kernel⟩

/-- A group of a product's one tile, and one that cluster 0 had before. -/
def group0 : Group := { req := 0, mop := 0, number := 1, die := 0, tiles := 1, edges := 1, strip := [] }
def groupBefore : Group := { group0 with number := 0 }

/-- The product with its group in the queue. -/
def handing (held : List Held) : State := { product with fab := { product.fab with queue := [group0], held := held, units := [{ unit := 0, chunk := 1, chunks := 1 }] } }

theorem witness_MacroOpLifeRuns_groups :
    (∀ held ∈ [[], [{ cluster := 0, group := groupBefore }]],
      let s := handing held
      invB s = true ∧ serving s = true ∧ rgnWorks s (clusterRgn 0) = true ∧ clusterReady s 0 = true
        ∧ nextGroup s 0 ((s.fab.held.find? (·.cluster == 0)).map (·.group)) = some group0)
      ∧ (let s := handing []
         serving s = true ∧ 0 < 9216 ∧ rgnWorks s (clusterRgn (0 / 16)) = true ∧ s.fab.units[0]? = some { unit := 0, chunk := 1, chunks := 1 }) := by
  decide +kernel

/-- A watched layer of one macro-op that negates one element: its record at 0x8000, one sample, references at 0x9000; `v` are the bytes of the
output. -/
def watching (flags layerFlags : Nat) (v : Bytes) (p : PassW) : State :=
  let m := mopBytes 0x15 (out := atOut) (a := atA) (flags := flags) (layer := 0x8000)
  { base with
    mem := cells ([(atList, m), (atOut, tdBytes outEls tyFP32 [1]), (atA, tdBytes aEls tyFP32 [1]), (outEls, v)]
      ++ [(0x8000, natLe 2 3 ++ natLe 1 layerFlags ++ natLe 1 0 ++ natLe 4 1 ++ natLe 8 0x9000)])
    sched := { reqs := [{ req0 1 [{ idx := 0, stage := .worked, begun := true }] with watch := { layers := [{ start := 0 }], passes := [p] } }], nextReq := 1 } }

/-- The bytes of 0 and of infinity. -/
def zeroF : Bytes := zeros 4
def infF : Bytes := [0, 0, 0x80, 0x7F]

/-- What the canary finds in such a layer. -/
def found (s : State) (l : LayerW) : List Checked := ((run0 s).checkedSamples s).map (checkSample s (run0 s) l)

/-- The hypotheses that a verdict needs. -/
def judges (s : State) (l : LayerW) (w : PassW) : Prop :=
  invB s = true ∧ run? s ⟨0, 0⟩ = some (run0 s) ∧ layerW? (run0 s).r (layerOf s (run0 s).r (run0 s).i) = some l
    ∧ passW? (run0 s).r (passOf s (run0 s).r (run0 s).i) = some w ∧ leadRgn s (run0 s).p = some 0 ∧ (run0 s).i < (run0 s).r.nops ∧ serving s = true
    ∧ (run0 s).st.stage = .worked ∧ (run0 s).st.memWait = none ∧ needsVerdict s (run0 s) = true ∧ runRgns s (run0 s).p ≠ []
    ∧ layerMops s (run0 s).r (layerOf s (run0 s).r (run0 s).i) = [0]
    ∧ (l.ctrl.scope && (otherRanks s (run0 s).p).length > 0 && (sliceBox s (run0 s).p).valid) = false

theorem witness_MacroOpLifeRuns_verdicts :
    (let s := watching 1 1 infF { start := 0 }
     judges s { start := 0 } { start := 0 } ∧ orBits ((found s { start := 0 }).map fun c => c.bits) ≠ 0 ∧ 2 ≤ ({ start := 0 } : LayerW).ctrl.action
      ∧ ({ start := 0 } : PassW).repainted = false ∧ ({ start := 0 } : LayerW).wide = false ∧ reruns (run0 s).st = true
      ∧ ({ start := 0 } : PassW).narrowTrips + 1 ≤ ({ start := 0 } : LayerW).ctrl.repaintLimit)
      ∧ (let w : PassW := { start := 0, repainted := true }
         let s := watching 1 1 infF w
         judges s { start := 0 } w ∧ orBits ((found s { start := 0 }).map fun c => c.bits) ≠ 0 ∧ w.repainted = true) := by
  refine ⟨⟨?_, ?_⟩, ?_, ?_⟩
  · unfold judges; decide +kernel
  · decide +kernel
  · unfold judges; decide +kernel
  · decide +kernel


/-- A layer that passes: its norm is 0, against no reference. -/
def passing : State := watching 1 1 zeroF { start := 0 }

theorem witness_MacroOpLifeRuns_accepts :
    judges passing { start := 0 } { start := 0 } ∧ orBits ((found passing { start := 0 }).map fun c => c.bits) = 0
      ∧ ∃ s1, vwrite ((run0 passing).counted passing { start := 0 } (found passing { start := 0 })) (some (run0 passing).r.id) (run0 passing).p
        ((found passing { start := 0 }).map fun c =>
          pendBytes passing (run0 passing).p ((run0 passing).refVa passing c.sample) ({ start := 0 } : LayerW).ctrl.refShift c.norm).flatten = .ok s1 := by
  have hp : (run0 passing).p = 0 := by decide +kernel
  have h1 : ((run0 passing).counted passing { start := 0 } (found passing { start := 0 })).pool.ptes = [page0] := by decide +kernel
  have h2 : ∀ b ∈ ((found passing { start := 0 }).map fun c =>
      pendBytes passing (run0 passing).p ((run0 passing).refVa passing c.sample) ({ start := 0 } : LayerW).ctrl.refShift c.norm).flatten,
      b.1 < 0x200000 := by decide +kernel
  have h3 := vwrite_page0 h1 (some (run0 passing).r.id) _ h2
  have h4 : judges passing { start := 0 } { start := 0 } := by unfold judges; decide +kernel
  rw [← hp] at h3
  exact ⟨h4, by decide +kernel, _, hp ▸ h3⟩

/-- A layer of a gradient. -/
def grading (v : Bytes) : State := watching 9 2 v { start := 0 }

/-- Whether its norm trips. -/
def trips (s : State) (l : LayerW) : Bool :=
  let x := run0 s
  let norm := x.norm s 0 none
  let ref : W32 := BitVec.ofNat 32 (vnat s x.p (x.refVa s (x.samples s)) 4)
  !normFinite norm || (ratioOf norm ref).any fun q => bandBits l.ctrl.grad q != 0

theorem witness_MacroOpLifeRuns_gradients : ∀ v ∈ [zeroF, infF],
    let s := grading v
    let x := run0 s
    let l : LayerW := { start := 0 }
    invB s = true ∧ run? s ⟨0, 0⟩ = some x ∧ layerW? x.r (layerOf s x.r x.i) = some l ∧ leadRgn s x.p = some 0 ∧ serving s = true ∧ x.st.stage = .worked
      ∧ needsGrad s x = true ∧ x.st.gradDone = false ∧ x.st.memWait = none ∧ runRgns s x.p ≠ [] ∧ trips s l = (v == infF)
      ∧ (x.p = 0 ∧ ∀ b ∈ pendBytes s x.p (x.refVa s (x.samples s)) l.ctrl.refShift (x.norm s 0 none), b.1 < 0x200000) := by decide +kernel

/-- What it then writes is written: the reference of a norm that does not trip, or nothing. -/
theorem witness_MacroOpLifeRuns_gradients_write : ∀ v ∈ [zeroF, infF],
    let s := grading v
    let x := run0 s
    let l : LayerW := { start := 0 }
    ∃ s1, vwrite s (some x.r.id) x.p
      (if trips s l && l.ctrl.gradAction then [] else pendBytes s x.p (x.refVa s (x.samples s)) l.ctrl.refShift (x.norm s 0 none)) = .ok s1 := by
  intro v hv
  obtain ⟨-, -, -, -, -, -, -, -, -, -, -, hp, hb⟩ := witness_MacroOpLifeRuns_gradients v hv
  dsimp only
  split
  · exact ⟨_, rfl⟩
  · rw [hp] at hb ⊢
    exact ⟨_, vwrite_page0 rfl _ _ hb⟩

/-! ### What commands leave as it was. -/

theorem witness_CommandsKeepTheOtherParts : exec (.matmul ⟨0, 0⟩) product = .next (after (.matmul ⟨0, 0⟩) product) := exec_matmul _ _

theorem witness_VirtualStoresWriteTheirBytes :
    Inv base ∧ (([(5, 1), (6, 2)] : List (Nat × Byte)).map fun b => placeOf base 0 b.1).Nodup
      ∧ Machine.translate base 0 5 = some page0 ∧ page0.zero = false ∧ ∀ b ∈ ([(5, 1), (6, 2)] : List (Nat × Byte)), placeOf base 0 b.1 ≠ some 7 :=
  ⟨inv_base, by decide +kernel⟩

end Sys2Proof.Tests
end

