-- ==== Sys2Proof/WellFormed.lean ====
section
/-! DEFINITION. Well-formed commands: every operand that names an instance of the module names one that exists, and every field
of a frame fits its width. An ill-formed command stands for nothing that can happen to the module: the statements carry the bounds that they
need as hypotheses of their own. -/

namespace Sys2Proof

/-- The ranges of the instances that operands name (R8, R461, R576). -/
def isRegion (r : Nat) : Bool := r < Config.numRegions
def isStack (d : Nat) : Bool := d < Config.numDies
def isCluster (c : Nat) : Bool := c < Config.numClusters
def isUnit (u : Nat) : Bool := u < Config.numUnits
def isPart (p : Nat) : Bool := p < Config.numPartitions
def isSess (i : Nat) : Bool := i < Config.numSessions
def isPort (n : Nat) : Bool := n < 6
def isDie14 (d : Nat) : Bool := d < 14
def isFlash (n : Nat) : Bool := n < 4
def isSet (n : Nat) : Bool := n < 2
def isU8 (n : Nat) : Bool := n < 256
def isU32 (n : Nat) : Bool := n < 2 ^ 32
def isPa (n : Nat) : Bool := n < 2 ^ 48

/-- The fields of an IVT header fit their widths (R492). -/
def Hdr.wf (h : Hdr) : Bool :=
  isU8 h.version && isU8 h.session && isU32 h.tag && isU32 h.seq && isU32 h.ack && h.length < 65536 && h.window < 65536
    && isU32 h.msg && isU32 h.offset && (match h.sack with | some k => isU32 k | none => true)

/-- A macro-op index lies below the longest list (R115). -/
def MopRef.wf (m : MopRef) : Bool := m.idx < 1048576

/-- The ports that share a bank with the window are ports of some memory, each asks once, and a word lies in a bank (R221, R222). -/
def BankCycle.wf (c : BankCycle) : Bool :=
  c.others.all (fun a => a.port < 20 && a.word < 1024) && decide (c.others.map (·.port)).Nodup

/-- The site of an error exists. -/
def SramSite.wf : SramSite → Bool
  | .at pa => isPa pa
  | .side u => isUnit u
  | .spare c => isCluster c
  | .secure => true

/-- Well-formed commands. -/
def Instr.wf : Instr → Bool
  | .regionCalibration r _ _ | .sftEcc r | .regionPowerOff r | .regionRestore r | .sftArm _ r _ => isRegion r
  | .regionWake r f => isRegion r && f.all (· < 9216)
  | .hbmTrainingDone d _ _ sp => isStack d && sp ≤ 64
  | .hbmTempRead d t => isStack d && isU8 t
  | .hbmUncorrectable a | .frameZeroing a => isPa a
  | .sramUncorrectable x => x.wf
  | .catchEccDiscard c => isCluster c.cluster
  | .groupTake c => isCluster c
  | .csTestRegion c f => isCluster c && f.failing.all (· < 128)
  | .flashWear n l => isFlash n && l.spare ≤ 10000
  | .flashReadFail w n | .tierDeadlineExpiry w n => isFlash n && (match w with | .request _ => true | .session i => i < 16)
  | .poolEviction p | .partitionReset p | .admission p | .preemption p | .jobFault p | .sftSwapped p => isPart p
  | .dieTempRead d t => isDie14 d && isU8 t
  | .tripResume d => isDie14 d
  | .coolantRead i o => isU8 i && isU8 o
  | .depEnvelopeWrite i _ | .keyWrite i _ | .keyErase i _ | .cakWrite i | .fwCommit i | .svnBurn i | .transition i _
  | .exportRecord i | .importRecord i | .selfCal i | .rtrCoordWrite i _ _ | .proofTimeout i | .ackTimer i
  | .sessionIdleTimeout i | .eventFrameSend i | .schSessWrite i _ _ | .talAdd i _ _ | .pageLock i _ _ | .evtClr i _ _
  | .traceEnable i _ | .debugHalt i _ => isSess i
  | .windowRead a => isSess a.sess && a.cycle.wf
  | .windowWrite i _ c => isSess i && c.wf
  | .retransmitTimeout i q => isSess i && isU32 q
  | .rtrSliceWrite i p _ | .schPartWrite i p _ | .schTallyWrite i p _ | .polQuotaWrite i p _ => isSess i && isPart p
  | .linkBringup n _ | .linkDegraded n _ | .linkUncorrectable n => isPort n
  | .laneSpared l => isPort l.port
  | .lnkRetrain i n => isSess i && isPort n
  | .flitReceive n f => isPort n && isPart f.tag && f.channel < 3
  | .bellAbort n p _ st _ => isPort n && isPart p && [0x10, 0x11, 0x12, 0x13, 0x14, 0x20, 0x21, 0x30, 0x32].contains st
  | .bellFault n p _ | .bellHeld n p _ _ | .bellVerdict n p _ _ | .bellColl n p _ _ _ _ => isPort n && isPart p
  | .pfcFrameReceive ps => ps.all fun x => x.1 < 8
  | .pfcPauseExpiry n => n < 8
  | .hostPortStateChange _ _ l => l ≤ 8
  | .hello f => isU8 f.wanted && f.nonce.length = 32
  | .proof i t sig _ _ => isSess i && isU32 t && sig.length = Config.sigBytes
  | .close h | .regRead h _ | .regWrite h _ | .memWrite h _ _ _ _ | .memRead h _ _ _ _ | .submit h _ | .attest h _
  | .ack h => h.wf
  | .chunkCredit u => isUnit u
  | .segmentStart n | .pictureReconstruct n | .vencStart n => isSet n
  | .prepJobStart e | .prepJobEnd e => e < 8
  | .reductionClaimGrant e => e < 2
  | .redFallback m e => m.wf && e < 2
  | .haulTimeout p h => isPart p && isU32 h
  | .tubChunkReceive h _ => isPart h.tag && isU32 h.haulId
  | .collPieceReceive p c _ _ _ _ => isPart p && c < 2 ^ 64
  | .leaveRequest m | .grantRelease m _ _ | .depWaitLong m | .mopWaitMet m | .mopComplete m | .canaryVerdict m
  | .canaryGrad m | .matmul m | .matmulAdd m | .convert m | .add m | .mul m | .fma m | .max m | .min m | .fill m
  | .reduceSum m | .reduceMax m | .reduceMin m | .reduceSumSquares m | .chain m | .sfnExp2 m | .sfnLog2 m | .sfnRcp m
  | .sfnRsqrt m | .sfnUser m | .softmax m | .softmaxStats m | .statsMerge m | .softmaxApply m | .layernorm m | .rmsnorm m
  | .normStatsLayer m | .normStatsRms m | .attn m | .kvAppend m | .attnGrad m | .ctxOpen m | .ctxResize m | .ctxClose m
  | .ctxFill m | .haulSend m | .haulAttn m | .haulGrad m | .conv m | .poolMax m | .poolMin m | .poolAverage m
  | .boxDecodeDistances m | .boxDecodeCentre m | .nms m | .vctxOpen m | .vctxClose m | .vctxReset m | .vdec m | .venc m
  | .prep m | .holdExpiry m | .step m | .placeJoinGather m | .placeJoinSlot m | .placeLeave m | .reduceScatter m
  | .allGather m | .bellReduce m | .bellBarrier m | .bellBcast m | .collTimeout m | .copy m | .prefetch m | .pin m
  | .unpin m | .imageWrite m | .imageSeal m | .tallySet m | .tallyAdd m | .barrier m | .ckptSave m | .ckptRestore m
  | .mapHbm m | .mapFlash m | .unmap m | .mapImage m | .changeProtection m => m.wf
  | .powerSample _ u _ => u.regions.length == 48
  | .powerOn | .bladeUndervoltage | .resetHoldExpiry _ | .coldReset | .refclkValidWaitEnd | .earlyService | .fullService
  | .clampPaceRise | .leaveGrant | .sscUpdate | .refclkLost | .clkRefBack | .tamper | .warmReset
  | .blockSoftReset _ | .modResetDone | .allocationWaitEnd _ | .ethFrameReceive _ | .mkaFrameReceive _ | .arpRequest _ _
  | .neighbourSolicitation _ _ | .echoRequest _ _ _ | .requestComplete _ | .parseResume _ | .segmentEnd _
  | .ringWaitExpiry _ | .segLimitExpiry _ | .budgetExpiry _ | .haulAbort _ | .traceRecord | .debugHalted
  | .secCmdDone _ | .calDone _ | .hptMkaFail => true
  | .resetNRelease n => n < 16

end Sys2Proof
end

