-- ==== Sys2Proof/Tests/Slice0.lean ====
section
/-! SUPPORT. Tests: ill-formed commands are refused, and worked examples of the spec. -/

namespace Sys2Proof.Tests

set_option Elab.async false

open Sys2Proof.Machine

/-! ### Well-formedness: for each check, a command that it refuses and one that it lets through. -/

/-- A header whose fields fit their widths. -/
def goodHdr : Hdr :=
  { version := 1, flagsReserved := false, session := 0, tag := 1, seq := 0, ack := 0, sack := none, length := 0, window := 0, msg := 0, offset := 0
    last := true, srcIp := 0, srcPort := 0, srcMac := 0 }

/-- A HELLO and a tub chunk that are well-formed. -/
def goodHello : HelloFacts :=
  { wanted := 0, keySlot := 1, maxPayload := 1024, nonce := zeros 32, srcIp := 0, srcPort := 0, srcMac := 0, dstIp := 0 }
def goodTub : TubHdr := { tag := 0, haulId := 0, srcRank := 0, layer := 0, exec := 0, dir := 0, chunk := 0, segs := 0 }

theorem test_wf_instances :
    ([.regionPowerOff 48, .regionWake 0 [9216], .hbmTrainingDone 12 true 0 0, .hbmTrainingDone 0 true 0 65, .hbmTempRead 0 256, .frameZeroing (2 ^ 48),
      .groupTake 576, .csTestRegion 0 ⟨[128], 0⟩, .flashWear 4 ⟨0, 0⟩, .flashWear 0 ⟨10001, 0⟩, .admission 16, .dieTempRead 14 0, .tripResume 14, .coolantRead 256 0,
      .resetNRelease 16, .chunkCredit 9216, .segmentStart 2, .prepJobStart 8, .reductionClaimGrant 2] : List Instr).all (fun c => !c.wf) = true
    ∧ ([.regionPowerOff 47, .regionWake 0 [9215], .hbmTrainingDone 11 true 0 64, .hbmTempRead 0 255, .frameZeroing 0, .groupTake 575,
      .csTestRegion 0 ⟨[127], 0⟩, .flashWear 3 ⟨10000, 0⟩, .admission 15, .dieTempRead 13 0, .tripResume 13, .coolantRead 255 0, .resetNRelease 15,
      .chunkCredit 9215, .segmentStart 1, .prepJobStart 7, .reductionClaimGrant 1] : List Instr).all Instr.wf = true := by decide

theorem test_wf_ports :
    ([.keyWrite 16 0, .rtrSliceWrite 0 16 0, .lnkRetrain 0 6, .laneSpared ⟨6, 0⟩, .flitReceive 0 { flit0 with channel := 3 },
      .flitReceive 0 { flit0 with tag := 16 }, .bellFault 0 16 0, .windowWrite 0 0 ⟨[⟨20, 0, 0, .read, false, .clean⟩], .clean⟩, .sramUncorrectable (.side 9216),
      .tierDeadlineExpiry (.session 16) 0, .pfcFrameReceive [(8, true)], .pfcPauseExpiry 8, .hostPortStateChange true true 9,
      .hello { goodHello with wanted := 256 }, .hello { goodHello with nonce := [] }, .proof 0 0 [] 0 0, .retransmitTimeout 0 (2 ^ 32)]
      : List Instr).all (fun c => !c.wf) = true
    ∧ ([.keyWrite 15 0, .rtrSliceWrite 0 15 0, .lnkRetrain 0 5, .laneSpared ⟨5, 0⟩, .flitReceive 0 flit0, .bellFault 0 15 0, .windowWrite 0 0 ⟨[⟨19, 0, 0, .read, false, .clean⟩], .clean⟩, .sramUncorrectable (.side 9215),
      .tierDeadlineExpiry (.session 15) 0, .pfcFrameReceive [(7, true)],
      .pfcPauseExpiry 7, .hostPortStateChange true true 8, .hello goodHello, .retransmitTimeout 0 0] : List Instr).all Instr.wf = true := by decide

theorem test_wf_frames :
    ([.ack { goodHdr with version := 256 }, .ack { goodHdr with session := 256 }, .ack { goodHdr with tag := 2 ^ 32 },
      .ack { goodHdr with seq := 2 ^ 32 }, .ack { goodHdr with ack := 2 ^ 32 }, .ack { goodHdr with sack := some (2 ^ 32) },
      .ack { goodHdr with length := 65536 }, .ack { goodHdr with window := 65536 }, .ack { goodHdr with msg := 2 ^ 32 },
      .ack { goodHdr with offset := 2 ^ 32 }] : List Instr).all (fun c => !c.wf) = true
    ∧ (Instr.ack goodHdr).wf = true := by decide

theorem test_wf_requests :
    ([.matmul ⟨0, 1048576⟩, .redFallback ⟨0, 0⟩ 2, .haulTimeout 16 0, .haulTimeout 0 (2 ^ 32), .tubChunkReceive { goodTub with haulId := 2 ^ 32 } [],
      .collPieceReceive 16 0 0 0 0 [], .collPieceReceive 0 (2 ^ 64) 0 0 0 []] : List Instr).all (fun c => !c.wf) = true
    ∧ ([.matmul ⟨0, 1048575⟩, .redFallback ⟨0, 0⟩ 1, .haulTimeout 15 0, .tubChunkReceive goodTub []] : List Instr).all Instr.wf = true := by decide

/-! ### Worked examples of the spec. -/

/-- "Addresses of unit 7.2.11.15": region 30, cluster 371, unit 5,951. -/
theorem test_addresses : hawkBase 5951 = 0x01005CFC0000 ∧ accBase 5951 = 0x01012E7E0000 ∧ storeBase 371 = 0x01025CC00000 ∧ clusterRgn 371 = 30
    ∧ dieOf 30 = 7 := by decide

/-- A byte of sequence context 1,000 has its place in the virtual space. -/
theorem test_sequence_space : vaSpace 0 0x081F400012345678 = .ctx 1000 ∧ vaOff 0x081F400012345678 = 0x12345678 := by decide

/-- "The reference slice": the module at (6, 3, 9) has slice rank 30. -/
theorem test_slice_rank : rankOf { valid := true, origin := [4, 0, 8], extent := [4, 4, 4] } 2 3 1 = 30 := by decide

/-- "Choosing the scale for an MXFP4 block": 13, 5, -0.7 and 0.2 get scale code 0x80 and codes 7, 4, 9 and 0. -/
theorem test_mxfp4_block :
    encodeBlock (fmtCtl 4) tyE2M1 [.num false 13 0, .num false 5 0, .num true 11744051 (-24), .num false 13421773 (-26)] = (0x80, [7, 4, 9, 0], false) := by
  decide +kernel

/-- The blocks of "One MXFP4 block dot product", by their element codes and scale code. -/
def mxBlk (scale : Nat) (codes : List Nat) : Blk :=
  { zero := false, ints := codes.map fun c => (elemInt tyE2M1 c).1, unit := -1, sc := (scale : Int) - 127 }
def rowA : List Nat := ((List.range 4).map fun _ => [7, 13, 1, 2, 0, 4, 11, 6]).flatten
def rowB : List Nat := ((List.range 4).map fun _ => [2, 4, 9, 6, 7, 10, 3, 1]).flatten
def acc1 : AccRow := (AccRow.empty 1).addBlock [pairAddend (boundB tyE2M1 tyE2M1) (mxBlk 0x7B rowA) (mxBlk 0x78 rowB)]

/-- Its first block leaves N = 24 * 2^40 at E = 0, its second rounds to an even neighbour and spills once; the result is 0x3B400000. -/
theorem test_block_dot_product :
    acc1 = ⟨some 0, [(0x180000000000, 0)]⟩
      ∧ (let acc2 := acc1.addBlock [pairAddend (boundB tyE2M1 tyE2M1) (mxBlk 0x5F [1, 2]) (mxBlk 0x6B [1, 2])]
         acc2 = ⟨some 0, [(0x180000000002, 1)]⟩ ∧ toF32 (acc2.value 0) = 0x3B400000 ∧ (scalarCode tyBF16 (acc2.value 0)).1 = 0x3B40) := by
  decide +kernel

/-- "One group of eight values": the fields at 2:1 and at 4:1. -/
def group8 : List Machine.Num :=
  [.num false 3 (-2), .num true 5 (-4), .num false 3 (-6), .num false 11 (-3), .num false 0 0, .num true 9 (-3), .num false 3 (-4), .num false 7 (-3)]
theorem test_compressed_group :
    compExp group8 = 0x7F ∧ group8.map (compField 6 0x7F) = [0x18, 0x4A, 0x02, 0x2C, 0x00, 0x64, 0x06, 0x1C]
      ∧ natLe 3 (packFields 3 (group8.map (compField 2 0x7F))) = [0x2A, 0x06, 0x43] := by decide +kernel

/-- "A soft maximum over two tiles": EXP2(-2) is exact, EXP2(-32) leaves a sum of 1.0 as it was, and 0.25 * 1.0 + 1.0 is 1.25. -/
theorem test_soft_maximum :
    (Sfn.exp2.eval [] 0x00800000 0xC0000000).code = 0x3E800000 ∧ fAdd 0x3F800000 (Sfn.exp2.eval [] 0x00800000 0xC2000000).code = 0x3F800000
      ∧ (Sfn.exp2.eval [] 0x35800000 0xC2000000).code = 0 ∧ fFma 0x3F800000 0x3E800000 0x3F800000 = 0x3FA00000 ∧ toF32 (rcpNum (f32 0x3FA00000)) = 0x3F4CCCCD := by
  decide +kernel

/-- "Finding and clearing a region event": PAGE_ID and PAGE_CAP of page 0x59, and event 48 raised. -/
theorem test_region_page :
    view base 0 0x59 oPAGE_ID = 0x000000590001190B ∧ view base 0 0x59 oPAGE_CAP = 0x000039FF0000FFFF
      ∧ view (raise base 0x59 48) 0 0x59 oEVT_RAW = 0x0001000000000000 ∧ view (raise base 0x59 48) 0 0x59 oEVT_COUNT = 1 := by decide +kernel

/-- "A cold start with a bad slot and a slow stack": slot B is tried first and refused, slot A runs. -/
theorem test_bad_slot :
    let slotA : FwSlot := { goodFw with generation := 6, svn := 9 }
    let slotB : FwSlot := { goodFw with generation := 7, svn := 9, bodyOk := false }
    let s := bootSlots { base with nv := { base.nv with fw := [slotA, slotB], svnFuse := 9 } }
    s.boot.phase = .running ∧ s.boot.fwSlot = 0 ∧ s.boot.fw.svn = 9 ∧ regRaw s pgSEC oSEC_BOOT_FAILS = 1 := by decide +kernel

/-! ### Single steps. -/

/-- A step takes the command at the front of the queue and leaves the rest. -/
theorem test_step_takes_front :
    (match step { base with pending := [.dieTempRead 0 70, .tripResume 1] } with | .next t => t.pending | _ => []) = [.tripResume 1] := by decide +kernel

/-- No word spells a command. -/
theorem test_no_words : decodeTableWord 32 0 = none ∧ State.reset.withFetchWord 32 0 = State.reset := ⟨rfl, rfl⟩

/-- A cluster takes its group, whose first unit waits for the rows of the tile before; a credit takes that unit on. -/
theorem test_group_take : (after (.groupTake 0) (handing [])).fab.units = [{ unit := 0, chunk := 0, chunks := 1, back := 128 }]
    ∧ (after (.chunkCredit 0) (after (.groupTake 0) (handing []))).fab.units = [{ unit := 0, chunk := 1, chunks := 1 }] := by decide +kernel

/-- A canary trip in a narrow layer sends it back in the wide form (R100); a barrier of class 0 begins its work. -/
theorem test_fallback_and_begin :
    stageOf (after (.canaryVerdict ⟨0, 0⟩) (watching 1 1 infF { start := 0 })) 0 0 = some .again
      ∧ stageOf (after (.mopWaitMet ⟨0, 0⟩) (listed [mopBytes 0xF2] (req0 1 []))) 0 0 = some .granted := by decide +kernel

/-- CRC-32 of the digits 1 to 9. -/
theorem test_crc32 : crc32 [0x31, 0x32, 0x33, 0x34, 0x35, 0x36, 0x37, 0x38, 0x39] = 0xCBF43926 := by decide +kernel

end Sys2Proof.Tests
end

section
/-! PROOFS. What an access to a register and the sending of an answer leave of a session and of the other parts of the state (R494-R498). -/

namespace Sys2Proof.Machine

/-! ### What a session keeps while it sends and while registers are accessed. -/

/-- A session stays open or closed, under its key slot, with the same greatest payload, SUBMIT in assembly, next SEQ and frames beyond a gap. -/
structure Sess.Stands (x y : Sess) : Prop where
  isOpen : y.isOpen = x.isOpen
  secure : y.secure = x.secure
  keySlot : y.keySlot = x.keySlot
  maxPayload : y.maxPayload = x.maxPayload
  asm : y.asm = x.asm
  rx : y.rx = x.rx
  early : y.early = x.early

theorem Sess.Stands.refl (x : Sess) : x.Stands x := ⟨rfl, rfl, rfl, rfl, rfl, rfl, rfl⟩

theorem Sess.Stands.trans {x y z : Sess} (h : x.Stands y) (g : y.Stands z) : x.Stands z :=
  ⟨g.isOpen.trans h.isOpen, g.secure.trans h.secure, g.keySlot.trans h.keySlot, g.maxPayload.trans h.maxPayload, g.asm.trans h.asm,
    g.rx.trans h.rx, g.early.trans h.early⟩

/-- The registers are in canonical form, and every session stands as before. -/
structure SessionsKept (s t : State) : Prop where
  wf : cellWf coldAt t.regs = true
  count : t.host.sess.length = s.host.sess.length
  stands : ∀ i, (sess s i).Stands (sess t i)

section
variable {s t u : State}

theorem SessionsKept.refl (h : cellWf coldAt s.regs = true) : SessionsKept s s := ⟨h, rfl, fun _ => .refl _⟩

theorem SessionsKept.congr (h : SessionsKept s t) (hr : u.regs = t.regs) (hh : u.host.sess = t.host.sess) : SessionsKept s u :=
  ⟨hr ▸ h.wf, hh ▸ h.count, fun i => sess_congr hh i ▸ h.stands i⟩

theorem SessionsKept.ite {c : Prop} [Decidable c] (h : SessionsKept s t) (g : SessionsKept s u) : SessionsKept s (if c then t else u) := by
  split <;> assumption

theorem SessionsKept.forEach {α : Type} {f : State → α → State} (h : SessionsKept s t) (l : List α)
    (hf : ∀ u a, SessionsKept s u → SessionsKept s (f u a)) : SessionsKept s (forEach l f t) := by
  unfold Machine.forEach
  induction l generalizing t with
  | nil => exact h
  | cons a l ih => exact ih (hf t a h)

theorem SessionsKept.setReg (h : SessionsKept s t) (page off v : Nat) : SessionsKept s (setReg t page off v) :=
  { h with wf := setReg_regsWf h.wf page off v }

theorem SessionsKept.fldSet (h : SessionsKept s t) (page off hi lo x : Nat) : SessionsKept s (fldSet t page off hi lo x) := h.setReg ..

theorem SessionsKept.bump (h : SessionsKept s t) (page off n : Nat) : SessionsKept s (bump t page off n) :=
  { h with wf := bump_regsWf h.wf page off n }

/-- A session that is updated changes by the update or, outside the table, not at all. -/
theorem sess_modSess_or (s : State) (i : Nat) (f : Sess → Sess) (j : Nat) :
    sess (modSess s i f) j = sess s j ∨ j = i ∧ sess (modSess s i f) j = f (sess s j) := by
  by_cases hj : i = j
  · subst hj
    by_cases hi : i < s.host.sess.length
    · exact .inr ⟨rfl, sess_modSess_same hi f⟩
    · exact .inl (by simp [sess, nth, updNth, hi])
  · exact .inl (sess_modSess_ne hj f)

theorem SessionsKept.modSess (h : SessionsKept s t) (i : Nat) {f : Sess → Sess}
    (hf : ∀ x : Sess, x.Stands (f x) := by exact fun _ => ⟨rfl, rfl, rfl, rfl, rfl, rfl, rfl⟩) : SessionsKept s (modSess t i f) := by
  refine ⟨h.wf, by simpa using h.count, fun j => (h.stands j).trans ?_⟩
  obtain e | ⟨-, e⟩ := sess_modSess_or t i f j <;> rw [e]
  · exact .refl _
  · exact hf _

/-! ### Events and the trace. -/

theorem SessionsKept.traceRec (h : SessionsKept s t) (kind part page tag idx op status code data : Nat) :
    SessionsKept s (traceRec t kind part page tag idx op status code data) :=
  .ite (.ite (h.bump ..) (h.congr rfl rfl)) h

theorem SessionsKept.eventToSess (h : SessionsKept s t) (page n i : Nat) : SessionsKept s (eventToSess page n t i) :=
  .ite (.ite (h.modSess i) (h.bump ..)) h

theorem SessionsKept.raise (h : SessionsKept s t) (page n : Nat) : SessionsKept s (raise t page n) :=
  (((h.setReg ..).bump ..).forEach _ fun _ i hu => hu.eventToSess page n i).traceRec ..

theorem SessionsKept.raiseLead (h : SessionsKept s t) (p n : Nat) : SessionsKept s (raiseLead t p n) := by
  unfold Machine.raiseLead
  split
  · exact h.raise ..
  · exact h

/-! ### Regions and their scheduling (R464). -/

theorem SessionsKept.modRgn (h : SessionsKept s t) (r : Nat) (f : Region → Region) : SessionsKept s (modRgn t r f) := h.congr rfl rfl

theorem SessionsKept.takeRunning (h : SessionsKept s t) (r p : Nat) : SessionsKept s (takeRunning t r p) :=
  .ite ((h.bump ..).raise ..) (.ite h (h.congr rfl rfl))

theorem SessionsKept.assignRgn (h : SessionsKept s t) (r : Nat) : SessionsKept s (assignRgn t r) := by
  have give (p : Nat) : SessionsKept s (giveRegion t r p) := h.congr (by simp) (by simp)
  have restore (v : Saved) : SessionsKept s (beginRestore t r v) := h.congr (by simp) (by simp)
  unfold Machine.assignRgn
  refine .ite h ?_
  split
  · split
    · exact h.modRgn ..
    · exact h
  · dsimp only
    split
    · exact .ite (give _) (restore _)
    · exact restore _
    · exact .ite (h.takeRunning ..) (give _)
    · exact .ite (h.modRgn ..) h

theorem SessionsKept.emit (h : SessionsKept s t) (o : Out) : SessionsKept s (emit t o) := h.congr rfl rfl

theorem SessionsKept.bellFlood (h : SessionsKept s t) (p : Nat) (from_ : Option Nat) (kind a b : Nat) (vals : List W32) :
    SessionsKept s (bellFlood t p from_ kind a b vals) := by
  unfold Machine.bellFlood
  exact h.forEach _ fun _ _ hu => .ite ((hu.emit _).bump ..) hu

theorem SessionsKept.setLinks (h : SessionsKept s t) (l : Links) : SessionsKept s { t with links := l } := h.congr rfl rfl

theorem SessionsKept.announceHeld (h : SessionsKept s t) : SessionsKept s (announceHeld t) := by
  unfold Machine.announceHeld
  exact h.forEach _ fun _ _ hu => .ite ((hu.setLinks _).bellFlood ..) (.ite ((hu.setLinks _).bellFlood ..) hu)

theorem SessionsKept.settle (h : SessionsKept s t) : SessionsKept s (settle t) := by
  have assigned : SessionsKept s (assign t) := h.forEach _ fun _ r hu => hu.assignRgn r
  exact (assigned.congr (u := refreshLeaves (assign t)) (by simp) (by simp)).announceHeld

end
end Sys2Proof.Machine
end

section
/-! PROOFS. A register write keeps every session as it stands: each rule of a chapter that a write can set off (R505, R567-R574). -/

namespace Sys2Proof.Machine

section
variable {s t : State}

theorem SessionsKept.setCtl (h : SessionsKept s t) (c : Ctl) : SessionsKept s { t with ctl := c } := h.congr rfl rfl

/-! ### The scheduler's, the pool's and the debug registers (R463, R467, R271, R582-R587). -/

theorem SessionsKept.traceCheck (h : SessionsKept s t) : SessionsKept s (traceCheck t) :=
  .ite (((h.fldSet ..).fldSet ..).raise ..) h

theorem SessionsKept.dropPtes (h : SessionsKept s t) (p : Pte → Bool) : SessionsKept s (dropPtes t p) := h.congr (by simp) (by simp)

theorem SessionsKept.endPartition (h : SessionsKept s t) (p : Nat) : SessionsKept s (endPartition t p) := by
  unfold Machine.endPartition
  extract_lets freed closed _ _ _ forgotten dropped
  have hFreed : SessionsKept s freed := h.forEach _ fun _ _ hu => hu.congr (by simp) (by simp)
  have hClosed : SessionsKept s closed := hFreed.forEach _ fun _ _ hu => hu.congr (by simp) (by simp)
  have hForgotten : SessionsKept s forgotten := hClosed.congr rfl rfl
  exact ((hForgotten.dropPtes _).setReg ..).traceCheck

theorem SessionsKept.schReject (h : SessionsKept s t) : SessionsKept s (schReject t) := h.raise ..

theorem SessionsKept.schPartWrite (h : SessionsKept s t) (p new : Nat) : SessionsKept s (schPartWrite t p new) := by
  unfold Machine.schPartWrite
  exact .ite h.schReject (.setReg (.ite (.setReg (.ite (h.endPartition p) h) ..) (.ite (h.endPartition p) h)) ..)

theorem SessionsKept.schTallyWrite (h : SessionsKept s t) (p new : Nat) : SessionsKept s (schTallyWrite t p new) :=
  .ite h.schReject ((h.setReg ..).congr rfl rfl)

theorem SessionsKept.quotaWrite (h : SessionsKept s t) (p new : Nat) : SessionsKept s (quotaWrite t p new) :=
  .ite h (.ite h (h.setReg ..))

theorem SessionsKept.setHalts (h : SessionsKept s t) (m : Nat) : SessionsKept s (setHalts t m) := by
  unfold Machine.setHalts
  extract_lets resumed _ waiting
  have hResumed : SessionsKept s resumed := h.forEach _ fun _ _ hu => .ite hu (hu.modRgn ..)
  have hWaiting : SessionsKept s waiting := hResumed.congr rfl rfl
  exact (hWaiting.setReg ..).settle

theorem SessionsKept.dbgCtrlWrite (h : SessionsKept s t) (old new : Nat) : SessionsKept s (dbgCtrlWrite t old new) := by
  have stored := h.setReg pgDBG oDBG_CTRL new
  have traced := SessionsKept.ite (c := (!bit old 0 && bit new 0) = true)
    (.ite (c := traceBufferOk (Machine.setReg t pgDBG oDBG_CTRL new) = true) ((stored.setReg pgDBG oDBG_TRACE_WR 0).setReg pgDBG oDBG_STAT 1)
      ((stored.fldSet pgDBG oDBG_CTRL 0 0 0).fldSet pgDBG oDBG_STAT 2 2 1))
    (.ite (c := (bit old 0 && !bit new 0) = true) (stored.fldSet pgDBG oDBG_STAT 0 0 0) stored)
  exact .ite (traced.setHalts 0) traced

theorem SessionsKept.winRefuse (h : SessionsKept s t) (pa : Nat) : SessionsKept s (winRefuse t pa) := by
  unfold Machine.winRefuse
  split
  · exact h.bump ..
  · exact h.bump ..

theorem SessionsKept.winNext (h : SessionsKept s t) (pa : Nat) : SessionsKept s (winNext t pa) := (h.setReg ..).bump ..

theorem memWrite_regs_host (s : State) (pa : Nat) (bs : Bytes) : (memWrite s pa bs).regs = s.regs ∧ (memWrite s pa bs).host = s.host := by
  induction bs generalizing s pa with
  | nil => exact ⟨rfl, rfl⟩
  | cons b bs ih => exact ih (memSet s pa b) (pa + 1)

theorem SessionsKept.memWrite (h : SessionsKept s t) (pa : Nat) (bs : Bytes) : SessionsKept s (memWrite t pa bs) :=
  h.congr (memWrite_regs_host t pa bs).1 (congrArg HostPort.sess (memWrite_regs_host t pa bs).2)

theorem SessionsKept.winWrite (h : SessionsKept s t) (v : Nat) : SessionsKept s (winWrite t v ⟨[], .clean⟩).1 := by
  unfold Machine.winWrite
  dsimp only
  split
  · exact h.winRefuse _
  · split
    · exact (h.memWrite ..).winNext _
    · exact h

/-! ### The host port, the links, the installation table and the slices (R513, R351-R357). -/

theorem SessionsKept.pump (h : SessionsKept s t) (i : Nat) : SessionsKept s (pump t i) := by
  unfold Machine.pump
  refine .ite h (.modSess (SessionsKept.forEach h _ fun _ _ hu => ?_) i)
  exact ((hu.bump ..).bump ..).emit _

theorem SessionsKept.setPort (h : SessionsKept s t) (st lanes : Nat) : SessionsKept s (setPort t st lanes) := by
  unfold Machine.setPort
  extract_lets was _ moved
  have hMoved : SessionsKept s moved := h.congr rfl rfl
  split
  · have hUp : SessionsKept s { moved with boot := { moved.boot with portWasUp := true } } := hMoved.congr rfl rfl
    exact (hUp.raise ..).forEach _ fun _ i hu => hu.pump i
  · exact .ite (hMoved.raise ..) hMoved

theorem SessionsKept.reSecure (h : SessionsKept s t) : SessionsKept s (reSecure t) := .ite (h.setPort ..) h

theorem SessionsKept.setPortState (h : SessionsKept s t) (port st : Nat) : SessionsKept s (setPortState t port st) := h.fldSet ..

theorem SessionsKept.retrainPort (h : SessionsKept s t) (port : Nat) : SessionsKept s (retrainPort t port) :=
  .fldSet (.ite (h.raise ..) h) ..

theorem SessionsKept.linkRetrain (h : SessionsKept s t) (port : Nat) : SessionsKept s (linkRetrain t port) :=
  .ite h (.setReg (.setPortState (.ite (h.raise ..) h) ..) ..)

theorem SessionsKept.drainFlits (h : SessionsKept s t) (port n : Nat) : SessionsKept s (drainFlits port n t) := by
  induction n generalizing t with
  | zero => exact h
  | succ n ih =>
    have popped (w : Waiting) : SessionsKept s (modPort t port (·.pop w)) := h.congr rfl rfl
    simp only [Machine.drainFlits]
    split
    · exact h
    · exact ih (.ite (((popped _).bump ..).emit _) (popped _))

theorem SessionsKept.judgePort (h : SessionsKept s t) (port : Nat) : SessionsKept s (judgePort t port) := by
  unfold Machine.judgePort
  refine .ite (h.setPortState ..) (.ite h (.ite (.drainFlits ?_ ..) ((h.setPortState ..).raise ..)))
  have up := (h.setPortState port lnkUP).raise (pgLNK + port) 1
  exact .ite ((up.setPortState ..).raise ..) up

theorem SessionsKept.coordWrite (h : SessionsKept s t) (plane : Bool) (v : Nat) : SessionsKept s (coordWrite t plane v) := by
  unfold Machine.coordWrite
  refine .ite h (SessionsKept.forEach (.ite (h.setReg ..) (h.setReg ..)) _ fun _ _ hu => ?_)
  exact .ite hu (.judgePort (.setPortState (.ite (hu.raise ..) hu) ..) _)

theorem SessionsKept.sliceWrite (h : SessionsKept s t) (p v : Nat) : SessionsKept s (sliceWrite t p v) :=
  .ite (h.raise ..) ((h.setReg ..).congr rfl rfl)

/-! ### The secure store, calibration and resets (R556, R557, R566, R579). -/

theorem SessionsKept.secEnd (h : SessionsKept s t) (op result : Nat) : SessionsKept s (secEnd t op result) :=
  .ite ((h.setReg ..).raise ..) (((h.setReg ..).bump ..).raise ..)

theorem SessionsKept.secCmd (h : SessionsKept s t) (i v : Nat) : SessionsKept s (secCmd t i v) := by
  unfold Machine.secCmd
  refine .ite (((h.fldSet ..).bump ..).raise ..) (.ite (h.secEnd ..) (.ite ((h.setReg ..).secEnd ..) ?_))
  exact ((h.setReg ..).setReg ..).congr rfl rfl

theorem SessionsKept.setCalStat (h : SessionsKept s t) (busy : Bool) (result : Nat) : SessionsKept s (setCalStat t busy result) := h.setReg ..

theorem SessionsKept.calFail (h : SessionsKept s t) (result : Nat) : SessionsKept s (calFail t result) := (h.setCalStat ..).raise ..

theorem SessionsKept.beginSelfCal (h : SessionsKept s t) : SessionsKept s (beginSelfCal t) := by
  unfold Machine.beginSelfCal
  extract_lets ports untrained
  have hPorts : SessionsKept s ports := h.forEach _ fun _ port hu => hu.retrainPort port
  have hUntrained : SessionsKept s untrained := hPorts.forEach _ fun u d hu => (hu.fldSet (pgHBM + d) oHBM_STAT 12 12 0).congr rfl rfl
  have hOpen : SessionsKept s { untrained with boot := { untrained.boot with calibrated := [] } } := hUntrained.congr rfl rfl
  exact hOpen.setPort ..

theorem SessionsKept.calCmd (h : SessionsKept s t) (i v : Nat) : SessionsKept s (calCmd t i v) := by
  unfold Machine.calCmd
  extract_lets op src taken bad _ _ begun
  have hTaken : SessionsKept s taken := h.setReg ..
  have hBegun : SessionsKept s begun := (hTaken.setCalStat true 0).setCtl _
  split
  · exact (h.fldSet ..).raise ..
  split
  · exact h.calFail _
  split
  · exact hTaken.calFail _
  · exact .ite hBegun.beginSelfCal hBegun

theorem SessionsKept.refuseReset (h : SessionsKept s t) (op result : Nat) : SessionsKept s (refuseReset t op result) := (h.setReg ..).bump ..

theorem SessionsKept.modReset (h : SessionsKept s t) (i v : Nat) : SessionsKept s (modReset t i v).1 := by
  unfold Machine.modReset
  dsimp only
  split
  · exact h.refuseReset ..
  · split
    · exact (h.refuseReset ..).bump ..
    · split
      · exact (h.refuseReset ..).bump ..
      · split
        · exact h.refuseReset ..
        · exact (h.setReg ..).congr rfl rfl

/-! ### The user tables and the tallies (R199, R467). -/

theorem SessionsKept.armUser (h : SessionsKept s t) (p : Nat) : SessionsKept s (armUser t p) := by
  unfold Machine.armUser
  split
  · exact .raiseLead (h.forEach _ fun _ _ hu => hu.fldSet ..) ..
  · extract_lets im
    split
    extract_lets checked armed
    have hChecked : SessionsKept s checked := h.forEach _ fun _ _ hu => hu.setReg ..
    split
    · have hArmed : SessionsKept s armed := hChecked.congr rfl rfl
      have hStaged := hArmed.forEach (partRgns armed p) fun _ r hu => hu.modRgn r fun x => { x with staged := true }
      exact hStaged.congr rfl rfl
    · exact hChecked.raiseLead ..

theorem SessionsKept.sftArm (h : SessionsKept s t) (r v : Nat) : SessionsKept s (sftArm t r v) := by
  unfold Machine.sftArm
  refine .ite h ?_
  split
  · exact h.armUser _
  · exact h

theorem SessionsKept.refuseAcc (h : SessionsKept s t) (st : Nat) : SessionsKept s (refuseAcc t st).1 := h.bump ..

theorem SessionsKept.talAdd (h : SessionsKept s t) (i k v : Nat) : SessionsKept s (talAdd t i k v).1 := by
  unfold Machine.talAdd
  dsimp only
  split
  · exact h.congr (by simp) (by simp)
  · exact h.refuseAcc _

/-! ### A write of any register (R505, R568). -/

/-- What a write comes to by the rule of its page's chapter: the three registers of the common header, then a block type at a time. -/
theorem SessionsKept.applyWrite (h : SessionsKept s t) (i page off old new v : Nat) :
    SessionsKept s (applyWrite t i page off old new v).1 := by
  unfold Machine.applyWrite
  extract_lets code put keep
  have hPut : SessionsKept s (put t).1 := h.setReg ..
  split
  · exact h.setReg ..
  split
  · exact h.setReg ..
  split
  · exact hPut
  clear_value code
  split
  · split
    · exact h.congr rfl rfl
    · exact h
  · split
    · split
      · exact hPut
      · exact h
    split
    · exact hPut
    split
    · exact h
    · exact h.setReg ..
  · split
    · exact hPut
    · exact h
  · split
    · exact h.secCmd ..
    · exact hPut
  · split
    · exact h.calCmd ..
    · exact hPut
  · split
    · exact hPut
    split
    · exact h.schPartWrite ..
    · exact h.schTallyWrite ..
  · exact .ite (h.setReg ..).reSecure (h.setReg ..)
  · split
    · exact h.setReg ..
    · exact h.setReg ..
  · exact .ite ((h.setReg ..).linkRetrain _) (h.setReg ..)
  · split
    · exact h.coordWrite ..
    split
    · exact h.coordWrite ..
    split
    · exact h.sliceWrite ..
    · exact hPut
  · split
    · exact h.sftArm ..
    split
    · split
      · exact hPut
      · exact h
    split
    · split
      · exact hPut
      · exact h
    split
    · exact h.setReg ..
    · exact hPut
  · exact h.setReg ..
  · split
    · exact .ite h (h.congr rfl rfl)
    · exact hPut
  · split
    · exact h.quotaWrite ..
    · exact hPut
  · exact h.talAdd ..
  · split
    · exact h.dbgCtrlWrite ..
    split
    · exact .ite h (h.setReg ..)
    split
    · split
      · exact h.refuseAcc _
      · dsimp only
        exact (h.setReg ..).setHalts _
    split
    · exact h.winWrite _
    · exact hPut
  · exact hPut

theorem SessionsKept.stageWrite (h : SessionsKept s t) (i page off v : Nat) : SessionsKept s (stageWrite t i page off v).1 := by
  unfold Machine.stageWrite
  split
  · split
    · exact h.memWrite ..
    · exact h.refuseAcc _
  · split
    · exact h
    · exact h.refuseAcc _

theorem SessionsKept.writeReg (h : SessionsKept s t) (i addr v : Nat) : SessionsKept s (writeReg t i addr v).1 := by
  unfold Machine.writeReg
  dsimp only
  split
  · exact h.refuseAcc _
  split
  · exact h.stageWrite ..
  split
  · split
    · exact h
    · exact h.refuseAcc _
  split
  · exact h.modReset ..
  split
  · exact h
  split
  · exact h.refuseAcc _
  split
  · exact h.refuseAcc _
  · exact h.applyWrite ..

end
end Sys2Proof.Machine
end

section
/-! PROOFS. A frame that is the next in order: its receipt, its delivery, and an answer that goes out (R491-R498). -/

namespace Sys2Proof.Machine

/-! ### What receiving and sending change. -/

/-- Nothing but what frames to and from a host move is changed: registers of the IVT and HPT pages, the host port, what leaves the module. -/
structure Conveyed (s t : State) : Prop extends SessionsKept s t where
  same : t = { s with regs := t.regs, host := t.host, out := t.out }
  regs : ∀ page off, off < 4096 → page ≠ pgIVT → page ≠ pgHPT → regRaw t page off = regRaw s page off

section
variable {s t u : State}

theorem Conveyed.refl (h : cellWf coldAt s.regs = true) : Conveyed s s := ⟨.refl h, rfl, fun _ _ _ _ _ => rfl⟩

/-- The part of the receipt of a frame that the statements speak of. -/
theorem Conveyed.taken (h : Conveyed s t) : Taken s t :=
  ⟨h.same, h.regs, fun i => ⟨(h.stands i).isOpen, (h.stands i).secure, (h.stands i).keySlot, (h.stands i).maxPayload, (h.stands i).asm⟩⟩

theorem Conveyed.ite {c : Prop} [Decidable c] (h : Conveyed s t) (g : Conveyed s u) : Conveyed s (if c then t else u) := by
  split <;> assumption

theorem Conveyed.forEach {α : Type} {f : State → α → State} (h : Conveyed s t) (l : List α)
    (hf : ∀ u a, Conveyed s u → Conveyed s (f u a)) : Conveyed s (forEach l f t) := by
  unfold Machine.forEach
  induction l generalizing t with
  | nil => exact h
  | cons a l ih => exact ih (hf t a h)

theorem Conveyed.emit (h : Conveyed s t) (o : Out) : Conveyed s (emit t o) :=
  ⟨h.toSessionsKept.emit o, congrArg (Machine.emit · o) h.same, h.regs⟩

theorem Conveyed.setHost (h : Conveyed s t) {x : HostPort} (hx : x.sess = t.host.sess) : Conveyed s { t with host := x } :=
  ⟨h.toSessionsKept.congr rfl hx, congrArg (fun z : State => { z with host := x }) h.same, h.regs⟩

theorem Conveyed.modSess (h : Conveyed s t) (i : Nat) {f : Sess → Sess}
    (hf : ∀ x : Sess, x.Stands (f x) := by exact fun _ => ⟨rfl, rfl, rfl, rfl, rfl, rfl, rfl⟩) : Conveyed s (modSess t i f) :=
  ⟨h.toSessionsKept.modSess i hf, congrArg (fun z : State => { z with host := (Machine.modSess t i f).host }) h.same, h.regs⟩

/-- A counter of the IVT or the HPT page moves. -/
theorem Conveyed.bump (h : Conveyed s t) {page off : Nat} (hp : page = pgIVT ∨ page = pgHPT) (n : Nat) (ho : off < 4096 := by decide) :
    Conveyed s (bump t page off n) := by
  refine ⟨h.toSessionsKept.bump .., congrArg (fun z : State => { z with regs := (Machine.bump t page off n).regs }) h.same, ?_⟩
  intro page' off' ho' h1 h2
  refine (regRaw_bump_ne h.wf (fun e => ?_) n).trans (h.regs page' off' ho' h1 h2)
  obtain ⟨rfl, -⟩ := regAddr_inj ho' ho e
  exact hp.elim h1 h2

theorem Conveyed.pump (h : Conveyed s t) (i : Nat) : Conveyed s (pump t i) := by
  unfold Machine.pump
  refine .ite h (.modSess (Conveyed.forEach h _ fun _ _ hu => ?_) i)
  exact ((hu.bump (.inr rfl) _).bump (.inl rfl) _).emit _

theorem Conveyed.sendAck (h : Conveyed s t) (i : Nat) : Conveyed s (sendAck t i) :=
  .ite (((h.modSess i).bump (.inr rfl) _).emit _) h

theorem Conveyed.countRx (h : Conveyed s t) (i : Nat) : Conveyed s (countRx t i) := .ite ((h.modSess i).sendAck i) (h.modSess i)

theorem Conveyed.sendMsg (h : Conveyed s t) (i type : Nat) (reply : Bool) (msg : Nat) (payload : Bytes) :
    Conveyed s (sendMsg t i type reply msg payload) := .ite ((h.modSess i).pump i) h

theorem Conveyed.takeBuf (h : Conveyed s t) : Conveyed s (takeBuf t) := by
  have sent (xoff : Bool) (p : Nat) {u : State} (hu : Conveyed s u) : Conveyed s (sendPfc xoff u p) := by
    unfold Machine.sendPfc
    extract_lets _ told
    have hTold : Conveyed s told := hu.setHost rfl
    exact (hTold.bump (.inr rfl) _).emit _
  have taken : Conveyed s { t with host := { t.host with buf := t.host.buf.drop 1 } } := h.setHost rfl
  exact .ite (taken.forEach _ fun _ p hu => sent true p hu) (.ite (taken.forEach _ fun _ p hu => sent false p hu) taken)

/-- A frame without SACK bits moves what the host has acknowledged, and frames that wait may go (R494-R497). -/
theorem Conveyed.takeAck (h : Conveyed s t) (i : Nat) {hd : Hdr} (hs : hd.sack = none) : Conveyed s (takeAck t i hd) := by
  unfold Machine.takeAck
  rw [hs]
  exact .pump (.ite (h.modSess i) h) i

end

/-! ### The receipt of a frame (R491-R498). -/

/-- Taking a frame from the buffer leaves every session's record. -/
theorem takeBuf_sess (s : State) : (takeBuf s).host.sess = s.host.sess := by
  have sent (xoff : Bool) (l : List Nat) (t : State) : (forEach l (sendPfc xoff) t).host.sess = t.host.sess := by
    unfold forEach
    induction l generalizing t with
    | nil => rfl
    | cons p l ih => exact (ih _).trans (by simp [sendPfc])
  unfold takeBuf pfcCheck
  split
  · exact sent ..
  · split
    · exact sent ..
    · rfl

/-- A number lies no distance after itself. -/
theorem seqDiff_self (a : Nat) : seqDiff a a = 0 := by unfold seqDiff; omega

/-- `t` is the state in which the frame of header `h` takes effect: its session is open, its frame counts as received, and none waits beyond it. -/
structure Delivering (s : State) (h : Hdr) (t : State) : Prop where
  taken : Taken s t
  wf : cellWf coldAt t.regs = true
  index : h.session < t.host.sess.length
  isOpen : (sess t h.session).isOpen = true
  rx : (sess t h.session).rx = seqAdd h.seq 1
  early : (sess t h.session).early = []
  payload : 1024 ≤ (sess t h.session).maxPayload

theorem Taken.mem {s t : State} (h : Taken s t) : t.mem = s.mem := by rw [h.same]
theorem Taken.fab {s t : State} (h : Taken s t) : t.fab = s.fab := by rw [h.same]
theorem Taken.nv {s t : State} (h : Taken s t) : t.nv = s.nv := by rw [h.same]
theorem Taken.pool {s t : State} (h : Taken s t) : t.pool = s.pool := by rw [h.same]
theorem Taken.sched {s t : State} (h : Taken s t) : t.sched = s.sched := by rw [h.same]
theorem Taken.links {s t : State} (h : Taken s t) : t.links = s.links := by rw [h.same]

theorem Taken.modSess {s t : State} (h : Taken s t) (i : Nat) {f : Sess → Sess}
    (hf : ∀ x : Sess, (f x).isOpen = x.isOpen ∧ (f x).secure = x.secure ∧ (f x).keySlot = x.keySlot ∧ (f x).maxPayload = x.maxPayload
      ∧ (f x).asm = x.asm := by exact fun _ => ⟨rfl, rfl, rfl, rfl, rfl⟩) : Taken s (modSess t i f) := by
  refine ⟨congrArg (fun z : State => { z with host := (Machine.modSess t i f).host }) h.same, h.regs, fun j => ?_⟩
  obtain e | ⟨-, e⟩ := sess_modSess_or t i f j <;> rw [e]
  · exact h.sess j
  · obtain ⟨h1, h2, h3, h4, h5⟩ := h.sess j
    obtain ⟨f1, f2, f3, f4, f5⟩ := hf (Machine.sess t j)
    exact ⟨f1.trans h1, f2.trans h2, f3.trans h3, f4.trans h4, f5.trans h5⟩

/-- Nothing waits beyond a gap, so that no frame is delivered. -/
theorem deliverReady_of_early_nil {s : State} {i : Nat} (h : (sess s i).early = []) (n : Nat) : deliverReady i n s = s := by
  cases n with
  | zero => rfl
  | succ n => simp [deliverReady, h]

/-- A frame has joined those beyond a gap, and left them again as the next in order. -/
def joinAndLeave (s : State) (h : Hdr) (b : FrameBody) : State :=
  modSess (modSess s h.session fun x => { x with early := x.early ++ [(h.seq, h, b)] }) h.session
    fun x => { x with rx := seqAdd x.rx 1, early := x.early.filter (·.1 != h.seq) }

theorem sess_joinAndLeave {s : State} {h : Hdr} (hix : h.session < s.host.sess.length) (b : FrameBody) :
    sess (joinAndLeave s h b) h.session = { sess s h.session with
      rx := seqAdd (sess s h.session).rx 1, early := ((sess s h.session).early ++ [(h.seq, h, b)]).filter (·.1 != h.seq) } := by
  unfold joinAndLeave
  rw [sess_modSess_same (by simpa using hix), sess_modSess_same hix]

/-- The frame that is next is the first to be delivered (R495). -/
theorem deliverReady_joined {s : State} {h : Hdr} (b : FrameBody) (hix : h.session < s.host.sess.length)
    (ho : (sess s h.session).isOpen = true) (hr : (sess s h.session).rx = h.seq) (he : (sess s h.session).early = []) (n : Nat) :
    deliverReady h.session (n + 1) (modSess s h.session fun x => { x with early := x.early ++ [(h.seq, h, b)] })
      = deliverReady h.session n (deliver (joinAndLeave s h b) h.session h b) := by
  simp only [deliverReady, sess_modSess_same hix, ho, hr, he, List.nil_append, List.find?_cons, beq_self_eq_true, joinAndLeave]

/-- A frame in order, once it has been received, takes effect. -/
theorem Conveyed.delivering {s t : State} {h : Hdr} (ht : Conveyed s t) (b : FrameBody) (hix : h.session < t.host.sess.length)
    (ho : (sess s h.session).isOpen = true) (hr : (sess s h.session).rx = h.seq) (he : (sess s h.session).early = [])
    (hp : 1024 ≤ (sess s h.session).maxPayload) : Delivering s h (joinAndLeave t h b) where
  taken := (ht.taken.modSess _).modSess _
  wf := ht.wf
  index := by simpa [joinAndLeave] using hix
  isOpen := by rw [sess_joinAndLeave hix]; exact (ht.stands _).isOpen.trans ho
  rx := by rw [sess_joinAndLeave hix, (ht.stands _).rx, hr]
  early := by simp [sess_joinAndLeave hix, (ht.stands _).early, he]
  payload := by rw [sess_joinAndLeave hix]; exact (ht.stands _).maxPayload.symm ▸ hp

/-- A header looks at the record of its session alone. -/
theorem headerOk_congr {s t : State} {h : Hdr} (e : sess t h.session = sess s h.session) (limit : Nat) :
    headerOk t h limit = headerOk s h limit := by
  simp only [headerOk, e]

/-- A header that is right names one of the 16 sessions, which is open. -/
theorem session_of_headerOk {s : State} {h : Hdr} {limit : Nat} (hh : headerOk s h limit = true) :
    h.session < 16 ∧ (sess s h.session).isOpen = true := by
  simp only [headerOk, Bool.and_eq_true, decide_eq_true_eq] at hh
  obtain ⟨⟨⟨⟨⟨⟨⟨-, -⟩, hix⟩, ho⟩, -⟩, -⟩, -⟩, -⟩ := hh
  exact ⟨hix, ho⟩

/-- A frame that is next in order is received, takes effect once, and is counted for acknowledgement (R494-R498). -/
theorem frameIn_of_inOrder {s : State} {h : Hdr} {b : FrameBody} (hin : InOrder s h b) :
    ∃ s1, Delivering s h s1 ∧ frameIn s h b = (let t := deliverReady h.session 256 (deliver s1 h.session h b)
      if (sess t h.session).isOpen then countRx t h.session else t) := by
  obtain ⟨hix, ho⟩ := session_of_headerOk hin.header
  unfold frameIn
  extract_lets taken i counted acked x joined ready
  have hTaken : sess taken h.session = sess s h.session := sess_congr (takeBuf_sess s) _
  have hhead : headerOk taken h (if (b == .close) = true then 8192 else (sess taken h.session).maxPayload) = true := by
    rw [headerOk_congr hTaken, hTaken]
    simpa using hin.header
  have hAcked : Conveyed s acked := (((Conveyed.refl hin.inv.regs).takeBuf.modSess i).bump (.inl rfl) _).takeAck i hin.sack
  have hix' : h.session < acked.host.sess.length := hAcked.count ▸ hin.inv.sess ▸ hix
  have hx := hAcked.stands i
  have hReady : ready = deliverReady h.session 256 (deliver (joinAndLeave acked h b) h.session h b) :=
    deliverReady_joined b hix' (hx.isOpen.trans ho) (hx.rx.trans hin.seq.symm) (hx.early.trans hin.early) 256
  refine ⟨joinAndLeave acked h b, hAcked.delivering b hix' ho hin.seq.symm hin.early hin.payload, ?_⟩
  have hOpen : x.isOpen = true := hx.isOpen.trans ho
  have hNext : ¬ seqDiff x.rx h.seq ≥ 256 := by
    rw [show x.rx = h.seq from hx.rx.trans hin.seq.symm, seqDiff_self]
    decide
  have hNew : x.early.any (·.1 == h.seq) = false := by
    rw [show x.early = [] from hx.early.trans hin.early]
    rfl
  rw [← hReady]
  simp only [hin.up, hhead, hin.body, hOpen, hNext, hNew, Bool.not_true, Bool.or_self, Bool.false_eq_true, if_false]
  rfl

/-! ### An answer goes out (R492-R494). -/

theorem answers_congr {s t : State} {i type msg : Nat} {payload : Bytes} (h : Answers s i type msg payload)
    (e : (sess t i).sent = (sess s i).sent) : Answers t i type msg payload := by
  unfold Answers
  rwa [e]

/-- What goes on the wire stays to be acknowledged. -/
theorem Answers.pump {s : State} {i type msg : Nat} {payload : Bytes} (h : Answers s i type msg payload) :
    Answers (pump s i) i type msg payload := by
  unfold Machine.pump
  extract_lets x ready sent
  split
  · exact h
  · have hSent : sess sent i = sess s i := sess_congr (by simp [sent]) i
    obtain e | ⟨-, e⟩ := sess_modSess_or sent i _ i
    · exact answers_congr h (by rw [e, hSent])
    · obtain ⟨f, hf, htype, hreply, hmsg, hlast, hpayload⟩ := h
      refine ⟨if inHostWindow (sess s i) f then { f with onWire := true } else f, ?_, ?_⟩
      · rw [e, hSent]
        exact List.mem_map_of_mem hf
      · split <;> exact ⟨htype, hreply, hmsg, hlast, hpayload⟩

theorem sent_modSess (s : State) (i : Nat) {f : Sess → Sess} (hf : ∀ x : Sess, (f x).sent = x.sent) (j : Nat) :
    (sess (modSess s i f) j).sent = (sess s j).sent := by
  obtain e | ⟨-, e⟩ := sess_modSess_or s i f j <;> rw [e]
  exact hf _

theorem sent_sendAck (s : State) (i j : Nat) : (sess (sendAck s i) j).sent = (sess s j).sent := by
  unfold sendAck
  split
  · exact sent_modSess s i (f := fun x => { x with unacked := 0 }) (fun _ => rfl) j
  · rfl

theorem Answers.countRx {s : State} {i type msg : Nat} {payload : Bytes} (h : Answers s i type msg payload) (j : Nat) :
    Answers (countRx s j) i type msg payload := by
  refine answers_congr h ?_
  unfold Machine.countRx
  extract_lets counted
  have hCounted : (sess counted i).sent = (sess s i).sent :=
    sent_modSess s j (f := fun x => { x with unacked := x.unacked + 1 }) (fun _ => rfl) i
  split
  · exact (sent_sendAck ..).trans hCounted
  · exact hCounted

/-- A message that fits in one frame goes out as one. -/
theorem splitPayload_one {m : Nat} {b : Bytes} (h : b.length ≤ m) (fuel off : Nat) : splitPayload m fuel off b = [(off, b, true)] := by
  cases fuel with
  | zero => rfl
  | succ n => rw [splitPayload, if_pos h]

/-- An open session answers with what fits in one frame. -/
theorem answers_sendMsg {s : State} {i : Nat} (hi : i < s.host.sess.length) (ho : (sess s i).isOpen = true) {payload : Bytes}
    (hp : payload.length ≤ (sess s i).maxPayload) (type msg : Nat) : Answers (sendMsg s i type true msg payload) i type msg payload := by
  unfold sendMsg
  extract_lets x parts fs
  have hfs : fs = numberFrames type true msg x.tx [(0, payload, true)] := by
    simp only [fs, parts, x, splitPayload_one hp]
  rw [if_pos ho]
  refine Answers.pump ?_
  unfold Answers
  rw [sess_modSess_same hi, hfs]
  exact ⟨_, List.mem_append_right _ List.mem_cons_self, rfl, rfl, rfl, rfl, rfl⟩

/-- A frame in order whose effect is `r` and an answer to its message: the answer goes out, and besides what frames move the state is `r`. -/
theorem frameIn_answered {s s1 r : State} {h : Hdr} {b : FrameBody} {type : Nat} {payload : Bytes} (hd : Delivering s h s1)
    (hk : SessionsKept s1 r) (hdel : deliver s1 h.session h b = sendMsg r h.session type true h.msg payload) (hl : payload.length ≤ 1024)
    (hf : frameIn s h b = (let t := deliverReady h.session 256 (deliver s1 h.session h b)
      if (sess t h.session).isOpen then countRx t h.session else t)) :
    Conveyed r (frameIn s h b) ∧ Answers (frameIn s h b) h.session type h.msg payload
      ∧ (sess (frameIn s h b) h.session).rx = seqAdd h.seq 1 := by
  have hr := hk.stands h.session
  have hOpen : (sess r h.session).isOpen = true := hr.isOpen.trans hd.isOpen
  have hSent : Conveyed r (sendMsg r h.session type true h.msg payload) := (Conveyed.refl hk.wf).sendMsg ..
  have hStands := hSent.stands h.session
  have ht : frameIn s h b = countRx (sendMsg r h.session type true h.msg payload) h.session := by
    rw [hf, hdel, deliverReady_of_early_nil (hStands.early.trans (hr.early.trans hd.early))]
    exact if_pos (hStands.isOpen.trans hOpen)
  have hConveyed := hSent.countRx h.session
  rw [ht]
  refine ⟨hConveyed, (answers_sendMsg (hk.count ▸ hd.index) hOpen ?_ ..).countRx _, ?_⟩
  · exact hr.maxPayload.symm ▸ hl.trans hd.payload
  · exact (hConveyed.stands _).rx.trans (hr.rx.trans hd.rx)

end Sys2Proof.Machine
end

section
/-! PROOFS. O27: frames that read and write one register, the band registers and the context registers (R112, R318, R504, R505). -/

namespace Sys2Proof.Machine

/-! ### A read of a register (R505). -/

/-- A read of a register refuses it, reads the window, or clears the fields that a read clears. -/
theorem readReg_state (s : State) (i addr : Nat) :
    (readReg s i addr).1 = s ∨ (readReg s i addr).1 = (refuseAcc s 1).1 ∨ (readReg s i addr).1 = (winRead s ⟨[], .clean⟩).1
      ∨ (readReg s i addr).1 = clearRc s (addr / 4096) (addr % 4096) := by
  unfold readReg
  extract_lets page off
  split
  · exact .inr (.inl rfl)
  split
  · exact .inl rfl
  split
  · split
    · exact .inl rfl
    · exact .inr (.inl rfl)
  split
  · exact .inr (.inr (.inl rfl))
  · exact .inr (.inr (.inr rfl))

/-- A read keeps the register file in canonical form, and leaves memory, the requests and the host port. -/
structure RegistersRead (s t : State) : Prop where
  wf : cellWf coldAt t.regs = true
  mem : t.mem = s.mem
  sched : t.sched = s.sched
  host : t.host = s.host

theorem RegistersRead.sessionsKept {s t : State} (h : RegistersRead s t) : SessionsKept s t :=
  ⟨h.wf, congrArg (·.sess.length) h.host, fun i => sess_congr (congrArg HostPort.sess h.host) i ▸ .refl _⟩

theorem clearRc_regsWf {s : State} (h : cellWf coldAt s.regs = true) (page off : Nat) : cellWf coldAt (clearRc s page off).regs = true := by
  unfold clearRc
  split
  · rename_i d _
    induction d.flds generalizing s with
    | nil => exact h
    | cons f fs ih =>
      refine ih ?_
      dsimp only
      split
      · exact fldSet_regsWf h ..
      · exact h
  · exact h

/-- A read through the window is refused, or takes the window on (R587). -/
theorem winRead_registersRead {s : State} (h : cellWf coldAt s.regs = true) : RegistersRead s (winRead s ⟨[], .clean⟩).1 := by
  have next (t : State) (pa : Nat) (ht : RegistersRead s t) : RegistersRead s (winNext t pa) :=
    ⟨bump_regsWf (setReg_regsWf ht.wf ..) .., by simpa using ht.mem, by simpa using ht.sched, by simpa using ht.host⟩
  unfold winRead
  extract_lets pa
  split
  · exact ⟨((SessionsKept.refl h).winRefuse _).wf, by simp, by simp, by simp⟩
  · split
    · split
      · rename_i hp
        exact absurd hp (by decide)
      split
      · exact next (bumpFree s) _ ⟨h, rfl, rfl, rfl⟩
      · exact next s _ ⟨h, rfl, rfl, rfl⟩
    · exact ⟨h, rfl, rfl, rfl⟩

theorem readReg_registersRead {s : State} (h : cellWf coldAt s.regs = true) (i addr : Nat) : RegistersRead s (readReg s i addr).1 := by
  obtain e | e | e | e := readReg_state s i addr <;> rw [e]
  · exact ⟨h, rfl, rfl, rfl⟩
  · exact ⟨bump_regsWf h .., rfl, rfl, rfl⟩
  · exact winRead_registersRead h
  · exact ⟨clearRc_regsWf h .., by simp, by simp, by simp⟩

/-! ### Frames of one register (R504). -/

/-- The payload that answers REG_WRITE of one register. -/
theorem length_writeReply (st : Nat) : (pad8 (natLe 1 st)).length = 8 := by simp [pad8, natLe, zeros, roundUp, ceilDiv]

/-- The payload that answers REG_READ of one register. -/
theorem length_readReply (v st : Nat) : (natLe 8 v ++ pad8 (natLe 1 st)).length = 16 := by
  rw [List.length_append, length_writeReply]
  rfl

/-- REG_READ of one register is answered with its value and status (R504). -/
theorem deliver_regRead_one (s : State) (i : Nat) (h : Hdr) (a : Nat) :
    deliver s i h (.regRead [a])
      = sendMsg (readReg s i a).1 i tRegRead true h.msg (natLe 8 (readReg s i a).2.1 ++ pad8 (natLe 1 (readReg s i a).2.2)) := by
  simp only [deliver, readRegs, List.append_nil]

/-- REG_WRITE of one register is answered with its status, unless a reset follows (R504, R580). -/
theorem deliver_regWrite_one {s : State} {i : Nat} {h : Hdr} {a : Nat} {v : Word}
    (hr : (writeReg s i a v.toNat).1.ctl.rstReq = []) :
    deliver s i h (.regWrite [(a, v)])
      = sendMsg (writeReg s i a v.toNat).1 i tRegWrite true h.msg (pad8 (natLe 1 (writeReg s i a v.toNat).2)) := by
  simp only [deliver, writeRegs, List.append_nil]
  have hc : (sendMsg (writeReg s i a v.toNat).1 i tRegWrite true h.msg (pad8 (natLe 1 (writeReg s i a v.toNat).2))).ctl.rstReq = [] := by
    simpa using hr
  generalize sendMsg (writeReg s i a v.toNat).1 i tRegWrite true h.msg (pad8 (natLe 1 (writeReg s i a v.toNat).2)) = t at hc ⊢
  simp only [runResets, hc, List.any_nil, Bool.false_eq_true, if_false, forEach, List.foldl_nil]
  rw [← hc]

/-- A read of one register is answered with its value and status (R504, R505). -/
theorem regRead_runs {s : State} {h : Hdr} {a : Nat} (hin : InOrder s h (.regRead [a])) :
    Runs (.regRead h [a]) s fun t =>
      (sess t h.session).rx = seqAdd h.seq 1
        ∧ ∃ s1, Taken s s1 ∧ t.mem = s.mem ∧ t.sched = s.sched
          ∧ Answers t h.session tRegRead h.msg
            (natLe 8 (readReg s1 h.session a).2.1 ++ pad8 (natLe 1 (readReg s1 h.session a).2.2)) := by
  obtain ⟨s1, hd, hf⟩ := frameIn_of_inOrder hin
  have hRead := readReg_registersRead hd.wf h.session a
  obtain ⟨ht, ha, hrx⟩ := frameIn_answered hd hRead.sessionsKept (deliver_regRead_one s1 h.session h a)
    (length_readReply .. ▸ by decide) hf
  exact ⟨_, rfl, hrx, s1, hd.taken, ht.taken.mem.trans (hRead.mem.trans hd.taken.mem),
    ht.taken.sched.trans (hRead.sched.trans hd.taken.sched), ha⟩

/-- A write of one register takes effect and is answered with its status (R504, R505). -/
theorem regWrite_runs {s : State} {h : Hdr} {a : Nat} {v : Word} (hin : InOrder s h (.regWrite [(a, v)])) :
    ∃ s1, Taken s s1 ∧ ((writeReg s1 h.session a v.toNat).1.ctl.rstReq = [] →
      Conveyed (writeReg s1 h.session a v.toNat).1 (frameIn s h (.regWrite [(a, v)]))
        ∧ Answers (frameIn s h (.regWrite [(a, v)])) h.session tRegWrite h.msg (pad8 (natLe 1 (writeReg s1 h.session a v.toNat).2))) := by
  obtain ⟨s1, hd, hf⟩ := frameIn_of_inOrder hin
  refine ⟨s1, hd.taken, fun hr => ?_⟩
  have hKept : SessionsKept s1 (writeReg s1 h.session a v.toNat).1 := (SessionsKept.refl hd.wf).writeReg ..
  obtain ⟨ht, ha, -⟩ := frameIn_answered hd hKept (deliver_regWrite_one hr) (length_writeReply _ ▸ by decide) hf
  exact ⟨ht, ha⟩

/-! ### The band registers (R112). -/

/-- A write to a list in any form leaves what another key reads, unless it removes the entry of its own key. -/
theorem cellGet_cellSet_ne_of_listed {α : Type} [DecidableEq α] {k j : Nat} (hj : j ≠ k) {v d : α} (hv : v ≠ d)
    (l : List (Nat × α)) (e : α) : cellGet (cellSet l k v d) j e = cellGet l j e := by
  have hk : (k == j) = false := by simpa using Ne.symm hj
  induction l with
  | nil => simp [cellSet, cellGet, hv, hk]
  | cons y t ih =>
    obtain ⟨k', v'⟩ := y
    simp only [cellSet, hv, if_false]
    split
    · rename_i hlt
      simp only [cellGet, hk, Bool.false_eq_true, if_false]
      split
      · rename_i hjk
        rw [if_neg (by simp; omega), if_pos (by omega)]
      · rfl
    · split
      · rename_i hkk
        subst hkk
        simp only [cellGet, hk, Bool.false_eq_true, if_false]
      · simp only [cellGet, ih]

/-- Counting a refused access leaves every other register, whatever form the register file is in (R505). -/
theorem regRaw_refuseAcc (s : State) (st : Nat) {page off : Nat} (hne : regAddr page off ≠ regAddr pgIVT oIVT_ADDR_ERR) :
    regRaw (refuseAcc s st).1 page off = regRaw s page off := by
  have hcold : coldAt (regAddr pgIVT oIVT_ADDR_ERR) = 0 := by decide +kernel
  have hcount : BitVec.ofNat 64 (Nat.min (regRaw s pgIVT oIVT_ADDR_ERR + 1) (2 ^ 64 - 1)) ≠ 0 := by
    intro h
    have := congrArg BitVec.toNat h
    rw [BitVec.toNat_ofNat, Nat.mod_eq_of_lt (Nat.lt_of_le_of_lt (Nat.min_le_right _ _) (by decide))] at this
    exact absurd this (Nat.ne_of_gt (Nat.lt_min.mpr ⟨Nat.succ_pos _, by decide⟩))
  unfold refuseAcc
  rw [bump_eq, if_neg (by decide)]
  refine congrArg BitVec.toNat ?_
  rw [setReg_regs, hcold]
  exact cellGet_cellSet_ne_of_listed hne hcount ..

theorem regAddr_div {page off : Nat} (h : off < 4096) : regAddr page off / 4096 = page := by unfold regAddr; omega
theorem regAddr_mod {page off : Nat} (h : off < 4096) : regAddr page off % 4096 = off := by unfold regAddr; omega

/-- The fields of a band register: HI and LO, written freely. -/
theorem regDesc_band : ∀ r < 48, ∀ off ∈ [oRGN_CANARY_BAND, oRGN_GRAD_BAND],
    (regDesc (rgnPage r) off).map (fun d => d.flds.map fun f => (f.hi, f.lo, f.acc)) = some [(63, 32, .rw), (31, 0, .rw)] := by
  decide +kernel

/-- The pages of the regions (R576). -/
theorem page_of_region : ∀ r < 48, (dirRow (rgnPage r)).isSome = true ∧ hasHeader (rgnPage r) = true ∧ pageCode (rgnPage r) = 0x0B := by
  decide +kernel

theorem bits_withBits_low (v x : Nat) : bits (withBits v 31 0 x) 63 32 = bits v 63 32 := by
  simp only [bits, withBits, Nat.shiftRight_eq_div_pow, Nat.shiftLeft_eq]
  omega

/-- What a band register accepts depends on LO and HI as they are written (R112). -/
theorem bandOk_mergeFlds {d : RegDesc} (hd : d.flds.map (fun f => (f.hi, f.lo, f.acc)) = [(63, 32, .rw), (31, 0, .rw)]) (old v : Nat) :
    bandOk (mergeFlds d old v) = bandOk v := by
  have hm : mergeFlds d old v = withBits (withBits old 63 32 (bits v 63 32)) 31 0 (bits v 31 0) := by
    obtain ⟨f, fs, hf, ef, hfs⟩ := List.map_eq_cons_iff.mp hd
    obtain ⟨g, gs, hg, eg, hgs⟩ := List.map_eq_cons_iff.mp hfs
    obtain ⟨f1, f2, f3⟩ : f.hi = 63 ∧ f.lo = 32 ∧ f.acc = .rw := by simpa using ef
    obtain ⟨g1, g2, g3⟩ : g.hi = 31 ∧ g.lo = 0 ∧ g.acc = .rw := by simpa using eg
    simp [mergeFlds, hf, hg, List.map_eq_nil_iff.mp hgs, f1, f2, f3, g1, g2, g3]
  have hlo : bits (mergeFlds d old v) 31 0 = bits v 31 0 := by
    rw [hm, bits_withBits_same (by decide)]
    exact Nat.mod_mod ..
  have hhi : bits (mergeFlds d old v) 63 32 = bits v 63 32 := by
    rw [hm, bits_withBits_low, bits_withBits_same (by decide)]
    exact Nat.mod_mod ..
  simp only [bandOk, hlo, hhi]

/-- The band registers lie at offsets of their own in the page. -/
theorem off_band {off : Nat} (ho : off ∈ [oRGN_CANARY_BAND, oRGN_GRAD_BAND]) :
    off < 4096 ∧ off % 8 = 0 ∧ off ≠ oMOD_RESET ∧ off ≠ oIVT_ADDR_ERR := by
  fin_cases ho <;> decide

theorem applyWrite_band {page off : Nat} (hc : pageCode page = 0x0B) (ho : off ∈ [oRGN_CANARY_BAND, oRGN_GRAD_BAND]) (s : State)
    (i old new v : Nat) : applyWrite s i page off old new v = if bandOk new then (setReg s page off new, 0) else (s, 0) := by
  unfold applyWrite
  fin_cases ho <;> simp [hc]

/-- A write of a band register on a region's page with a bound outside its range is refused or ignored (R112, R505). -/
theorem writeReg_band {r off : Nat} (hr : r < 48) (ho : off ∈ [oRGN_CANARY_BAND, oRGN_GRAD_BAND]) (s : State) (i v : Nat)
    (hv : bandOk v = false) :
    (writeReg s i (regAddr (rgnPage r) off) v).1 = (refuseAcc s 2).1 ∨ (writeReg s i (regAddr (rgnPage r) off) v).1 = s := by
  obtain ⟨hrow, hhead, hcode⟩ := page_of_region r hr
  obtain ⟨d, hd, hfl⟩ := Option.map_eq_some_iff.mp (regDesc_band r hr off ho)
  obtain ⟨hlt, h8, hreset, -⟩ := off_band ho
  have haddr : ¬ (regAddr (rgnPage r) off % 8 != 0 || decide (regAddr (rgnPage r) off ≥ 0x300000) || (dirRow (rgnPage r)).isNone) = true := by
    have h1 : regAddr (rgnPage r) off % 8 = 0 := by simp only [regAddr]; omega
    have h2 : ¬ regAddr (rgnPage r) off ≥ 0x300000 := by simp only [regAddr, rgnPage, pgRGN]; omega
    simp [h1, h2, hrow, ← Option.isSome_iff_ne_none]
  unfold writeReg
  simp only [regAddr_div hlt, regAddr_mod hlt]
  rw [if_neg haddr, if_neg (by simp [hhead]), hd]
  dsimp only
  rw [if_neg (by simp [hreset])]
  split
  · exact .inr rfl
  split
  · exact .inl rfl
  split
  · exact .inl rfl
  · rw [applyWrite_band hcode ho, bandOk_mergeFlds hfl, hv]
    exact .inr rfl

/-- A bound outside its range keeps a band register from taking the value (R112). -/
theorem regRaw_writeReg_band {r off : Nat} (hr : r < 48) (ho : off ∈ [oRGN_CANARY_BAND, oRGN_GRAD_BAND]) (s : State) (i v : Nat)
    (hv : bandOk v = false) : regRaw (writeReg s i (regAddr (rgnPage r) off) v).1 (rgnPage r) off = regRaw s (rgnPage r) off := by
  obtain ⟨hlt, -, -, herr⟩ := off_band ho
  obtain e | e := writeReg_band hr ho s i v hv <;> rw [e]
  exact regRaw_refuseAcc s 2 (regAddr_ne_of_off hlt (by decide) herr)

/-- A value with a bound outside its range is not accepted (R112). -/
theorem bandOk_eq_false {v : Nat} {lo hi : Num} (hlo : lo = f32 (BitVec.ofNat 32 (bits v 31 0))) (hhi : hi = f32 (BitVec.ofNat 32 (bits v 63 32)))
    (h : (lo.finite && Num.zero.lt lo && lo.le Num.one) = false ∨ (hi.finite && Num.one.le hi) = false) : bandOk v = false := by
  subst hlo hhi
  rw [Bool.eq_false_iff]
  intro hok
  simp only [bandOk, Bool.and_eq_true] at hok
  obtain ⟨⟨⟨⟨h1, h2⟩, h3⟩, h4⟩, h5⟩ := hok
  simp [h1, h2, h3, h4, h5] at h

/-! ### The context registers (R318). -/

/-- POL_CTX_INFO and POL_CTX_LEN show nothing of a context whose partition the session does not own (R318). -/
theorem view_ctx_of_not_owned {s : State} {i off : Nat} (ho : off ∈ [oPOL_CTX_INFO, oPOL_CTX_LEN])
    (h : ∀ c, ctx? s (regRaw s pgPOL oPOL_CTX_SEL) = some c → sessOwns s i c.owner = false) : view s i pgPOL off = 0 := by
  have hcode : pageCode pgPOL = 0x0E := by decide +kernel
  have hview : view s i pgPOL off = viewPol s i off := by
    unfold view
    fin_cases ho <;> simp [hcode, oPOL_CTX_INFO, oPOL_CTX_LEN]
  rw [hview]
  unfold viewPol
  cases hc : ctx? s (regRaw s pgPOL oPOL_CTX_SEL) with
  | none => fin_cases ho <;> rfl
  | some c => fin_cases ho <;> simp [h c hc, oPOL_USE, oPOL_CTX_INFO, oPOL_CTX_LEN]

/-- A read of either is answered with what the register shows (R505). -/
theorem readReg_ctx {off : Nat} (ho : off ∈ [oPOL_CTX_INFO, oPOL_CTX_LEN]) (s : State) (i : Nat) :
    (readReg s i (regAddr pgPOL off)).2.1 = view s i pgPOL off := by
  have hhead : hasHeader pgPOL = true := by decide +kernel
  have hlisted : ∀ off ∈ [oPOL_CTX_INFO, oPOL_CTX_LEN], (regDesc pgPOL off).isNone = false ∧ off < 4096
      ∧ (regAddr pgPOL off % 8 != 0 || decide (regAddr pgPOL off ≥ 0x300000) || (dirRow pgPOL).isNone) = false := by decide +kernel
  obtain ⟨hdesc, hlt, haddr⟩ := hlisted off ho
  unfold readReg
  simp only [regAddr_div hlt, regAddr_mod hlt, haddr, hhead, hdesc]
  rfl

/-- Settles O27: a frame of one register in order is received, read or written, and answered; the bands and the context registers by what a write
of the one comes to and what the other shows. -/
theorem registerFramesRun : Obligations.RegisterFramesRun := by
  unfold Obligations.RegisterFramesRun
  refine ⟨fun s h a hin => regRead_runs hin, fun s h a v hin => ?_, ?_, fun s i off ho h => ?_⟩
  · obtain ⟨s1, ht, hw⟩ := regWrite_runs hin
    refine ⟨_, rfl, s1, ht, fun hr _ => ?_⟩
    obtain ⟨hc, ha⟩ := hw hr
    have hc' := hc.taken
    exact ⟨hc'.mem, hc'.fab, hc'.nv, hc'.pool, hc'.sched, hc'.links, hc.regs, ha⟩
  · intro s i r off v hr ho lo hi hb
    exact regRaw_writeReg_band hr ho s i v.toNat (bandOk_eq_false rfl rfl hb)
  · exact (readReg_ctx ho s i).trans (view_ctx_of_not_owned ho h)

end Sys2Proof.Machine
end

section
/-! PROOFS. What GROUP_TAKE counts in RGN_TILES, and a state in which that is more than the tiles of the group before (R142). -/

namespace Sys2Proof.Machine

/-! ### The counters that a cluster moves when it takes a group. -/

theorem countGroup_regsWf {s : State} (h : cellWf coldAt s.regs = true) (r : Nat) (g : Group) :
    cellWf coldAt (countGroup s r g).regs = true := by
  have h' := bump_regsWf (bump_regsWf h (rgnPage r) oRGN_TILES g.tiles) (rgnPage r) oRGN_EDGE_TILES g.edges
  unfold countGroup
  dsimp only
  split
  · exact bump_regsWf h' ..
  · exact h'

/-- A finished group enters RGN_TILES with its tiles. -/
theorem regRaw_tiles_countGroup {s : State} (h : cellWf coldAt s.regs = true) (r : Nat) (g : Group) :
    regRaw (countGroup s r g) (rgnPage r) oRGN_TILES = Nat.min (regRaw s (rgnPage r) oRGN_TILES + g.tiles) (2 ^ 64 - 1) := by
  have hw := bump_regsWf h (rgnPage r) oRGN_TILES g.tiles
  have hedge := regRaw_bump_ne hw (regAddr_ne_of_off (page := rgnPage r) (off := oRGN_TILES) (page' := rgnPage r) (off' := oRGN_EDGE_TILES)) g.edges
  have hboth := hedge.trans (regRaw_bump_same h (rgnPage r) oRGN_TILES g.tiles)
  unfold countGroup
  dsimp only
  split
  · exact (regRaw_bump_ne (bump_regsWf hw ..) regAddr_ne_of_off _).trans hboth
  · exact hboth

/-- DIE_STEALS and RGN_TILES have one offset, and the page that `countTake` forms for die 16 + r is the page of region r. -/
theorem steals_is_tiles_iff (d r : Nat) : regAddr (rgnPage r) oRGN_TILES = regAddr (pgDIE + d) oDIE_STEALS ↔ d = 16 + r := by
  simp only [regAddr, rgnPage, pgRGN, pgDIE, oRGN_TILES, oDIE_STEALS]
  omega

/-- Taking a group leaves the region's RGN_TILES as it was, unless the group names die 16 + r: then the steal is counted there. The module has dies
0 to 11 only, but neither `Inv` nor `nextGroup` asks that of a queued group. -/
theorem regRaw_tiles_countTake {s : State} (h : cellWf coldAt s.regs = true) (r : Nat) (g : Group) :
    regRaw (countTake s r g) (rgnPage r) oRGN_TILES
      = if g.die = 16 + r then Nat.min (regRaw s (rgnPage r) oRGN_TILES + 1) (2 ^ 64 - 1) else regRaw s (rgnPage r) oRGN_TILES := by
  unfold countTake
  by_cases hd : g.die = 16 + r
  · have hforeign : (dieOf r != g.die) = true := by simp only [dieOf, bne_iff_ne]; omega
    have hpage : pgDIE + g.die = rgnPage r := by simp only [rgnPage, pgRGN, pgDIE]; omega
    rw [if_pos hforeign, if_pos hd, hpage]
    exact regRaw_bump_same h (rgnPage r) oRGN_TILES 1
  · rw [if_neg hd]
    split
    · exact regRaw_bump_ne h (fun e => hd ((steals_is_tiles_iff g.die r).mp e)) 1
    · rfl

/-- The registers after GROUP_TAKE of a cluster that has held a group are those that the counts of the two groups leave. -/
theorem regs_groupTake {s t : State} {c : Nat} {g o : Group} (hc : c < 576) (hs : serving s = true) (hw : rgnWorks s (clusterRgn c) = true)
    (hr : clusterReady s c = true) (ho : (s.fab.held.find? (·.cluster == c)).map (·.group) = some o) (hn : nextGroup s c (some o) = some g)
    (ht : exec (.groupTake c) s = .next t) : t.regs = (countTake (countGroup s (clusterRgn c) o) (clusterRgn c) g).regs := by
  have hgo : (decide (c ≥ 576) || !serving s || !rgnWorks s (clusterRgn c) || !clusterReady s c) = false := by
    simp [hs, hw, hr, Nat.not_le.mpr hc]
  change execGroupTake c s = .next t at ht
  simp only [execGroupTake, hgo, ho, hn] at ht
  cases ht
  simp

/-- RGN_TILES after GROUP_TAKE: the tiles of the group before, and with them a steal from die 16 + r. -/
theorem regRaw_tiles_groupTake {s t : State} {c : Nat} {g o : Group} (h : Inv s) (hc : c < 576) (hs : serving s = true)
    (hw : rgnWorks s (clusterRgn c) = true) (hr : clusterReady s c = true)
    (ho : (s.fab.held.find? (·.cluster == c)).map (·.group) = some o) (hn : nextGroup s c (some o) = some g)
    (ht : exec (.groupTake c) s = .next t) :
    let before := Nat.min (regRaw s (rgnPage (clusterRgn c)) oRGN_TILES + o.tiles) (2 ^ 64 - 1)
    regRaw t (rgnPage (clusterRgn c)) oRGN_TILES = if g.die = 16 + clusterRgn c then Nat.min (before + 1) (2 ^ 64 - 1) else before := by
  rw [regRaw_congr (regs_groupTake hc hs hw hr ho hn ht), regRaw_tiles_countTake (countGroup_regsWf h.regs ..),
    regRaw_tiles_countGroup h.regs]

/-! ### The counterexample. -/

/-- A group of one tile, done, and one that names die 16. -/
def groupDone : Group := { req := 0, mop := 0, number := 0, die := 0, tiles := 1, edges := 0, strip := [] }
def groupOfDie16 : Group := { groupDone with number := 1, die := 16 }

/-- Region 0 runs the one macro-op of a request of partition 0; its cluster 0 is done with a group, and the queue holds the one of die 16. -/
def stealsFromDie16 : State :=
  { boot := { phase := .running }
    fab := { rgns := { owner := some 0, powered := true } :: List.replicate 47 {}
             queue := [groupOfDie16], held := [{ cluster := 0, group := groupDone }] }
    sched := { reqs := [{ id := 0, part := 0, sess := 0, tag := 0, list := 0, nops := 1, st := .admitted, mops := [{ idx := 0, stage := .granted }] }] } }

theorem inv_stealsFromDie16 : Inv stealsFromDie16 :=
  ⟨rfl, rfl, rfl, by decide +kernel, by decide +kernel, by decide +kernel, by decide +kernel⟩

/-- Cluster 0 may take the group of die 16. -/
theorem stealsFromDie16_takes :
    serving stealsFromDie16 = true ∧ rgnWorks stealsFromDie16 (clusterRgn 0) = true ∧ clusterReady stealsFromDie16 0 = true
      ∧ (stealsFromDie16.fab.held.find? (·.cluster == 0)).map (·.group) = some groupDone
      ∧ nextGroup stealsFromDie16 0 (some groupDone) = some groupOfDie16 := by decide +kernel

theorem regRaw_tiles_stealsFromDie16 : regRaw stealsFromDie16 (rgnPage (clusterRgn 0)) oRGN_TILES = 0 := by decide +kernel

/-- Refutes O57 by its GROUP_TAKE clause, which says that RGN_TILES grows by the tiles of the group before alone, whatever die the group taken
names. With the group of die 16 in the queue, the steal of R142 is counted on page 0x30 + 16, which is that of region 0, at the offset of RGN_TILES:
the counter grows by 2 where the clause says 1. The clause lacks a bound on the die: by `regRaw_tiles_groupTake` what it says of the counter holds
of every group whose die is below 12. -/
theorem not_macroOpLifeRuns : ¬ Obligations.MacroOpLifeRuns := by
  unfold Obligations.MacroOpLifeRuns
  rintro ⟨-, -, -, hgroup, -⟩
  obtain ⟨hserving, hworks, hready, hlast, hnext⟩ := stealsFromDie16_takes
  obtain ⟨t, hrun, -, -, htiles, -⟩ := hgroup stealsFromDie16 0 groupOfDie16 inv_stealsFromDie16 (by decide) hserving hworks hready (hlast ▸ hnext)
  have hclaim := htiles groupDone hlast
  have hcounted := regRaw_tiles_groupTake inv_stealsFromDie16 (by decide) hserving hworks hready hlast hnext hrun
  rw [regRaw_tiles_stealsFromDie16] at hclaim hcounted
  exact absurd (hclaim.symm.trans hcounted) (by decide)

end Sys2Proof.Machine
end

section
/-! PROOFS. A macro-op whose work comes to a state: what it is found as, where it stands once it has worked, and the registers that are not counted
on with it (R117, R135, R142). -/

namespace Sys2Proof.Machine

/-! ### A macro-op that can do its work. -/

/-- The macro-op that a reference names is that of a request under its own number, which holds the macro-op's record under its own index. -/
theorem run?_found {s : State} {ref : MopRef} {x : Run} (h : run? s ref = some x) :
    req? s x.r.id = some x.r ∧ mopSt? x.r x.i = some x.st := by
  unfold run? at h
  split at h
  next r hr =>
    split at h
    next =>
      obtain ⟨st, hst, rfl⟩ := Option.map_eq_some_iff.mp h
      have hid : r.id = ref.req := by simpa using List.find?_some hr
      exact ⟨hid ▸ hr, hst⟩
    next => cases h
  next => cases h

/-- One that is ready is the one that the reference names. -/
theorem run?_of_ready? {s : State} {ref : MopRef} {op : Nat} {sub : Nat → Bool} {x : Run} (h : ready? s ref op sub = some x) :
    run? s ref = some x := by
  unfold ready? at h
  split at h
  · cases h
  split at h
  next y hy =>
    split at h
    next => exact hy.trans h
    next => cases h
  next => cases h

/-- Work that comes to a state comes to it whatever format controls its regions have latched. -/
theorem workIn_state {f : State → Run → Work} {s t : State} {x : Run} (h : f s x = .state t) : workIn f s x = .state t := by
  simp only [workIn, h]

/-- A command whose work comes to a state answers it, with the macro-op marked as worked. -/
theorem runs_of_work_state {c : Instr} {ref : MopRef} {op : Nat} {sub : Nat → Bool} {f : State → Run → Work} {s t : State} {x : Run}
    {P : State → Prop} (hc : exec c s = work ref op sub f s) (hx : ready? s ref op sub = some x) (hf : f s x = .state t)
    (hP : P (markWorked t x)) : Runs c s P := by
  refine ⟨markWorked t x, ?_, hP⟩
  rw [hc, work, hx]
  exact congrArg Host.Outcome.next ((congrArg (finish s x) (workIn_state hf)).trans (finish_state s t x))

/-! ### Where it stands once it has worked. -/

/-- The record of a macro-op that has worked. -/
def MopSt.worked (st : MopSt) : MopSt := { st with stage := .worked, memWait := none }

/-- Once the work is done the macro-op's record says so, and nothing else of the requests changes. -/
theorem markWorked_sched (s : State) (x : Run) : (markWorked s x).sched = (modMop s x.r.id x.i MopSt.worked).sched := by
  unfold markWorked
  extract_lets t1 t2 t3
  have h2 : t2.sched = s.sched := by
    unfold t2
    split <;> simp [t1]
  have h3 : t3.sched = (modMop s x.r.id x.i MopSt.worked).sched := by
    simp only [t3, modMop, modReq, h2]
    rfl
  split
  · exact (by simp : (latchRgns t3 x.p).sched = t3.sched).trans h3
  · exact h3

/-- An update of a macro-op's record as an update of the request that holds it. -/
theorem req?_modMop_same (s : State) (id i : Nat) (f : MopSt → MopSt) :
    req? (modMop s id i f) id = (req? s id).map fun r => { r with mops := updFirst (·.idx == i) f r.mops } :=
  req?_modReq_same s id fun _ => rfl

/-- A macro-op whose record its request still holds has worked once it is marked so. -/
theorem worked_markWorked {s : State} {x : Run} (hr : req? s x.r.id = some x.r) (hm : mopSt? x.r x.i = some x.st) :
    Worked (markWorked s x) x := by
  have hreq := (req?_congr (congrArg Sched.reqs (markWorked_sched s x)) x.r.id).trans (req?_modMop_same s x.r.id x.i MopSt.worked)
  have hmop := find?_updFirst_same (p := fun st : MopSt => st.idx == x.i) (f := MopSt.worked) (fun _ h => h) x.r.mops
  rw [mopSt?] at hm
  simp only [Worked, stageOf, hreq, hr, Option.map_some, Option.bind_some, mopSt?, hmop, hm, MopSt.worked]

/-- One that was ready, and whose work leaves the requests as they are, has worked once it is marked so. -/
theorem worked_of_ready {s t : State} {ref : MopRef} {op : Nat} {sub : Nat → Bool} {x : Run}
    (hx : ready? s ref op sub = some x) (ht : t.sched = s.sched) : Worked (markWorked t x) x := by
  obtain ⟨hreq, hmop⟩ := run?_found (run?_of_ready? hx)
  exact worked_markWorked ((req?_congr (congrArg Sched.reqs ht) _).trans hreq) hmop

/-! ### Registers that are not counted on. -/

/-- The offsets of the counters that groups move when they are taken and when they are done (R142). -/
def groupOffs : List Nat := [oRGN_TILES, oRGN_EDGE_TILES, oRGN_TILES_FOREIGN, oDIE_STEALS]

/-- The registers are in canonical form, and one of them reads as before. -/
structure RegKept (page off : Nat) (s t : State) : Prop where
  wf : cellWf coldAt t.regs = true
  val : regRaw t page off = regRaw s page off

section
variable {page off : Nat} {s t u : State}

theorem RegKept.refl (h : cellWf coldAt s.regs = true) : RegKept page off s s := ⟨h, rfl⟩

theorem RegKept.congr (h : RegKept page off s t) (e : u.regs = t.regs) : RegKept page off s u :=
  ⟨e ▸ h.wf, (regRaw_congr e ..).trans h.val⟩

theorem RegKept.forEach {α : Type} {f : State → α → State} (h : RegKept page off s t) (l : List α)
    (hf : ∀ u, ∀ a ∈ l, RegKept page off s u → RegKept page off s (f u a)) : RegKept page off s (forEach l f t) := by
  unfold Machine.forEach
  induction l generalizing t with
  | nil => exact h
  | cons a l ih => exact ih (hf t a List.mem_cons_self h) fun u b hb => hf u b (List.mem_cons_of_mem a hb)

theorem RegKept.bump (h : RegKept page off s t) {page' off' : Nat} (hne : regAddr page off ≠ regAddr page' off') (n : Nat) :
    RegKept page off s (bump t page' off' n) :=
  ⟨bump_regsWf h.wf .., (regRaw_bump_ne h.wf hne n).trans h.val⟩

/-- A counter of groups is another register than one at any other offset. -/
theorem regAddr_ne_of_groupOffs (ho : OnPage off) (hg : off ∉ groupOffs) {off' : Nat} (h : off' ∈ groupOffs) (page' : Nat) :
    regAddr page off ≠ regAddr page' off' := by
  have hon : ∀ o ∈ groupOffs, OnPage o := by decide
  exact regAddr_ne_of_off ho (hon off' h) fun e => hg (e ▸ h)

theorem RegKept.countGroup (h : RegKept page off s t) (ho : OnPage off) (hg : off ∉ groupOffs) (r : Nat) (g : Group) :
    RegKept page off s (countGroup t r g) := by
  have ne {off' : Nat} (hm : off' ∈ groupOffs) := regAddr_ne_of_groupOffs (page := page) ho hg hm (rgnPage r)
  have htiles := (h.bump (ne (off' := oRGN_TILES) (by decide)) g.tiles).bump (ne (off' := oRGN_EDGE_TILES) (by decide)) g.edges
  unfold Machine.countGroup
  dsimp only
  split
  · exact htiles.bump (ne (by decide)) g.tiles
  · exact htiles

theorem RegKept.countTake (h : RegKept page off s t) (ho : OnPage off) (hg : off ∉ groupOffs) (r : Nat) (g : Group) :
    RegKept page off s (countTake t r g) := by
  unfold Machine.countTake
  split
  · exact h.bump (regAddr_ne_of_groupOffs ho hg (by decide) _) 1
  · exact h

theorem RegKept.drainGroups (h : RegKept page off s t) (ho : OnPage off) (hg : off ∉ groupOffs) (x : Run) :
    RegKept page off s (drainGroups t x) := by
  unfold Machine.drainGroups
  extract_lets mine t1 t2
  have h1 : RegKept page off s t1 := h.forEach _ fun _ _ _ hu => hu.countGroup ho hg ..
  have h2 : RegKept page off s t2 := h1.forEach _ fun _ _ _ hu => (hu.countTake ho hg ..).countGroup ho hg ..
  exact h2.congr rfl

theorem RegKept.bumpMiss (h : RegKept page off s t) {c : Nat × Nat} (hne : regAddr page off ≠ regAddr c.1 c.2)
    (hw : regAddr page off ≠ regAddr pgPOL oPOL_WALKS) (n : Nat) : RegKept page off s (bumpMiss t c.1 c.2 n) := by
  unfold Machine.bumpMiss
  dsimp only
  split
  · exact (h.bump hne n).bump hw n
  · exact h.bump hne n

/-- Open amounts on counters (log 8) leave every register that is neither one of them nor POL_WALKS. -/
theorem RegKept.bumpOpen (h : RegKept page off s t) {cs : List (Nat × Nat)} (hne : ∀ c ∈ cs, regAddr page off ≠ regAddr c.1 c.2)
    (hw : regAddr page off ≠ regAddr pgPOL oPOL_WALKS) : RegKept page off s (bumpOpen cs t) := by
  have hcounted := h.forEach ((List.range cs.length).zip cs) (f := fun u q => Machine.bumpMiss u q.2.1 q.2.2 (takeFree t (16 + q.1)))
    fun u q hq hu => hu.bumpMiss (hne q.2 (List.of_mem_zip hq).2) hw _
  exact hcounted.congr rfl

/-- What is counted when a macro-op's work is done leaves every other register: the counters of its groups, those of traffic, and those of placement
(R142, log 8). -/
theorem RegKept.markWorked (h : RegKept page off s t) (ho : OnPage off) (hg : off ∉ groupOffs) (x : Run)
    (htraffic : ∀ c ∈ trafficCounters, regAddr page off ≠ regAddr c.1 c.2)
    (hplace : ∀ u, ∀ c ∈ placeCounters u x, regAddr page off ≠ regAddr c.1 c.2)
    (hw : regAddr page off ≠ regAddr pgPOL oPOL_WALKS) : RegKept page off s (markWorked t x) := by
  unfold Machine.markWorked
  extract_lets t1 t2 t3
  have h1 : RegKept page off s t1 := (h.drainGroups ho hg x).bumpOpen (fun c hc => by
    rcases List.mem_append.mp hc with hc | hc
    · exact htraffic c hc
    · split at hc
      · exact hplace _ c hc
      · cases hc) hw
  have h2 : RegKept page off s t2 := by
    unfold t2
    split
    · exact h1.forEach _ fun _ _ _ hu => hu.congr rfl
    · exact h1
  have h3 : RegKept page off s t3 := h2.congr rfl
  split
  · exact h3.congr (by simp)
  · exact h3

end

/-- The offsets of the counters that placement decides (R205, R243, log 8). -/
def placeOffs : List Nat :=
  [oRGN_BANK_WAITS, oRGN_WW_CONFLICTS, oRGN_ATOMICS, oRGN_ECC_CORR, oRGN_CATCH_HITS, oRGN_CATCH_MISSES, oRGN_SFT_ECC, oRGN_VEC_BEATS,
    oRGN_VEC_WAITS, oRGN_ARRAY_CYCLES]

/-- The counters of placement stand on the pages of regions. -/
theorem mem_placeCounters {s : State} {x : Run} {c : Nat × Nat} (h : c ∈ placeCounters s x) : ∃ r < 48, c.1 = rgnPage r ∧ OnPage c.2 := by
  simp only [placeCounters, List.mem_flatten, List.mem_map] at h
  obtain ⟨_, ⟨r, hr, rfl⟩, hc⟩ := h
  obtain ⟨o, ho, rfl⟩ := List.mem_map.mp hc
  refine ⟨r, ?_, rfl, ?_⟩
  · simp only [runRgns, partRgns, List.mem_filter, List.mem_range] at hr
    exact hr.1.1
  · have hon : ∀ o ∈ placeOffs, OnPage o := by decide
    refine hon o ?_
    simp only [List.mem_append, List.mem_cons, List.not_mem_nil, or_false, List.mem_ite_nil_left, List.mem_ite_nil_right] at ho
    simp only [placeOffs, List.mem_cons, List.not_mem_nil, or_false]
    tauto

end Sys2Proof.Machine
end

section
/-! PROOFS. The commands of CTX: the contexts and the translation entries after each (R283-R288, R604). -/

namespace Sys2Proof.Machine

/-! ### Dropping entries (R268). -/

theorem dropPte_ptes (s : State) (d : Pte) :
    (dropPte s d).pool.ptes = s.pool.ptes.filter fun e => !(e.space == d.space && e.va == d.va) := by
  unfold dropPte freeFrame
  split <;> rfl

/-- An entry is gone if it stands for the page of one that is dropped. -/
theorem mem_forEach_dropPte {l : List Pte} {s : State} {e : Pte} :
    e ∈ (forEach l dropPte s).pool.ptes ↔ e ∈ s.pool.ptes ∧ ∀ d ∈ l, ¬(e.space = d.space ∧ e.va = d.va) := by
  unfold forEach
  induction l generalizing s with
  | nil => simp
  | cons d l ih =>
    have hone : e ∈ (dropPte s d).pool.ptes ↔ e ∈ s.pool.ptes ∧ ¬(e.space = d.space ∧ e.va = d.va) := by
      simp only [dropPte_ptes, List.mem_filter, Bool.not_eq_true', Bool.and_eq_false_iff, beq_eq_false_iff_ne, not_and_or]
    rw [List.foldl_cons, ih, hone, List.forall_mem_cons, and_assoc]

/-- Where the page alone decides, exactly the entries that satisfy the condition are dropped. -/
theorem mem_dropPtes {s : State} {p : Pte → Bool} (hp : ∀ d e : Pte, e.space = d.space → e.va = d.va → p e = p d) {e : Pte} :
    e ∈ (dropPtes s p).pool.ptes ↔ e ∈ s.pool.ptes ∧ p e = false := by
  rw [dropPtes, mem_forEach_dropPte]
  refine and_congr_right fun he => ⟨fun h => ?_, fun h d hd hpage => ?_⟩
  · rw [Bool.eq_false_iff]
    exact fun hpe => h e (List.mem_filter.mpr ⟨he, hpe⟩) ⟨rfl, rfl⟩
  · have hpd := (List.mem_filter.mp hd).2
    rw [← hp d e hpage.1 hpage.2, h] at hpd
    cases hpd

/-- Closing a context drops the entries of its space and no other (R287). -/
theorem mem_closeCtx_ptes {s : State} {i : Nat} {e : Pte} :
    e ∈ (closeCtx s i).pool.ptes ↔ e ∈ s.pool.ptes ∧ e.space ≠ .ctx i := by
  have h := mem_dropPtes (s := s) (p := fun e => e.space == .ctx i) (fun _ _ hs _ => by rw [hs]) (e := e)
  simpa [closeCtx] using h

/-! ### One context. -/

theorem index_of_ctx? {s : State} {i : Nat} {c : Ctx} (h : ctx? s i = some c) : c.index = i := by simpa using List.find?_some h

/-- The context found under an index, where the contexts are those of an update of it that keeps the index. -/
theorem ctx?_of_modCtx {s t : State} {i : Nat} {c : Ctx} (hc : ctx? s i = some c) (f : Ctx → Ctx) (hf : ∀ c, c.index = i → (f c).index = i)
    (ht : t.ctxs = (modCtx s i f).ctxs) : ctx? t i = some (f c) := by
  have hfound := find?_updFirst_same (p := fun c : Ctx => c.index == i) (f := f) (fun c h => by simpa using hf c (by simpa using h)) s.ctxs
  rw [ctx?] at hc ⊢
  rw [ht, modCtx_ctxs, hfound, hc, Option.map_some]

/-! ### What each command's work comes to, where its conditions hold. -/

/-- The context that a CTX names is open, it is the partition's, and no macro-op that has read a lengths-table entry of it is to be waited for
(R288, R604). -/
structure HoldsCtx (s : State) (x : Run) (c : Ctx) : Prop where
  idle : ctxBusy s x.p (ctxParam x.m).ctx = false
  found : ctx? s (ctxParam x.m).ctx = some c
  owner : c.owner = x.p

theorem HoldsCtx.index {s : State} {x : Run} {c : Ctx} (hc : HoldsCtx s x c) : (ctxParam x.m).ctx = c.index := (index_of_ctx? hc.found).symm

theorem HoldsCtx.found_index {s : State} {x : Run} {c : Ctx} (hc : HoldsCtx s x c) : ctx? s c.index = some c := hc.index ▸ hc.found

/-- On such a context a command goes on to its own checks (R288, R604). -/
theorem withCtx_of_open {s : State} {x : Run} {c : Ctx} (hc : HoldsCtx s x c) (f : Ctx → Work) : withCtx s x f = f c := by
  simp [withCtx, hc.idle, hc.found, hc.owner]

theorem ctxOpenWork_of_closed {s : State} {x : Run} (hb : ctxBusy s x.p (ctxParam x.m).ctx = false)
    (hc : ctx? s (ctxParam x.m).ctx = none) (hend : (ctxParam x.m).base + (ctxParam x.m).value ≤ 2 ^ 24)
    (hext : ((ctxParam x.m).open x.p).extent ≤ 2 ^ 43) :
    ctxOpenWork s x = .state (bump { s with ctxs := s.ctxs ++ [(ctxParam x.m).open x.p] } pgPOL oPOL_CTX_OPENS 1) := by
  have hfits : ¬((ctxParam x.m).base + (ctxParam x.m).value > 2 ^ 24 || ((ctxParam x.m).open x.p).extent > 2 ^ 43) = true := by
    simp only [Bool.or_eq_true, decide_eq_true_eq]
    omega
  simp only [ctxOpenWork, hb, hc, Bool.false_eq_true, if_false, if_neg hfits]

/-- The context that RESIZE leaves (R285, log 88). -/
def Ctx.resized (c : Ctx) (n : Nat) : Ctx := { c with maxlen := n, filled := Nat.min c.filled n }

@[simp] theorem Ctx.resized_index (c : Ctx) (n : Nat) : (c.resized n).index = c.index := rfl

/-- The entries that RESIZE unmaps: those of pages beyond the context's extent (R285). -/
def Ctx.beyond (c : Ctx) (e : Pte) : Bool := e.space == .ctx c.index && c.extent ≤ e.va

theorem Ctx.beyond_eq_false {c : Ctx} {e : Pte} : c.beyond e = false ↔ e.space ≠ .ctx c.index ∨ e.va < c.extent := by
  simp only [Ctx.beyond, Bool.and_eq_false_iff, beq_eq_false_iff_ne, decide_eq_false_iff_not, Nat.not_le]

/-- The fields of RESIZE that must equal the context's do, and its new end and extent fit (R604). -/
structure CtxParam.Resizes (q : CtxParam) (c : Ctx) : Prop where
  headDim : headDimOf q.headDim = c.headDim
  hkv : q.hkv = c.hkv
  layers : q.layers = c.layers
  base : q.base = c.base
  fits : c.base + q.value ≤ 2 ^ 24
  extent : (c.resized q.value).extent ≤ 2 ^ 43

theorem ctxResizeWork_of_open {s : State} {x : Run} {c : Ctx} (hc : HoldsCtx s x c) (hq : (ctxParam x.m).Resizes c) :
    ∃ n, ctxResizeWork s x = .state (traceCheck (bump (dropPtes (modCtx s c.index fun _ => c.resized (ctxParam x.m).value)
      (c.resized (ctxParam x.m).value).beyond) pgPOL oPOL_SHOOTDOWNS n)) := by
  have hfits : ¬(c.base + (ctxParam x.m).value > 2 ^ 24 || (c.resized (ctxParam x.m).value).extent > 2 ^ 43) = true := by
    have := hq.fits
    have := hq.extent
    simp only [Bool.or_eq_true, decide_eq_true_eq]
    omega
  unfold ctxResizeWork
  rw [withCtx_of_open hc, hc.index]
  simp only [hq.headDim, hq.hkv, hq.layers, hq.base, bne_self_eq_false, Bool.false_eq_true, if_false]
  exact ⟨_, if_neg hfits⟩

theorem ctxCloseWork_of_open {s : State} {x : Run} {c : Ctx} (hc : HoldsCtx s x c) :
    ∃ n, ctxCloseWork s x = .state (traceCheck (bump (closeCtx s c.index) pgPOL oPOL_SHOOTDOWNS n)) :=
  ⟨_, withCtx_of_open hc _⟩

theorem ctxFillWork_of_open {s : State} {x : Run} {c : Ctx} (hc : HoldsCtx s x c) (hv : (ctxParam x.m).value ≤ c.maxlen) :
    ctxFillWork s x = .state (modCtx s c.index fun c => { c with filled := (ctxParam x.m).value }) := by
  rw [ctxFillWork, withCtx_of_open hc, if_neg (Nat.not_lt.mpr hv), hc.index]

/-! ### What each command leaves. -/

/-- POL_CTX_OPENS is none of the registers counted on when work is done. -/
theorem ctxOpens_markWorked {s : State} (h : cellWf coldAt s.regs = true) (x : Run) :
    regRaw (markWorked s x) pgPOL oPOL_CTX_OPENS = regRaw s pgPOL oPOL_CTX_OPENS := by
  refine ((RegKept.refl h).markWorked (by decide) (by decide) x (by decide +kernel) (fun u c hc => ?_) (by decide)).val
  obtain ⟨r, hr, hpage, hoff⟩ := mem_placeCounters hc
  intro e
  have := (regAddr_inj (by decide) hoff e).1
  simp only [hpage, rgnPage, pgPOL, pgRGN] at this
  omega

/-- OPEN's count, as it reads once the macro-op has worked. -/
theorem countedOnce_ctxOpens {s u : State} (h : cellWf coldAt s.regs = true) (hu : u.regs = s.regs) (x : Run) :
    CountedOnce s (markWorked (bump u pgPOL oPOL_CTX_OPENS 1) x) pgPOL oPOL_CTX_OPENS := by
  have hwf : cellWf coldAt u.regs = true := hu ▸ h
  rw [CountedOnce, ctxOpens_markWorked (bump_regsWf hwf ..), regRaw_bump_same hwf, regRaw_congr hu]

/-- OPEN adds the context and counts it, and nothing is mapped (R284). -/
theorem ctxOpen_runs {s : State} {ref : MopRef} {x : Run} (hs : Inv s) (hx : Ready s ref 0x34 0 x)
    (hb : ctxBusy s x.p (ctxParam x.m).ctx = false) (hc : ctx? s (ctxParam x.m).ctx = none)
    (hend : (ctxParam x.m).base + (ctxParam x.m).value ≤ 2 ^ 24) (hext : ((ctxParam x.m).open x.p).extent ≤ 2 ^ 43) :
    Runs (.ctxOpen ref) s fun t =>
      t.ctxs = s.ctxs ++ [(ctxParam x.m).open x.p] ∧ CountedOnce s t pgPOL oPOL_CTX_OPENS ∧ t.mem = s.mem ∧ t.pool = s.pool
        ∧ Worked t x := by
  have hcount := countedOnce_ctxOpens (u := { s with ctxs := s.ctxs ++ [(ctxParam x.m).open x.p] }) hs.regs rfl x
  exact runs_of_work_state rfl hx (ctxOpenWork_of_closed hb hc hend hext) ⟨by simp, hcount, by simp, by simp, worked_of_ready hx (by simp)⟩

/-- RESIZE sets MAXLEN, clips FILLED, and unmaps the pages beyond the new extent and no other (R285, log 88). -/
theorem ctxResize_runs {s : State} {ref : MopRef} {x : Run} {c : Ctx} (hx : Ready s ref 0x34 1 x) (hc : HoldsCtx s x c)
    (hq : (ctxParam x.m).Resizes c) :
    Runs (.ctxResize ref) s fun t =>
      ctx? t c.index = some (c.resized (ctxParam x.m).value)
        ∧ (∀ e, e ∈ t.pool.ptes ↔ e ∈ s.pool.ptes ∧ (e.space ≠ .ctx c.index ∨ e.va < (c.resized (ctxParam x.m).value).extent))
        ∧ t.mem = s.mem ∧ Worked t x := by
  obtain ⟨n, hwork⟩ := ctxResizeWork_of_open hc hq
  refine runs_of_work_state rfl hx hwork ⟨?_, fun e => ?_, by simp, worked_of_ready hx (by simp)⟩
  · exact ctx?_of_modCtx hc.found_index (fun _ => c.resized (ctxParam x.m).value) (fun _ _ => rfl) (by simp)
  · have hpage (d e : Pte) (hspace : e.space = d.space) (hva : e.va = d.va) :
        (c.resized (ctxParam x.m).value).beyond e = (c.resized (ctxParam x.m).value).beyond d := by simp only [Ctx.beyond, hspace, hva]
    have hmem := mem_dropPtes (s := modCtx s c.index fun _ => c.resized (ctxParam x.m).value) hpage (e := e)
    simpa [Ctx.beyond_eq_false] using hmem

/-- CLOSE removes the context and unmaps its pages and no other (R287). -/
theorem ctxClose_runs {s : State} {ref : MopRef} {x : Run} {c : Ctx} (hx : Ready s ref 0x34 2 x) (hc : HoldsCtx s x c) :
    Runs (.ctxClose ref) s fun t =>
      t.ctxs = s.ctxs.filter (·.index != c.index) ∧ (∀ e, e ∈ t.pool.ptes ↔ e ∈ s.pool.ptes ∧ e.space ≠ .ctx c.index)
        ∧ t.mem = s.mem ∧ Worked t x := by
  obtain ⟨n, hwork⟩ := ctxCloseWork_of_open hc
  refine runs_of_work_state rfl hx hwork ⟨?_, fun e => ?_, by simp, worked_of_ready hx (by simp)⟩
  · simp [closeCtx]
  · simpa using mem_closeCtx_ptes (s := s) (i := c.index) (e := e)

/-- FILL sets FILLED (R286). -/
theorem ctxFill_runs {s : State} {ref : MopRef} {x : Run} {c : Ctx} (hx : Ready s ref 0x34 3 x) (hc : HoldsCtx s x c)
    (hv : (ctxParam x.m).value ≤ c.maxlen) :
    Runs (.ctxFill ref) s fun t =>
      ctx? t c.index = some { c with filled := (ctxParam x.m).value } ∧ t.mem = s.mem ∧ t.pool = s.pool ∧ Worked t x := by
  refine runs_of_work_state rfl hx (ctxFillWork_of_open hc hv) ⟨?_, by simp, by simp, worked_of_ready hx rfl⟩
  exact ctx?_of_modCtx hc.found_index (fun c => { c with filled := (ctxParam x.m).value }) (fun _ h => h) (by simp)

/-- Settles O40: each command of CTX by what its work comes to where its conditions hold, and what marking the macro-op as worked leaves. -/
theorem contextCommandsRun : Obligations.ContextCommandsRun := by
  unfold Obligations.ContextCommandsRun
  refine ⟨fun s ref x => ctxOpen_runs, ?_, ?_, fun s ref x c hx hb hc ho => ctxFill_runs hx ⟨hb, hc, ho⟩⟩
  · intro s ref x c hx hb hc ho hdim hhkv hlayers hbase hfits hext
    obtain ⟨t, hrun, hctx, hptes, hmem, hworked⟩ := ctxResize_runs hx ⟨hb, hc, ho⟩ ⟨hdim, hhkv, hlayers, hbase, hfits, hext⟩
    exact ⟨t, hrun, hctx, fun e he hspace => ((hptes e).mp he).2.resolve_left (not_not_intro hspace),
      fun e he hkeep => (hptes e).mpr ⟨he, hkeep⟩, hmem, hworked⟩
  · intro s ref x c hx hb hc ho
    obtain ⟨t, hrun, hctxs, hptes, hmem, hworked⟩ := ctxClose_runs hx ⟨hb, hc, ho⟩
    exact ⟨t, hrun, hctxs, fun e he => ((hptes e).mp he).2, fun e he hspace => (hptes e).mpr ⟨he, hspace⟩, hmem, hworked⟩

end Sys2Proof.Machine
end

section
/-! PROOFS. What a write leaves in a register: its fields by their bits, and the way of a session's write to the rule of its register's chapter
(R5, R6, R505, R568). -/

namespace Sys2Proof.Machine

set_option Elab.async false

/-! ### Fields by their bits. -/

theorem bit_bits (v hi lo j : Nat) : bit (bits v hi lo) j = (decide (j < hi + 1 - lo) && bit v (lo + j)) := by
  simp only [bit, bits, Nat.testBit_mod_two_pow, Nat.testBit_shiftRight]

/-- Numbers with the same bits in a field hold the same there. -/
theorem bits_eq_of_bit {v w hi lo : Nat} (h : ∀ j, lo ≤ j → j ≤ hi → bit v j = bit w j) : bits v hi lo = bits w hi lo := by
  refine Nat.eq_of_testBit_eq fun j => ?_
  have hv := bit_bits v hi lo j
  have hw := bit_bits w hi lo j
  simp only [bit] at hv hw h
  rw [hv, hw]
  by_cases hj : j < hi + 1 - lo
  · rw [h (lo + j) (by omega) (by omega)]
  · simp [hj]

/-- One bit as a field of its own. -/
theorem bit_eq_bits (v j : Nat) : bit v j = (bits v j j == 1) := by
  rw [bit, Nat.testBit_eq_decide_div_mod_eq, bits, Nat.shiftRight_eq_div_pow, Nat.add_sub_cancel_left, Nat.pow_one]
  rfl

/-- Replacing a field leaves the bits beside it. -/
theorem bit_withBits {hi lo : Nat} (h : lo ≤ hi) (v x j : Nat) :
    bit (withBits v hi lo x) j = if lo ≤ j ∧ j ≤ hi then bit x (j - lo) else bit v j := by
  have hlow : v % 2 ^ lo < 2 ^ lo := Nat.mod_lt _ (Nat.two_pow_pos lo)
  have hmid : x % 2 ^ (hi + 1 - lo) < 2 ^ (hi + 1 - lo) := Nat.mod_lt _ (Nat.two_pow_pos _)
  have hp : 2 ^ (hi + 1) = 2 ^ lo * 2 ^ (hi + 1 - lo) := by rw [← Nat.pow_add]; congr 1; omega
  have hlt : 2 ^ lo * (x % 2 ^ (hi + 1 - lo)) + v % 2 ^ lo < 2 ^ (hi + 1) := by
    calc _ < 2 ^ lo * (x % 2 ^ (hi + 1 - lo) + 1) := by rw [Nat.mul_add]; omega
      _ ≤ 2 ^ (hi + 1) := hp ▸ Nat.mul_le_mul_left _ hmid
  have hw : withBits v hi lo x = 2 ^ (hi + 1) * (v >>> (hi + 1)) + (2 ^ lo * (x % 2 ^ (hi + 1 - lo)) + v % 2 ^ lo) := by
    simp only [withBits, Nat.shiftLeft_eq]
    ring
  rw [bit, hw, Nat.testBit_two_pow_mul_add _ hlt, Nat.testBit_two_pow_mul_add _ hlow]
  simp only [bit, Nat.testBit_shiftRight, Nat.testBit_mod_two_pow]
  by_cases h1 : j < lo
  · simp [h1, show j < hi + 1 by omega, show ¬ lo ≤ j by omega]
  by_cases h2 : j < hi + 1
  · simp [h1, h2, show lo ≤ j by omega, show j ≤ hi by omega, show j - lo < hi + 1 - lo by omega]
  · simp [h2, show ¬ j ≤ hi by omega, show hi + 1 + (j - (hi + 1)) = j by omega]

/-- A register's 64 bits read as written. -/
theorem bit_regRaw_setReg {s : State} (h : cellWf coldAt s.regs = true) (page off v : Nat) {j : Nat} (hj : j < 64) :
    bit (regRaw (setReg s page off v) page off) j = bit v j := by
  rw [regRaw_setReg_same h, bit, Nat.testBit_mod_two_pow]
  simp [hj, bit]

/-- A field of a register reads as in what was written. -/
theorem fldGet_setReg_same {s : State} (h : cellWf coldAt s.regs = true) (page off v lo : Nat) {hi : Nat} (hhi : hi < 64) :
    fldGet (setReg s page off v) page off hi lo = bits v hi lo :=
  bits_eq_of_bit fun _ _ hj => bit_regRaw_setReg h page off v (by omega)

/-! ### The value that the access codes let through (R5, R6). -/

/-- A write reaches the field. -/
def Fld.takes (f : Fld) : Bool := f.acc == .rw || f.acc == .rws || f.acc == .rwl

/-- A field written over a number. -/
def Fld.put (v acc : Nat) (f : Fld) : Nat := if f.takes then withBits acc f.hi f.lo (bits v f.hi f.lo) else acc

theorem mergeFlds_eq (d : RegDesc) (old v : Nat) : mergeFlds d old v = d.flds.foldl (Fld.put v) old := rfl

theorem Fld.bit_put {f : Fld} (h : f.lo ≤ f.hi) (v acc j : Nat) :
    bit (f.put v acc) j = if f.takes ∧ f.lo ≤ j ∧ j ≤ f.hi then bit v j else bit acc j := by
  unfold Fld.put
  by_cases ht : f.takes = true
  · by_cases hj : f.lo ≤ j ∧ j ≤ f.hi
    · simp [ht, bit_withBits h, hj, bit_bits, show j - f.lo < f.hi + 1 - f.lo by omega]
    · simp [ht, bit_withBits h, hj]
  · simp [ht]

/-- A bit that holds the written value keeps it whatever fields follow. -/
theorem bit_foldl_put_kept {v j : Nat} {fs : List Fld} (hfs : ∀ f ∈ fs, f.lo ≤ f.hi) {acc : Nat} (h : bit acc j = bit v j) :
    bit (fs.foldl (Fld.put v) acc) j = bit v j := by
  induction fs generalizing acc with
  | nil => exact h
  | cons f fs ih =>
    refine ih (fun g hg => hfs g (List.mem_cons_of_mem f hg)) ?_
    rw [Fld.bit_put (hfs f List.mem_cons_self), h, ite_self]

/-- A bit of a field that a write reaches becomes the written one. -/
theorem bit_foldl_put {v j : Nat} {fs : List Fld} (hfs : ∀ f ∈ fs, f.lo ≤ f.hi) {f : Fld} (hf : f ∈ fs) (ht : f.takes = true)
    (hlo : f.lo ≤ j) (hhi : j ≤ f.hi) (acc : Nat) : bit (fs.foldl (Fld.put v) acc) j = bit v j := by
  induction fs generalizing acc with
  | nil => exact absurd hf List.not_mem_nil
  | cons g fs ih =>
    have hrest : ∀ x ∈ fs, x.lo ≤ x.hi := fun x hx => hfs x (List.mem_cons_of_mem g hx)
    obtain rfl | hf := List.mem_cons.mp hf
    · exact bit_foldl_put_kept hrest (by rw [Fld.bit_put (hfs f List.mem_cons_self), if_pos ⟨ht, hlo, hhi⟩])
    · exact ih hrest hf _

/-- What a register is to hold once `v` is written to it. -/
def merged (s : State) (page off v : Nat) : Nat :=
  match regDesc page off with
  | some d => mergeFlds d (regRaw s page off) v
  | none => regRaw s page off

/-- The register has a field [hi:lo] that a write reaches. -/
def fieldTakes (page off hi lo : Nat) : Bool :=
  (regDesc page off).any fun d => d.flds.all (fun f => f.lo ≤ f.hi) && d.flds.any fun f => f.takes && f.hi == hi && f.lo == lo

theorem bit_merged {page off hi lo : Nat} (h : fieldTakes page off hi lo = true) (s : State) (v : Nat) {j : Nat} (hlo : lo ≤ j)
    (hhi : j ≤ hi) : bit (merged s page off v) j = bit v j := by
  obtain ⟨d, hd, h⟩ := (Option.any_eq_true ..).mp h
  simp only [Bool.and_eq_true, List.all_eq_true, decide_eq_true_eq, List.any_eq_true, beq_iff_eq] at h
  obtain ⟨hfs, f, hf, ⟨ht, rfl⟩, rfl⟩ := h
  simp only [merged, hd, mergeFlds_eq]
  exact bit_foldl_put hfs hf ht hlo hhi _

theorem bits_merged {page off hi lo : Nat} (h : fieldTakes page off hi lo = true) (s : State) (v : Nat) :
    bits (merged s page off v) hi lo = bits v hi lo :=
  bits_eq_of_bit fun _ hlo hhi => bit_merged h s v hlo hhi

/-- A field that a write reaches reads as written once the register is stored. -/
theorem fldGet_setReg_merged {s t : State} (ht : cellWf coldAt t.regs = true) {page off hi lo : Nat} (h : fieldTakes page off hi lo = true)
    (hhi : hi < 64) (v : Nat) : fldGet (setReg t page off (merged s page off v)) page off hi lo = bits v hi lo := by
  rw [fldGet_setReg_same ht _ _ _ _ hhi, bits_merged h]

/-! ### A session's write comes to the rule of its register's chapter (R505). -/

/-- A register that is on the module, that a write can reach, and that neither a page's LOCK nor a reset of its own stands before. -/
def plainReg (page off : Nat) : Bool :=
  off < 4096 && regAddr page off % 8 == 0 && regAddr page off < 0x300000 && (dirRow page).isSome && hasHeader page
    && !(page == pgMOD && off == oMOD_RESET)
    && (regDesc page off).any fun d =>
      let open_ (a : Acc) : Bool := d.flds.any (·.acc == a)
      (open_ .rw || open_ .wo || open_ .w1c || open_ .rws) && !open_ .rwl

theorem writeReg_plain {s : State} {i page off : Nat} (h : plainReg page off = true)
    (hm : ∀ d, regDesc page off = some d → mayWrite s i page off d = true) (v : Nat) :
    writeReg s i (regAddr page off) v = applyWrite s i page off (regRaw s page off) (merged s page off v) v := by
  simp only [plainReg, Bool.and_eq_true, decide_eq_true_eq, beq_iff_eq, Bool.not_eq_true'] at h
  obtain ⟨⟨⟨⟨⟨⟨hoff, h8⟩, hlt⟩, hrow⟩, hhead⟩, hreset⟩, hd⟩ := h
  obtain ⟨d, hdesc, hd⟩ := (Option.any_eq_true ..).mp hd
  simp only [Bool.and_eq_true, Bool.not_eq_true'] at hd
  obtain ⟨hopen, hlock⟩ := hd
  have haddr : (regAddr page off % 8 != 0 || decide (regAddr page off ≥ 0x300000) || (dirRow page).isNone) = false := by
    simp [h8, Nat.not_le.mpr hlt, Option.isNone_eq_false_iff.mpr hrow]
  unfold writeReg merged
  simp only [regAddr_div hoff, regAddr_mod hoff, haddr, hhead, hdesc, hreset, hlock, hopen, hm d hdesc, Bool.or_false, Bool.not_true,
    Bool.false_and, Bool.false_eq_true, if_false]

end Sys2Proof.Machine
end

section
/-! PROOFS. Registers beyond the counters of a page stay as they are while events are raised and ports are judged (R351-R353, R573). -/

namespace Sys2Proof.Machine

set_option Elab.async false

/-- An offset of a page beyond the common header and the first counters (R570, R572). -/
abbrev PastCounters (off : Nat) : Prop := 0x100 ≤ off ∧ OnPage off

theorem regAddr_ne_of_past {off off' : Nat} (hb : PastCounters off) (h : off' < 0x100) (page page' : Nat) :
    regAddr page off ≠ regAddr page' off' :=
  regAddr_ne_of_off hb.2 (by omega) (by omega)

/-- Each of 16 like registers of a run. -/
theorem pastCounters_run {o k : Nat} (hk : k < 16) (h : 0x100 ≤ o := by decide) (h' : o ≤ 0xF80 := by decide) :
    PastCounters (o + 8 * k) := by
  omega

/-- Registers of different pages have different addresses. -/
theorem regAddr_ne_of_page {page page' off off' : Nat} (h : off < 4096) (h' : off' < 4096) (hne : page ≠ page') :
    regAddr page off ≠ regAddr page' off' := fun e => hne (regAddr_inj h h' e).1

section
variable {page off : Nat} {s t u : State}

theorem RegKept.ite {c : Prop} [Decidable c] (h : RegKept page off s t) (g : RegKept page off s u) :
    RegKept page off s (if c then t else u) := by
  split <;> assumption

theorem RegKept.setReg (h : RegKept page off s t) {page' off' : Nat} (hne : regAddr page off ≠ regAddr page' off') (v : Nat) :
    RegKept page off s (setReg t page' off' v) :=
  ⟨setReg_regsWf h.wf .., (regRaw_setReg_ne h.wf hne v).trans h.val⟩

/-- A counter of the header or after it moves. -/
theorem RegKept.count (h : RegKept page off s t) (hb : PastCounters off) (page' off' n : Nat) (hl : off' < 0x100 := by decide) :
    RegKept page off s (Machine.bump t page' off' n) := h.bump (regAddr_ne_of_past hb hl _ _) n

theorem RegKept.eventToSess (h : RegKept page off s t) (hb : PastCounters off) (page' n i : Nat) :
    RegKept page off s (eventToSess page' n t i) :=
  .ite (.ite (h.congr rfl) (h.count hb ..)) h

theorem RegKept.traceRec (h : RegKept page off s t) (hb : PastCounters off) (kind part page' tag idx op status code data : Nat) :
    RegKept page off s (traceRec t kind part page' tag idx op status code data) :=
  .ite (.ite (h.count hb ..) (h.congr rfl)) h

/-- Raising an event moves registers of the header and counters only (R502, R573, R585). -/
theorem RegKept.raise (h : RegKept page off s t) (hb : PastCounters off) (page' n : Nat) : RegKept page off s (raise t page' n) := by
  have hraw := h.setReg (regAddr_ne_of_past hb (by decide : oEVT_RAW < 0x100) page page') (Nat.lor (regRaw t page' oEVT_RAW) (2 ^ n))
  exact ((hraw.count hb page' oEVT_COUNT 1).forEach _ fun _ i _ hu => hu.eventToSess hb page' n i).traceRec hb ..

/-! ### Ports (R351-R353, R355). -/

theorem RegKept.setPortState (h : RegKept page off s t) {port : Nat} (hne : regAddr page off ≠ regAddr (pgLNK + port) oLNK_STAT)
    (st : Nat) : RegKept page off s (setPortState t port st) := h.setReg hne _

theorem RegKept.drainFlits (h : RegKept page off s t) (hb : PastCounters off) (port n : Nat) :
    RegKept page off s (drainFlits port n t) := by
  induction n generalizing t with
  | zero => exact h
  | succ n ih =>
    simp only [Machine.drainFlits]
    split
    · exact h
    · refine ih (.ite ?_ (h.congr rfl))
      exact (RegKept.count (h.congr rfl) hb ..).congr rfl

/-- Judging a port moves its LNK_STAT, and registers of the header and counters. -/
theorem RegKept.judgePort (h : RegKept page off s t) (hb : PastCounters off) {port : Nat}
    (hne : regAddr page off ≠ regAddr (pgLNK + port) oLNK_STAT) : RegKept page off s (judgePort t port) := by
  have up := (h.setPortState hne lnkUP).raise hb (pgLNK + port) 1
  have counted := RegKept.ite (c := bulkLanes (Machine.raise (Machine.setPortState t port lnkUP) (pgLNK + port) 1) port < 72)
    ((up.setPortState hne lnkDEGRADED).raise hb (pgLNK + port) 4) up
  unfold Machine.judgePort
  exact .ite (h.setPortState hne _) (.ite h (.ite (counted.drainFlits hb ..) ((h.setPortState hne _).raise hb ..)))

end
end Sys2Proof.Machine
end

section
/-! PROOFS. O21: the commands that write the links', the router's, the deputy's, the scheduler's, the pool's and the tallies' registers (R271,
R351-R357, R461-R469, R528). -/

namespace Sys2Proof.Machine

set_option Elab.async false

/-! ### The registers that the commands write (R568). -/

theorem plain_lnkCtrl : ∀ port < 6, plainReg (pgLNK + port) oLNK_CTRL = true := by decide +kernel
theorem plain_rtrCoord : plainReg pgRTR oRTR_COORD = true := by decide +kernel
theorem plain_rtrPlane : plainReg pgRTR oRTR_PLANE = true := by decide +kernel
theorem plain_rtrSlice : ∀ p < 16, plainReg pgRTR (oRTR_SLICE + 8 * p) = true := by decide +kernel
theorem plain_depEnvelope : plainReg pgDEP oDEP_ENVELOPE = true ∧ fieldTakes pgDEP oDEP_ENVELOPE 11 0 = true := by decide +kernel
theorem plain_schSess : ∀ k < 16, plainReg pgSCH (oSCH_SESS + 8 * k) = true ∧ fieldTakes pgSCH (oSCH_SESS + 8 * k) 2 0 = true := by
  decide +kernel
theorem plain_schPart : ∀ p < 16, plainReg pgSCH (oSCH_PART + 8 * p) = true ∧ fieldTakes pgSCH (oSCH_PART + 8 * p) 63 63 = true
    ∧ fieldTakes pgSCH (oSCH_PART + 8 * p) 59 56 = true ∧ fieldTakes pgSCH (oSCH_PART + 8 * p) 47 0 = true := by decide +kernel
theorem plain_schTally : ∀ p < 16, plainReg pgSCH (oSCH_TALLY + 8 * p) = true ∧ fieldTakes pgSCH (oSCH_TALLY + 8 * p) 30 16 = true
    ∧ fieldTakes pgSCH (oSCH_TALLY + 8 * p) 13 0 = true := by decide +kernel
theorem plain_polQuota : ∀ p < 16, plainReg pgPOL (oPOL_QUOTA + 8 * p) = true ∧ fieldTakes pgPOL (oPOL_QUOTA + 8 * p) 63 32 = true
    ∧ fieldTakes pgPOL (oPOL_QUOTA + 8 * p) 31 0 = true := by decide +kernel

/-- TAL_ADD may be written by a session that is not secure: none of its fields asks for one (R467, R505). -/
theorem plain_talAdd : ∀ k < 32, plainReg (pgTAL + k) oTAL_ADD = true ∧ pageCode (pgTAL + k) = 0x0F
    ∧ (regDesc (pgTAL + k) oTAL_ADD).all (fun d => !d.flds.any (·.acc == .rws)) = true := by decide +kernel

theorem pageCode_lnk : ∀ port < 6, pageCode (pgLNK + port) = 0x08 := by decide +kernel
theorem pageCode_rtr : pageCode pgRTR = 0x09 := by decide +kernel
theorem pageCode_dep : pageCode pgDEP = 0x03 := by decide +kernel
theorem pageCode_sch : pageCode pgSCH = 0x13 := by decide +kernel
theorem pageCode_pol : pageCode pgPOL = 0x0E := by decide +kernel

/-! ### What the rule of each register's chapter makes of a write. -/

/-- A register beyond the counters is none of the three of the common header that have rules of their own (R570-R574). -/
theorem off_ne_header {off : Nat} (h : 0x100 ≤ off) : (off == oPAGE_CTRL) = false ∧ (off == oEVT_CLR) = false ∧ (off == oEVT_MASK) = false := by
  simp only [beq_eq_false_iff_ne, oPAGE_CTRL, oEVT_CLR, oEVT_MASK]
  omega

theorem applyWrite_lnkCtrl {port : Nat} (hp : port < 6) {v : Nat} (hv : bit v 16 = true) (s : State) (i old new : Nat) :
    (applyWrite s i (pgLNK + port) oLNK_CTRL old new v).1 = linkRetrain (setReg s (pgLNK + port) oLNK_CTRL new) port := by
  simp [applyWrite, pageCode_lnk port hp, hv]

theorem applyWrite_rtrCoord (s : State) (i old new v : Nat) : (applyWrite s i pgRTR oRTR_COORD old new v).1 = coordWrite s false v := by
  simp [applyWrite, pageCode_rtr]

theorem applyWrite_rtrPlane (s : State) (i old new v : Nat) : (applyWrite s i pgRTR oRTR_PLANE old new v).1 = coordWrite s true v := by
  simp [applyWrite, pageCode_rtr]

theorem applyWrite_rtrSlice {p : Nat} (hp : p < 16) (s : State) (i old new v : Nat) :
    (applyWrite s i pgRTR (oRTR_SLICE + 8 * p) old new v).1 = sliceWrite s p v := by
  obtain ⟨hctrl, hclr, hmask⟩ := off_ne_header (pastCounters_run (o := oRTR_SLICE) hp).1
  have hcoord : oRTR_SLICE + 8 * p ≠ oRTR_COORD := by simp only [oRTR_SLICE, oRTR_COORD]; omega
  have hplane : oRTR_SLICE + 8 * p ≠ oRTR_PLANE := by simp only [oRTR_SLICE, oRTR_PLANE]; omega
  simp [applyWrite, pageCode_rtr, hctrl, hclr, hmask, hcoord, hplane, show 8 * p < 128 by omega]

theorem applyWrite_depEnvelope (s : State) (i old new v : Nat) :
    (applyWrite s i pgDEP oDEP_ENVELOPE old new v).1
      = if within 1600 4000 (bits new 11 0) then setReg s pgDEP oDEP_ENVELOPE new else s := by
  have e : applyWrite s i pgDEP oDEP_ENVELOPE old new v
      = if within 1600 4000 (bits new 11 0) then (setReg s pgDEP oDEP_ENVELOPE new, 0) else (s, 0) := by simp [applyWrite, pageCode_dep]
  rw [e]
  exact apply_ite Prod.fst ..

theorem applyWrite_schSess {k : Nat} (hk : k < 16) (s : State) (i old new v : Nat) :
    (applyWrite s i pgSCH (oSCH_SESS + 8 * k) old new v).1 = setReg s pgSCH (oSCH_SESS + 8 * k) new := by
  obtain ⟨hctrl, hclr, hmask⟩ := off_ne_header (pastCounters_run (o := oSCH_SESS) hk).1
  have hsess : oSCH_SESS + 8 * k < oSCH_PART := by simp only [oSCH_SESS, oSCH_PART]; omega
  simp [applyWrite, pageCode_sch, hctrl, hclr, hmask, hsess]

theorem applyWrite_schPart {p : Nat} (hp : p < 16) (s : State) (i old new v : Nat) :
    (applyWrite s i pgSCH (oSCH_PART + 8 * p) old new v).1 = schPartWrite s p new := by
  obtain ⟨hctrl, hclr, hmask⟩ := off_ne_header (pastCounters_run (o := oSCH_PART) hp).1
  have hpart : oSCH_PART + 8 * p < oSCH_TALLY := by simp only [oSCH_PART, oSCH_TALLY]; omega
  simp [applyWrite, pageCode_sch, hctrl, hclr, hmask, hpart]

theorem applyWrite_schTally {p : Nat} (hp : p < 16) (s : State) (i old new v : Nat) :
    (applyWrite s i pgSCH (oSCH_TALLY + 8 * p) old new v).1 = schTallyWrite s p new := by
  obtain ⟨hctrl, hclr, hmask⟩ := off_ne_header (pastCounters_run (o := oSCH_TALLY) hp).1
  have htally : ¬ oSCH_TALLY + 8 * p < oSCH_PART := by simp only [oSCH_PART, oSCH_TALLY]; omega
  simp [applyWrite, pageCode_sch, hctrl, hclr, hmask, htally]

theorem applyWrite_polQuota {p : Nat} (hp : p < 16) (s : State) (i old new v : Nat) :
    (applyWrite s i pgPOL (oPOL_QUOTA + 8 * p) old new v).1 = quotaWrite s p new := by
  obtain ⟨hctrl, hclr, hmask⟩ := off_ne_header (pastCounters_run (o := oPOL_QUOTA) hp).1
  simp [applyWrite, pageCode_pol, hctrl, hclr, hmask, show 8 * p < 128 by omega]

theorem applyWrite_talAdd {k : Nat} (hk : k < 32) (s : State) (i old new v : Nat) :
    (applyWrite s i (pgTAL + k) oTAL_ADD old new v).1 = (talAdd s i k v).1 := by
  simp [applyWrite, (plain_talAdd k hk).2.1]

/-! ### A command that writes one register. -/

/-- A write by a secure session comes to the rule of the register's chapter. -/
theorem runs_of_applyWrite {c : Instr} {s t : State} {i page off v : Nat} {P : State → Prop}
    (hc : exec c s = .next (sessWrite s i (regAddr page off) v)) (hs : SecureSession s i) (hreg : plainReg page off = true)
    (hw : (applyWrite s i page off (regRaw s page off) (merged s page off v) v).1 = t) (hP : P t) : Runs c s P := by
  have hmay : ∀ d, regDesc page off = some d → mayWrite s i page off d = true := fun d _ => by simp [mayWrite, hs.secure]
  refine ⟨t, ?_, hP⟩
  rw [hc, sessWrite, if_pos (by simp [hs.serves, hs.index, hs.isOpen]), writeReg_plain hreg hmay, hw]

/-! ### The deputy's envelope and a session's priority (R461, R528). -/

theorem depEnvelopeWrite_takes {s : State} {i : Nat} {v : Word} (h : Inv s) (hs : SecureSession s i) (hlo : 1600 ≤ bits v.toNat 11 0)
    (hhi : bits v.toNat 11 0 ≤ 4000) :
    Runs (.depEnvelopeWrite i v) s fun t =>
      fldGet t pgDEP oDEP_ENVELOPE 11 0 = bits v.toNat 11 0 ∧ OtherRegs s t pgDEP oDEP_ENVELOPE ∧ t = { s with regs := t.regs } := by
  obtain ⟨hreg, hfld⟩ := plain_depEnvelope
  have hw := applyWrite_depEnvelope s i (regRaw s pgDEP oDEP_ENVELOPE) (merged s pgDEP oDEP_ENVELOPE v.toNat) v.toNat
  rw [bits_merged hfld, if_pos (by simp [within, hlo, hhi])] at hw
  exact runs_of_applyWrite rfl hs hreg hw
    ⟨fldGet_setReg_merged h.regs hfld (by decide) _, otherRegs_setReg h.regs (by decide) _, rfl⟩

theorem depEnvelopeWrite_keeps {s : State} {i : Nat} {v : Word} (hs : SecureSession s i)
    (hv : bits v.toNat 11 0 < 1600 ∨ 4000 < bits v.toNat 11 0) : Runs (.depEnvelopeWrite i v) s fun t => t = s := by
  obtain ⟨hreg, hfld⟩ := plain_depEnvelope
  have hw := applyWrite_depEnvelope s i (regRaw s pgDEP oDEP_ENVELOPE) (merged s pgDEP oDEP_ENVELOPE v.toNat) v.toNat
  rw [bits_merged hfld, if_neg (by simp only [within, Bool.and_eq_true, decide_eq_true_eq]; omega)] at hw
  exact runs_of_applyWrite rfl hs hreg hw rfl

theorem schSessWrite_runs {s : State} {i k : Nat} {v : Word} (h : Inv s) (hs : SecureSession s i) (hk : k < 16) :
    Runs (.schSessWrite i k v) s fun t =>
      fldGet t pgSCH (oSCH_SESS + 8 * k) 2 0 = bits v.toNat 2 0 ∧ OtherRegs s t pgSCH (oSCH_SESS + 8 * k) ∧ t = { s with regs := t.regs } := by
  obtain ⟨hreg, hfld⟩ := plain_schSess k hk
  exact runs_of_applyWrite (congrArg Host.Outcome.next (if_pos hk)) hs hreg (applyWrite_schSess hk ..)
    ⟨fldGet_setReg_merged h.regs hfld (by decide) _, otherRegs_setReg h.regs (pastCounters_run hk).2 _, rfl⟩

/-! ### What the registers of the router and of a port decide (R351-R357). -/

/-- The coordinates that a value of RTR_COORD holds, and the plane's lengths less 1 that one of RTR_PLANE holds (R353). -/
def axisFld (v axis : Nat) : Nat :=
  match axis with
  | 0 => bits v 2 0
  | 1 => bits v 6 4
  | _ => bits v 11 8

theorem coord_eq (s : State) (axis : Nat) : coord s axis = axisFld (regRaw s pgRTR oRTR_COORD) axis :=
  match axis with
  | 0 | 1 | _ + 2 => rfl

theorem planeLen_eq (s : State) (axis : Nat) : planeLen s axis = axisFld (regRaw s pgRTR oRTR_PLANE) axis + 1 :=
  match axis with
  | 0 | 1 | _ + 2 => rfl

/-- The router's registers decide which links the slices hold. -/
theorem linkInUse_congr {s t : State} (h : ∀ off, off < 4096 → regRaw t pgRTR off = regRaw s pgRTR off) (port : Nat) :
    linkInUse t port = linkInUse s port := by
  have hcoord (a : Nat) : coord t a = coord s a := by rw [coord_eq, coord_eq, h _ (by decide)]
  have hlen (a : Nat) : planeLen t a = planeLen s a := by rw [planeLen_eq, planeLen_eq, h _ (by decide)]
  have hlink (b : Box) : linkInBox t b port = linkInBox s b port := by
    simp only [linkInBox, inBox, inBoxAxis, boxOff, hcoord, hlen]
    rfl
  have hbox {p : Nat} (hp : p < 16) : sliceBox t p = sliceBox s p := congrArg boxOf (h _ (pastCounters_run hp).2)
  unfold linkInUse
  rw [Bool.eq_iff_iff, List.any_eq_true, List.any_eq_true]
  refine exists_congr fun p => and_congr_right fun hp => ?_
  rw [hlink, hbox (List.mem_range.mp hp)]

/-! ### A port is taken back to TRAINING (R351). -/

/-- It reads so, and one that was live has raised its event. -/
theorem linkRetrain_training {s : State} (h : Inv s) {port : Nat} (hf : portState s port ≠ 5 ∨ linkInUse s port = false) :
    portState (linkRetrain s port) port = 1 ∧ (portLive s port = true → Raised (linkRetrain s port) (pgLNK + port) 2) := by
  have hgo : (portState s port == lnkFAILED && linkInUse s port) = false := by
    obtain hf | hf := hf <;> simp [hf]
  unfold linkRetrain
  extract_lets raised
  rw [hgo, if_neg (by decide)]
  have hinv : Inv raised := by
    unfold raised
    split
    · exact raise_inv h ..
    · exact h
  have hset : Inv (setPortState raised port lnkTRAINING) := fldSet_inv hinv ..
  refine ⟨?_, fun hl => ?_⟩
  · rw [portState, fldGet, regRaw_setReg_ne hset.regs regAddr_ne_of_off]
    exact fldGet_fldSet_same hinv.regs (by decide) (by decide) ..
  · have hr : raised = raise s (pgLNK + port) 2 := if_pos hl
    refine Raised.congr (s := raised) (hr ▸ raise_raised h _ (by decide)) ?_
    exact (regRaw_setReg_ne hset.regs regAddr_ne_of_off _).trans (regRaw_fldSet_ne hinv.regs regAddr_ne_of_off ..)

theorem lnkRetrain_runs {s : State} {i port : Nat} (h : Inv s) (hs : SecureSession s i) (hp : port < 6)
    (hf : portState s port ≠ 5 ∨ linkInUse s port = false) :
    Runs (.lnkRetrain i port) s fun t =>
      portState t port = 1 ∧ (portLive s port = true → Raised t (pgLNK + port) 2) ∧ t.mem = s.mem ∧ t.sched = s.sched := by
  have hbit : bit (withBits (regRaw s (pgLNK + port) oLNK_CTRL) 16 16 1) 16 = true := by
    rw [bit_withBits (Nat.le_refl _)]
    rfl
  refine runs_of_applyWrite (congrArg Host.Outcome.next (if_pos hp)) hs (plain_lnkCtrl port hp) (applyWrite_lnkCtrl hp hbit ..) ?_
  generalize merged s (pgLNK + port) oLNK_CTRL _ = new
  have hstate : portState (setReg s (pgLNK + port) oLNK_CTRL new) port = portState s port :=
    congrArg (bits · 2 0) (regRaw_setReg_ne h.regs regAddr_ne_of_off _)
  have huse : linkInUse (setReg s (pgLNK + port) oLNK_CTRL new) port = linkInUse s port :=
    linkInUse_congr (fun off ho => regRaw_setReg_ne h.regs (regAddr_ne_of_page ho (by decide) (by simp only [pgRTR, pgLNK]; omega)) _) port
  obtain ⟨htraining, hraised⟩ := linkRetrain_training (setReg_inv h _ _ new) (hstate.symm ▸ huse.symm ▸ hf)
  exact ⟨htraining, fun hl => hraised (by rwa [portLive, hstate]), by simp, by simp⟩

/-! ### The installation table (R353). -/

/-- The installation table with the fields of one of its registers stored. -/
def storeCoord (s : State) (plane : Bool) (v : Nat) : State :=
  if plane then setReg s pgRTR oRTR_PLANE (at_ (bits v 31 24) 24 + at_ (bits v 11 8) 8 + at_ (bits v 6 4) 4 + bits v 2 0)
  else setReg s pgRTR oRTR_COORD (at_ (bits v 31 31) 31 + at_ (bits v 11 8) 8 + at_ (bits v 6 4) 4 + bits v 2 0)

/-- While no slice entry is valid, a write stores its register, and the ports that it has judged leave the table as it is. -/
theorem regKept_coordWrite {s : State} (h : Inv s) (hv : ∀ p, p < 16 → (sliceBox s p).valid = false) (plane : Bool) (v : Nat) {off : Nat}
    (hb : PastCounters off) : RegKept pgRTR off (storeCoord s plane v) (coordWrite s plane v) := by
  have hnone : ((List.range 16).any fun p => (sliceBox s p).valid) = false := by simpa using hv
  have hwf : cellWf coldAt (storeCoord s plane v).regs = true := by
    unfold storeCoord
    split <;> exact setReg_regsWf h.regs ..
  unfold coordWrite
  simp only [hnone, Bool.false_eq_true, if_false]
  refine RegKept.forEach (RegKept.refl hwf) _ fun u port hport hu => ?_
  have hne : regAddr pgRTR off ≠ regAddr (pgLNK + port) oLNK_STAT :=
    regAddr_ne_of_page hb.2 (by decide) (by have := List.mem_range.mp hport; simp only [pgRTR, pgLNK]; omega)
  exact .ite hu (.judgePort (.setPortState (.ite (hu.raise hb ..) hu) hne _) hb hne)

/-- The fields of the table as they are stored, whatever stands above them. -/
theorem axisFld_stored (x v axis : Nat) : axisFld ((x * 2 ^ 24 + at_ (bits v 11 8) 8 + at_ (bits v 6 4) 4 + bits v 2 0) % 2 ^ 64) axis
    = axisFld v axis := by
  unfold axisFld
  split <;> simp only [bits, at_, Nat.shiftRight_eq_div_pow] <;> omega

theorem rtrCoordWrite_coord {s : State} {i : Nat} {v : Word} (h : Inv s) (hs : SecureSession s i)
    (hv : ∀ p, p < 16 → (sliceBox s p).valid = false) :
    Runs (.rtrCoordWrite i false v) s fun t =>
      (∀ a, coord t a = axisFld v.toNat a) ∧ (∀ a, planeLen t a = planeLen s a) ∧ t.mem = s.mem ∧ t.sched = s.sched := by
  refine runs_of_applyWrite rfl hs plain_rtrCoord (applyWrite_rtrCoord ..) ⟨fun a => ?_, fun a => ?_, by simp, by simp⟩
  · have hkept := (regKept_coordWrite h hv false v.toNat (off := oRTR_COORD) (by decide)).val
    have htop : at_ (bits v.toNat 31 31) 31 = bits v.toNat 31 31 * 2 ^ 7 * 2 ^ 24 := by simp only [at_]; omega
    rw [coord_eq, hkept, storeCoord, if_neg (by decide), regRaw_setReg_same h.regs, htop, axisFld_stored]
  · have hkept := (regKept_coordWrite h hv false v.toNat (off := oRTR_PLANE) (by decide)).val
    rw [planeLen_eq, planeLen_eq, hkept, storeCoord, if_neg (by decide), regRaw_setReg_ne h.regs regAddr_ne_of_off]

theorem rtrCoordWrite_plane {s : State} {i : Nat} {v : Word} (h : Inv s) (hs : SecureSession s i)
    (hv : ∀ p, p < 16 → (sliceBox s p).valid = false) :
    Runs (.rtrCoordWrite i true v) s fun t =>
      (∀ a, planeLen t a = axisFld v.toNat a + 1) ∧ (∀ a, coord t a = coord s a) ∧ t.mem = s.mem ∧ t.sched = s.sched := by
  refine runs_of_applyWrite rfl hs plain_rtrPlane (applyWrite_rtrPlane ..) ⟨fun a => ?_, fun a => ?_, by simp, by simp⟩
  · have hkept := (regKept_coordWrite h hv true v.toNat (off := oRTR_PLANE) (by decide)).val
    have htop : at_ (bits v.toNat 31 24) 24 = bits v.toNat 31 24 * 2 ^ 24 := rfl
    rw [planeLen_eq, hkept, storeCoord, if_pos rfl, regRaw_setReg_same h.regs, htop, axisFld_stored]
  · have hkept := (regKept_coordWrite h hv true v.toNat (off := oRTR_COORD) (by decide)).val
    rw [coord_eq, coord_eq, hkept, storeCoord, if_pos rfl, regRaw_setReg_ne h.regs regAddr_ne_of_off]

end Sys2Proof.Machine
end

section
/-! PROOFS. O21, continued: slices, partitions, tallies and quotas, and the statement (R271, R357, R461-R469). -/

namespace Sys2Proof.Machine

set_option Elab.async false

/-! ### A slice entry (R357). -/

theorem bits_lt (v hi lo : Nat) : bits v hi lo < 2 ^ (hi + 1 - lo) := Nat.mod_lt _ (Nat.two_pow_pos _)

/-- Fields packed as those of a slice entry. -/
theorem bits_packed_slice {a b c d e f g : Nat} (ha : a < 2) (hb : b < 16) (hc : c < 8) (hd : d < 8) (he : e < 16) (hf : f < 8) (hg : g < 8) :
    let w := (at_ a 63 + at_ b 24 + at_ c 20 + at_ d 16 + at_ e 12 + at_ f 8 + at_ g 4) % 2 ^ 64
    bits w 63 63 = a ∧ bits w 27 24 = b ∧ bits w 22 20 = c ∧ bits w 18 16 = d ∧ bits w 15 12 = e ∧ bits w 10 8 = f ∧ bits w 6 4 = g := by
  simp only [bits, at_, Nat.shiftRight_eq_div_pow]
  refine ⟨?_, ?_, ?_, ?_, ?_, ?_, ?_⟩ <;> omega

/-- The value of a slice entry with the fields of `v` in their places. -/
def sliceWord (v : Nat) : Nat :=
  at_ (bits v 63 63) 63 + at_ (bits v 27 24) 24 + at_ (bits v 22 20) 20 + at_ (bits v 18 16) 16 + at_ (bits v 15 12) 12
    + at_ (bits v 10 8) 8 + at_ (bits v 6 4) 4

/-- A slice entry as it is stored describes the box that was written. -/
theorem boxOf_sliceWord (v : Nat) : boxOf (sliceWord v % 2 ^ 64) = boxOf v := by
  obtain ⟨hflag, hz, hy, hx, hoz, hoy, hox⟩ := bits_packed_slice (bits_lt v 63 63) (bits_lt v 27 24) (bits_lt v 22 20) (bits_lt v 18 16)
    (bits_lt v 15 12) (bits_lt v 10 8) (bits_lt v 6 4)
  simp only [boxOf, sliceWord, bit_eq_bits, hflag, hz, hy, hx, hoz, hoy, hox]

/-- A write that is not rejected stores the entry. -/
theorem regRaw_sliceWrite {s : State} {p v : Nat} (hr : sliceRejected s p v = false) (page off : Nat) :
    regRaw (sliceWrite s p v) page off = regRaw (setReg s pgRTR (oRTR_SLICE + 8 * p) (sliceWord v)) page off :=
  regRaw_congr (by simp [sliceWrite, hr, sliceWord]) page off

theorem rtrSliceWrite_takes {s : State} {i p : Nat} {v : Word} (h : Inv s) (hs : SecureSession s i) (hp : p < 16)
    (hr : sliceRejected s p v.toNat = false) :
    Runs (.rtrSliceWrite i p v) s fun t =>
      sliceBox t p = boxOf v.toNat ∧ (∀ q, q < 16 → q ≠ p → sliceBox t q = sliceBox s q) ∧ t.mem = s.mem ∧ t.sched = s.sched := by
  refine runs_of_applyWrite (congrArg Host.Outcome.next (if_pos hp)) hs (plain_rtrSlice p hp) (applyWrite_rtrSlice hp ..)
    ⟨?_, fun q hq hne => ?_, by simp, by simp⟩
  · rw [sliceBox, regRaw_sliceWrite hr, regRaw_setReg_same h.regs, boxOf_sliceWord]
  · have haddr := regAddr_ne_of_off (page := pgRTR) (page' := pgRTR) (pastCounters_run (o := oRTR_SLICE) hq).2
      (pastCounters_run (o := oRTR_SLICE) hp).2 (by omega)
    rw [sliceBox, sliceBox, regRaw_sliceWrite hr, regRaw_setReg_ne h.regs haddr]

theorem rtrSliceWrite_rejected {s : State} {i p : Nat} {v : Word} (h : Inv s) (hs : SecureSession s i) (hp : p < 16)
    (hr : sliceRejected s p v.toNat = true) :
    Runs (.rtrSliceWrite i p v) s fun t => sliceBox t p = sliceBox s p ∧ Raised t pgRTR 5 ∧ t.mem = s.mem ∧ t.sched = s.sched := by
  have hw : sliceWrite s p v.toNat = raise s pgRTR 5 := if_pos hr
  refine runs_of_applyWrite (congrArg Host.Outcome.next (if_pos hp)) hs (plain_rtrSlice p hp) ((applyWrite_rtrSlice hp ..).trans hw)
    ⟨?_, raise_raised h _ (by decide), by simp, by simp⟩
  exact congrArg boxOf ((RegKept.refl h.regs).raise (pastCounters_run hp) ..).val

/-! ### A partition and its tallies (R462, R463, R467). -/

/-- A partition comes into being: it takes its mean and what was written. -/
theorem schPartWrite_new {s : State} {p new : Nat} (hv : partValid s p = false) (hp : partPinned s p = false) (hb : bit new 63 = true)
    (ho : (sess s (bits new 59 56)).isOpen = true)
    (hc : tallyClash s p (fldGet s pgSCH (oSCH_TALLY + 8 * p) 13 0) (fldGet s pgSCH (oSCH_TALLY + 8 * p) 30 16) = false) :
    schPartWrite s p new = setReg (setReg s pgINP (oINP_MEAN + 8 * p) (Nat.max 1 (fldGet s pgINP oINP_MEAN_INIT 31 0))) pgSCH
      (oSCH_PART + 8 * p) new := by
  rw [fldGet, fldGet] at hc
  simp [schPartWrite, hv, hp, hb, ho, hc]

theorem schPartWrite_takes {s : State} {i p : Nat} {v : Word} (h : Inv s) (hs : SecureSession s i) (hp : p < 16)
    (hv : partValid s p = false) (hpin : partPinned s p = false) (hb : bit v.toNat 63 = true)
    (ho : (sess s (bits v.toNat 59 56)).isOpen = true)
    (hc : tallyClash s p (fldGet s pgSCH (oSCH_TALLY + 8 * p) 13 0) (fldGet s pgSCH (oSCH_TALLY + 8 * p) 30 16) = false) :
    Runs (.schPartWrite i p v) s fun t =>
      partValid t p = true ∧ partSess t p = bits v.toNat 59 56
        ∧ (∀ r, r < 48 → bit (regRaw t pgSCH (oSCH_PART + 8 * p)) r = bit v.toNat r)
        ∧ (∀ q, q < 16 → q ≠ p → partValid t q = partValid s q ∧ partSess t q = partSess s q) ∧ t = { s with regs := t.regs } := by
  obtain ⟨hreg, hvalid, hsess, hclaim⟩ := plain_schPart p hp
  have hnew := schPartWrite_new hv hpin (new := merged s pgSCH (oSCH_PART + 8 * p) v.toNat)
    ((bit_merged hvalid s _ (by decide) (by decide)).trans hb) ((bits_merged hsess s v.toNat).symm ▸ ho) hc
  have hmean := setReg_regsWf h.regs pgINP (oINP_MEAN + 8 * p) (Nat.max 1 (fldGet s pgINP oINP_MEAN_INIT 31 0))
  refine runs_of_applyWrite (congrArg Host.Outcome.next (if_pos hp)) hs hreg ((applyWrite_schPart hp ..).trans hnew)
    ⟨?_, fldGet_setReg_merged hmean hsess (by decide) _, fun r hr => ?_, fun q hq hne => ?_, rfl⟩
  · rw [partValid, fldGet_setReg_merged hmean hvalid (by decide), ← bit_eq_bits, hb]
    simpa using hp
  · rw [bit_regRaw_setReg hmean _ _ _ (by omega), bit_merged hclaim s _ (by omega) (by omega)]
  · have hpart : regAddr pgSCH (oSCH_PART + 8 * q) ≠ regAddr pgSCH (oSCH_PART + 8 * p) :=
      regAddr_ne_of_off (pastCounters_run hq).2 (pastCounters_run hp).2 (by omega)
    have hinp : regAddr pgSCH (oSCH_PART + 8 * q) ≠ regAddr pgINP (oINP_MEAN + 8 * p) :=
      regAddr_ne_of_page (pastCounters_run hq).2 (pastCounters_run hp).2 (by decide)
    have hkept := (regRaw_setReg_ne hmean hpart (merged s pgSCH (oSCH_PART + 8 * p) v.toNat)).trans (regRaw_setReg_ne h.regs hinp _)
    exact ⟨congrArg (fun w => decide (q < 16) && bits w 63 63 == 1) hkept, congrArg (bits · 59 56) hkept⟩

/-- While the partition holds a request or a saved state, a write of its registers is shut out (R463). -/
theorem schPartWrite_pinned {s : State} {i p : Nat} {v : Word} (h : Inv s) (hs : SecureSession s i) (hp : p < 16)
    (hpin : partPinned s p = true) :
    Runs (.schPartWrite i p v) s fun t =>
      regRaw t pgSCH (oSCH_PART + 8 * p) = regRaw s pgSCH (oSCH_PART + 8 * p) ∧ Raised t pgSCH 4 ∧ t.mem = s.mem ∧ t.sched = s.sched := by
  have hw (new : Nat) : schPartWrite s p new = raise s pgSCH 4 := by simp [schPartWrite, hpin, schReject]
  exact runs_of_applyWrite (congrArg Host.Outcome.next (if_pos hp)) hs (plain_schPart p hp).1 ((applyWrite_schPart hp ..).trans (hw _))
    ⟨((RegKept.refl h.regs).raise (pastCounters_run hp) ..).val, raise_raised h _ (by decide), by simp, by simp⟩

/-- An allotment within the tallies that meets no other is stored and its tallies cleared. -/
theorem schTallyWrite_allots {s : State} {p new : Nat} (hpin : partPinned s p = false) (hbase : bits new 13 0 % 64 = 0)
    (hcount : bits new 30 16 % 64 = 0) (hend : bits new 13 0 + bits new 30 16 ≤ 16384)
    (hc : tallyClash s p (bits new 13 0) (bits new 30 16) = false) :
    schTallyWrite s p new = clearTallies (setReg s pgSCH (oSCH_TALLY + 8 * p) new) (bits new 13 0) (bits new 30 16) := by
  simp [schTallyWrite, hpin, hbase, hcount, hc, Nat.not_lt.mpr hend]

theorem tallyAllotted_allots {s : State} (h : Inv s) (p new base count k : Nat) :
    tallyAllotted (clearTallies (setReg s pgSCH (oSCH_TALLY + 8 * p) new) base count) p k
      = (bits new 13 0 ≤ k && k < bits new 13 0 + bits new 30 16) := by
  have hbase := fldGet_setReg_same h.regs pgSCH (oSCH_TALLY + 8 * p) new 0 (by decide : 13 < 64)
  have hcount := fldGet_setReg_same h.regs pgSCH (oSCH_TALLY + 8 * p) new 16 (by decide : 30 < 64)
  rw [← hbase, ← hcount]
  rfl

theorem schTallyWrite_takes {s : State} {i p : Nat} {v : Word} (h : Inv s) (hs : SecureSession s i) (hp : p < 16)
    (hpin : partPinned s p = false) (hbase : bits v.toNat 13 0 % 64 = 0) (hcount : bits v.toNat 30 16 % 64 = 0)
    (hend : bits v.toNat 13 0 + bits v.toNat 30 16 ≤ 16384) (hc : tallyClash s p (bits v.toNat 13 0) (bits v.toNat 30 16) = false) :
    Runs (.schTallyWrite i p v) s fun t =>
      (∀ k, tallyAllotted t p k = (bits v.toNat 13 0 ≤ k && k < bits v.toNat 13 0 + bits v.toNat 30 16))
        ∧ (∀ k, tally t k = if tallyAllotted t p k then 0 else tally s k) ∧ t.mem = s.mem ∧ t.sched = s.sched := by
  obtain ⟨hreg, hcfld, hbfld⟩ := plain_schTally p hp
  rw [← bits_merged hbfld s] at hbase hend hc ⊢
  rw [← bits_merged hcfld s] at hcount hend hc ⊢
  refine runs_of_applyWrite (congrArg Host.Outcome.next (if_pos hp)) hs hreg
    ((applyWrite_schTally hp ..).trans (schTallyWrite_allots hpin hbase hcount hend hc))
    ⟨tallyAllotted_allots h p _ _ _, fun k => ?_, by simp, by simp⟩
  rw [tallyAllotted_allots h, tally_clearTallies (setReg_inv h ..).tallies]
  generalize merged s pgSCH (oSCH_TALLY + 8 * p) v.toNat = new
  by_cases hk : k < bits new 13 0 ∨ bits new 13 0 + bits new 30 16 ≤ k
  · rw [if_pos hk, if_neg (by simp only [Bool.and_eq_true, decide_eq_true_eq]; omega)]
    rfl
  · rw [if_neg hk, if_pos (by simp only [Bool.and_eq_true, decide_eq_true_eq]; omega)]

theorem schTallyWrite_pinned {s : State} {i p : Nat} {v : Word} (h : Inv s) (hs : SecureSession s i) (hp : p < 16)
    (hpin : partPinned s p = true) :
    Runs (.schTallyWrite i p v) s fun t =>
      regRaw t pgSCH (oSCH_TALLY + 8 * p) = regRaw s pgSCH (oSCH_TALLY + 8 * p) ∧ Raised t pgSCH 4 ∧ ∀ k, tally t k = tally s k := by
  have hw (new : Nat) : schTallyWrite s p new = raise s pgSCH 4 := by simp [schTallyWrite, hpin, schReject]
  exact runs_of_applyWrite (congrArg Host.Outcome.next (if_pos hp)) hs (plain_schTally p hp).1 ((applyWrite_schTally hp ..).trans (hw _))
    ⟨((RegKept.refl h.regs).raise (pastCounters_run hp) ..).val, raise_raised h _ (by decide), fun k => tally_congr (by simp) k⟩

/-! ### A quota (R271). -/

theorem polQuotaWrite_takes {s : State} {i p : Nat} {v : Word} (h : Inv s) (hs : SecureSession s i) (hp : p < 16)
    (hh : sumNat (((List.range 16).filter (· != p)).map fun q => bits (regRaw s pgPOL (oPOL_QUOTA + 8 * q)) 31 0) + bits v.toNat 31 0
      ≤ capHbm s)
    (hf : sumNat (((List.range 16).filter (· != p)).map fun q => bits (regRaw s pgPOL (oPOL_QUOTA + 8 * q)) 63 32) + bits v.toNat 63 32
      ≤ capFlash s)
    (hu : flashUse s p ≤ bits v.toNat 63 32 * 2 ^ 30) :
    Runs (.polQuotaWrite i p v) s fun t =>
      quotaH t p = bits v.toNat 31 0 * 2 ^ 30 ∧ quotaF t p = bits v.toNat 63 32 * 2 ^ 30
        ∧ OtherRegs s t pgPOL (oPOL_QUOTA + 8 * p) ∧ t = { s with regs := t.regs } := by
  obtain ⟨hreg, hffld, hhfld⟩ := plain_polQuota p hp
  have hw : quotaWrite s p (merged s pgPOL (oPOL_QUOTA + 8 * p) v.toNat)
      = setReg s pgPOL (oPOL_QUOTA + 8 * p) (merged s pgPOL (oPOL_QUOTA + 8 * p) v.toNat) := by
    simp only [quotaWrite, bits_merged hhfld, bits_merged hffld]
    rw [if_neg (by simp only [Bool.or_eq_true, decide_eq_true_eq]; omega), if_neg (by simp only [Bool.and_eq_true, decide_eq_true_eq]; omega)]
  refine runs_of_applyWrite (congrArg Host.Outcome.next (if_pos hp)) hs hreg ((applyWrite_polQuota hp ..).trans hw)
    ⟨?_, ?_, otherRegs_setReg h.regs (pastCounters_run hp).2 _, rfl⟩
  · rw [quotaH, fldGet_setReg_merged h.regs hhfld (by decide)]
  · rw [quotaF, fldGet_setReg_merged h.regs hffld (by decide)]

/-! ### TAL_ADD (R467-R469). -/

/-- A write of TAL_ADD by any open session comes to the rule of the tallies. -/
theorem runs_of_talAdd {s t : State} {i k : Nat} {v : Word} {P : State → Prop} (hserve : serving s = true) (hi : i < 16)
    (ho : (sess s i).isOpen = true) (hk : k < 32) (hw : (talAdd s i k v.toNat).1 = t) (hP : P t) : Runs (.talAdd i k v) s P := by
  obtain ⟨hreg, hcode, hnone⟩ := plain_talAdd k hk
  have hmay (d : RegDesc) (hd : regDesc (pgTAL + k) oTAL_ADD = some d) : mayWrite s i (pgTAL + k) oTAL_ADD d = true := by
    have hrws : (d.flds.any fun f => f.acc == .rws) = false := by simpa [hd] using hnone
    have hpage : ¬ pgTAL + k < pgRGN + 48 := by simp only [pgTAL, pgRGN]; omega
    simp [mayWrite, hrws, hpage, hcode]
  refine ⟨t, (congrArg Host.Outcome.next (if_pos hk)).trans (congrArg Host.Outcome.next ?_), hP⟩
  rw [sessWrite, if_pos (by simp [hserve, hi, ho]), writeReg_plain hreg hmay, applyWrite_talAdd hk, hw]

theorem talAdd_adds {s : State} {i k p : Nat} {v : Word} (h : Inv s) (hserve : serving s = true) (hi : i < 16)
    (ho : (sess s i).isOpen = true) (hk : k < 32) (hp : p < 16) (hown : ownsPart s i p = true)
    (ht : tallyAllotted s p (512 * k + bits v.toNat 8 0) = true) :
    Runs (.talAdd i k v) s fun t =>
      tally t (512 * k + bits v.toNat 8 0) = tally s (512 * k + bits v.toNat 8 0) + BitVec.ofNat 32 (bits v.toNat 63 32)
        ∧ (∀ j, j ≠ 512 * k + bits v.toNat 8 0 → tally t j = tally s j) ∧ t.mem = s.mem ∧ t.regs = s.regs ∧ t.sched = s.sched := by
  have hw : (talAdd s i k v.toNat).1 = addTally s (512 * k + bits v.toNat 8 0) (BitVec.ofNat 32 (bits v.toNat 63 32)) := by
    unfold talAdd
    dsimp only
    rw [if_pos (List.any_eq_true.mpr ⟨p, List.mem_range.mpr hp, by rw [hown, ht]; rfl⟩)]
  refine runs_of_talAdd hserve hi ho hk hw ⟨?_, fun j hj => ?_, by simp, by simp, by simp⟩
  · rw [tally_addTally h.tallies, if_pos rfl]
  · rw [tally_addTally h.tallies, if_neg hj]
    exact BitVec.add_zero _

/-- On a tally of no partition of the session's it is an address error (R467). -/
theorem talAdd_refused {s : State} {i k : Nat} {v : Word} (hserve : serving s = true) (hi : i < 16) (ho : (sess s i).isOpen = true)
    (hk : k < 32) (hnone : ∀ p, p < 16 → ownsPart s i p = true → tallyAllotted s p (512 * k + bits v.toNat 8 0) = false) :
    Runs (.talAdd i k v) s fun t => t = bump s pgIVT oIVT_ADDR_ERR 1 := by
  have hw : (talAdd s i k v.toNat).1 = bump s pgIVT oIVT_ADDR_ERR 1 := by
    unfold talAdd
    dsimp only
    rw [if_neg]
    · rfl
    · simpa using hnone
  exact runs_of_talAdd hserve hi ho hk hw rfl

/-- A tally reaches a value that lies less than 2^31 behind it (R468). -/
theorem reached_iff (t v : W32) : reached t v = true ↔ (t - v).toNat < 2 ^ 31 := by
  rw [reached, Bool.not_eq_true', BitVec.msb_eq_false_iff_two_mul_lt]
  omega

/-- Settles O21: each command by the rule of its register's chapter, with the value that the register's access codes let through. -/
theorem registerWriteCommandsRun : Obligations.RegisterWriteCommandsRun := by
  unfold Obligations.RegisterWriteCommandsRun
  exact ⟨fun s i port h hs => lnkRetrain_runs h hs, fun s i v h hs => rtrCoordWrite_coord h hs, fun s i v h hs => rtrCoordWrite_plane h hs,
    fun s i p v h hs => rtrSliceWrite_takes h hs, fun s i p v h hs => rtrSliceWrite_rejected h hs,
    fun s i v h hs => depEnvelopeWrite_takes h hs, fun s i v _ hs => depEnvelopeWrite_keeps hs, fun s i k v h hs => schSessWrite_runs h hs,
    fun s i p v h hs => schPartWrite_takes h hs, fun s i p v h hs => schPartWrite_pinned h hs,
    fun s i p v h hs => schTallyWrite_takes h hs, fun s i p v h hs => schTallyWrite_pinned h hs,
    fun s i p v h hs => polQuotaWrite_takes h hs, fun s i k p v => talAdd_adds, fun s i k v _ => talAdd_refused, reached_iff⟩

end Sys2Proof.Machine
end
